-- ==== Sys2Proof/Word.lean ====
section
/-! DEFINITION. The word types: bytes, management registers, the digital number formats of R28 as their bit
patterns, stamps, and the sparse table in which State holds numbered things. -/
namespace Sys2Proof

/-- One byte of a packet, a record or a memory. -/
abbrev Byte := BitVec 8

/-- One 32-bit management register (R12). -/
abbrev Reg := BitVec 32

/-- IEEE 754 binary32 as its bits (R28). -/
abbrev F32 := BitVec 32

/-- bfloat16 as its bits (R28). -/
abbrev Bf16 := BitVec 16

/-- A CH24 value as its 24 bits (R28). -/
abbrev Ch24 := BitVec 24

/-- A stamp: nanoseconds of TAI (R297), a count and not a word. -/
abbrev Stamp := Nat

/-- Numbered things held sparsely: keys strictly rising. -/
abbrev Tbl (α : Type) := List (Nat × α)

end Sys2Proof
end

