-- ==== Sys2Proof/Syntax.lean ====
section
/-! DEFINITION. The commands of the block: one constructor of Instr per row of spec/opcode_table.json, with the operands
that the row's rule gives it. The table gives the rows no bits (log entry 1). A Sloson command carries the packet as it
arrives, all its bytes included (R261); an event carries what the world outside the package supplies (a measured
voltage, an arriving response, the page, yelm or step that is concerned). -/
namespace Sys2Proof

/-- Destination of a frame by its MAC address (R235). -/
inductive MacDst where
  | own | broadcast | solicited (addr : BitVec 128) | pfcGroup | other
deriving DecidableEq, Repr

/-- MACsec state of a received frame (R256). -/
inductive SecTag where
  | none
  | tagged (channel an pn : Nat) (valid : Bool)
deriving DecidableEq, Repr

/-- What a logical port sees of a received frame below the IP payload (R234, R235, R252, R254, R256). -/
structure RxMeta where
  /-- Bytes of the whole frame. -/
  length : Nat
  dst : MacDst
  /-- The PCP of its VLAN tag; none on an untagged frame. -/
  pcp : Option Nat
  /-- The DSCP of its IP header; none on a frame that is not IP. -/
  dscp : Option Nat
  sec : SecTag
  /-- Bytes of headroom left on the port for each priority, 0 first, once the frame is taken in; a priority that the list does not
  reach has all of it (R254). -/
  headroom : List Nat
deriving DecidableEq, Repr

/-- An untagged frame to the port's own address, without SecTAG, that leaves all headroom free. -/
def RxMeta.plain : RxMeta := ⟨64, .own, none, some 0, .none, []⟩

/-- A Sloson request as it arrives (R238, R264): the frame's addressing and every byte of the packet, header first. -/
structure Packet where
  /-- Command stamp: receive timestamp of the frame, or of the RDMA READ response of a pulled packet (R264). -/
  ts : Nat
  /-- Logical port on which it arrived. -/
  lport : Nat
  /-- VLAN ID, 0 when untagged. -/
  vlan : Nat
  dstIp : BitVec 128
  srcIp : BitVec 128
  srcPort : Nat
  dstPort : Nat
  /-- Fetched from a submission ring of this VI and queue (R249) instead of received in a datagram. -/
  pull : Option (Nat × Nat)
  bytes : List Byte
  /-- What the port sees of the frame it comes in; without meaning for a pulled packet. -/
  rx : RxMeta
deriving DecidableEq, Repr

/-- An SMBus transaction (R461): the stamp of its STOP condition, whether its PEC is right, and its request bytes. -/
structure SbRequest where
  ts : Nat
  pecOk : Bool
  data : List Byte
deriving DecidableEq, Repr

/-- R466: the instructions of the test port. -/
inductive TapInstr where
  | bypass | idcode | samplePreload | extest | extestPulse | extestTrain | clamp | highz
deriving DecidableEq, Repr

/-- What a received non-command frame carries (R238, R239, R244, R299). -/
inductive FrameBody where
  /-- ARP request or neighbour solicitation for an address. -/
  | resolveRequest (target : BitVec 128)
  /-- ARP reply or neighbour advertisement of an address. -/
  | resolveReply (addr : BitVec 128)
  /-- ICMP or ICMPv6 echo request. -/
  | echo
  /-- RoCEv2 request from outside, to a queue pair of the device. -/
  | roceRequest (qpn : Nat)
  /-- A UDP datagram to another port, or another protocol. -/
  | other (udpPort : Nat)
deriving DecidableEq, Repr

/-- A received non-command frame, or in Doze any frame on WAKE_LPORT (R399). -/
structure Frame where
  ts : Nat
  lport : Nat
  vlan : Nat
  rx : RxMeta
  srcIp : BitVec 128
  dstIp : BitVec 128
  fragment : Bool
  /-- CE mark on a RoCEv2 packet, and the connection it belongs to (R255). -/
  ce : Option (Nat × Nat)
  body : FrameBody
  /-- The whole Sloson packet, where the frame carries one in Doze (R399). -/
  sloson : Option Packet
deriving DecidableEq, Repr

/-- What one side of a pair reports of itself across the pair connection (R352). -/
structure PeerFacts where
  peerVi : Nat
  role : Nat
  digest : List Byte
  traced : Bool
  sourceKind : Nat
  sourceId : Nat
  timeDiffNs : Nat
  openSeqs : Nat
  adapterSets : Nat
  queues : Nat
  jrnlMib : Nat
  digitalMib : Nat
  busy : Bool
deriving DecidableEq, Repr

/-- The outcome of the oldest outstanding RDMA request of a connection (R245, R469). -/
inductive RdmaReply where
  /-- An acknowledged WRITE, or a READ with its data. -/
  | ok (data : List Byte)
  /-- A remote access error NAK. -/
  | nak
  /-- A receiver-not-ready NAK. -/
  | rnr
  /-- The peer's facts, in answer to the check of R352. -/
  | peer (f : PeerFacts)
deriving DecidableEq, Repr

/-- How reading a whole source ended (R196, R469). -/
inductive SourceRead where
  | read (data : List Byte)
  | unreadable
deriving DecidableEq, Repr

/-- R375: what a calibration measured at one tap: bank, converter, tap, mean code (in 1/1,250), the DLY_TRIM found, the
half-difference error and the offset left at verification (in 1/1,000 code). -/
structure TapFound where
  bank : Nat
  conv : Nat
  tap : Nat
  codeSum : Int
  dly : Nat
  offsetMilli : Int
  gainMilliPct : Int
deriving DecidableEq, Repr

/-- R338, R340: how a test of a pack ended. -/
structure TestResult where
  kind : Nat
  test : Nat
  pass : Bool
  row : Nat
deriving DecidableEq, Repr

/-- R404: the voltage and current of one rail, FP32. -/
structure RailSample where
  volts : F32
  amps : F32
deriving DecidableEq, Repr

/-- R299: a Sync message: the offset it gives, and the sync interval of its header in ns. -/
structure SyncMsg where
  offset : Int
  intervalNs : Nat
deriving DecidableEq, Repr

/-- R299: an Announce message: domain, the data set that the default best master clock algorithm compares (priority1, clock
class, accuracy, offset scaled log variance, priority2, grandmaster identity, steps removed), the sender's clock and port
identity, announce interval in ns, UTC offset. -/
structure AnnounceMsg where
  domain : Nat
  priority1 : Nat
  clockClass : Nat
  accuracy : Nat
  variance : Nat
  priority2 : Nat
  clockId : Nat
  stepsRemoved : Nat
  senderId : Nat
  senderPort : Nat
  intervalNs : Nat
  utcOffset : Int
deriving DecidableEq, Repr

/-- R327: the structure an ECC error hits, as the rows of its table, with what it concerns. -/
inductive EccSite where
  | stepData (step : Nat)
  | page (vi page : Nat)
  | imageSection (vi step : Nat)
  | oneCopy
  | bothCopies (vi : Nat) (seq : Option Nat) (entry : Option (Nat × Nat))
  | adapterSet (vi set : Nat)
  | monitorState (yelm array : Nat)
  | trims (yelm : Nat)
deriving DecidableEq, Repr

/-- R327: an ECC error. -/
structure EccError where
  corrected : Bool
  tier : Nat
  address : Nat
  die : Nat
  site : EccSite
deriving DecidableEq, Repr

/-- R355: the body of a mirror record, by kind. -/
inductive MirrorBody where
  | entry (hdr : List Byte) (request : Packet)
  | outcome (queue psn state status : Nat) (payload : List Byte)
  | retireUpto (queue uptoStamp : Nat)
  | retireOne (queue psn : Nat)
  | seqOpen (payload : List Byte)
  | seqFork (child : Nat)
  | seqClose
  | kvPin (on : Bool)
  /-- `kv` holds KV layer, position, and the element and scale bytes of its key and value rows (R131). -/
  | commit (pBefore kept : Nat) (tokens : List Nat) (kv : List (Nat × Nat × List (List Byte) × List (List Byte)))
  | adpGrad (set : Nat) (grads : List (List F32)) (lastTrain : Nat)
  /-- Hooks (hook, rank, scale, dimensions), gains and head bias of the set, then rows, columns, MASTER, ADAM_M and ADAM_V of every
  tensor. -/
  | adpState (set version t : Nat) (hooks : List (Nat × Nat × F32 × Nat × Nat)) (gains : List Nat) (bias : Bool)
      (tensors : List (Nat × Nat × List F32 × List F32 × List F32))
  | adpClosed (set : Nat)
  | recipe (index : Nat) (record : List Byte) (fromStamp : Nat)
  | queue (record : List Byte) (gen : Nat) (h : Option Nat) (accepted : List Nat)
  | queueGone (queue : Nat)
  | digest (d : List Byte)
  | keepalive
  | epoch (beat : Nat)
  | snapshotEnd (joinStamp : Nat)
deriving DecidableEq, Repr

/-- R354: a record of the stream as it arrives at the mirror. -/
structure MirrorRecord where
  groupEnd : Bool
  length : Nat
  stamp : Nat
  seqno : Nat
  seq : Nat
  crcOk : Bool
  body : MirrorBody
deriving DecidableEq, Repr

/-- The commands, one per row of the opcode table. -/
inductive Instr where
  /-- R240. VI 0 creates a tenant VI from an address record and a partition record, together with its queue 0. -/
  | viCreate (p : Packet)
  /-- R347. Starts teardown of a VI: its tags are advanced, later requests are refused, steps are abandoned, transfers are waited for and memory and arrays are scrubbed. -/
  | viClose (p : Packet)
  /-- R247. Creates a queue from a queue record, with tag 1 and an empty PSN window. -/
  | qCreate (p : Packet)
  /-- R347. Destroys a queue, retires its journal entries without completion and abandons its admitted steps. -/
  | qDestroy (p : Packet)
  /-- R249. The host reports SQ_TAIL and CQ_HEAD; the device starts fetching pulled slots by RDMA READ and frees completion ring space. -/
  | qDoorbell (p : Packet)
  /-- R245. Creates a RoCEv2 reliable connection to a host queue pair. -/
  | rcCreate (p : Packet)
  /-- R245. Closes a reliable connection unless regions are registered on it. -/
  | rcDestroy (p : Packet)
  /-- R246. Registers a host memory region of a given USE on a connection. -/
  | regionAdd (p : Packet)
  /-- R246. Removes a host region unless it holds remote-tier blocks, is an installed image source or is a queue ring. -/
  | regionRemove (p : Packet)
  /-- R242. Changes a VI's partition record (courses, quotas, areas, queues, train share, egress shaping) within the limits of its state. -/
  | yelmAlloc (p : Packet)
  /-- R278. Returns the partition record in force for a VI. -/
  | partRead (p : Packet)
  /-- R195. Starts loading an image: static checks, ACCEPTED, then the check pass and the program pass. -/
  | imgLoad (p : Packet)
  /-- R206. Starts an in-place swap to a new image: static checks, ACCEPTED, then a check pass while the VI serves. -/
  | imgSwap (p : Packet)
  /-- R212. Raises a barrier at the next beat and, once the VI's steps have ended, erases the VI's image arrays and spares. -/
  | imgErase (p : Packet)
  /-- R213. Marks every array of the VI, or those below MARGIN, due for refresh. -/
  | imgRefresh (p : Packet)
  /-- R280. Opens a sequence, possibly sharing a prefix of a source sequence. -/
  | seqOpen (p : Packet)
  /-- R281. Submits a decode, prefill or verify step for a sequence; it is checked, journaled and waits for admission. -/
  | seqStep (p : Packet)
  /-- R148. Forks a child sequence that shares every committed page of its parent. -/
  | seqFork (p : Packet)
  /-- R156. Closes a sequence: abandons its steps and frees its pages, drop records, token log and remote blocks. -/
  | seqClose (p : Packet)
  /-- R283. Reports the sequence's committed length, page states and flags at the command stamp. -/
  | seqQuery (p : Packet)
  /-- R153. Pins or unpins every page of a sequence in tier T1, fetching or recomputing pages as needed. -/
  | kvPin (p : Packet)
  /-- R154. Spills every private page of a sequence to the remote tier. -/
  | kvEvict (p : Packet)
  /-- R155. Starts fetching and recomputing a sequence's pages without a step. -/
  | kvPrefetch (p : Packet)
  /-- R161. Creates and initialises an adapter set from its specification. -/
  | adpSetCreate (p : Packet)
  /-- R286. Moves an adapter set's records between the device and a host region; a write to the device commits a new version. -/
  | adpSetXfer (p : Packet)
  /-- R161. Frees an adapter set that no open sequence names. -/
  | adpSetClose (p : Packet)
  /-- R168. Submits a training forward step that computes the loss and saves activations in the saved area. -/
  | adpFwdSave (p : Packet)
  /-- R173. Consumes a training sequence's saved window as internal backward steps, or discards it. -/
  | adpBwd (p : Packet)
  /-- R182. Applies AdamW to an adapter set and commits a new version. -/
  | adpUpdate (p : Packet)
  /-- R86. Reads a rectangle of a yelm buffer between layer operations. -/
  | tileRead (p : Packet)
  /-- R86. Writes a rectangle of a yelm buffer between layer operations. -/
  | tileWrite (p : Packet)
  /-- R225. Changes masked fields of a recipe, effective from the next beat boundary. -/
  | recipeSet (p : Packet)
  /-- R382. Requests calibration of one or all of the VI's yelms and completes when they have committed to the store. -/
  | calRun (p : Packet)
  /-- R383. Returns a stored or in-force trim set of one bank of a yelm. -/
  | calTableRead (p : Packet)
  /-- R300. Names and enables the preferred time source from the next beat boundary. -/
  | timeSet (p : Packet)
  /-- R305. Schedules a change of beat period at a boundary common to both periods. -/
  | beatSet (p : Packet)
  /-- R289. Retires the journal entries of a queue whose sent completions are stamped at or below UPTO_STAMP. -/
  | jrnlAck (p : Packet)
  /-- R337. Reads and verifies a signed test-pattern pack into reserved HBM. -/
  | testPackLoad (p : Packet)
  /-- R339. Runs a loaded test pack on a range of physical yelms. -/
  | testPackRun (p : Packet)
  /-- R335. Returns and removes the oldest error records of the VI's ring and clears its loss counters. -/
  | errDrain (p : Packet)
  /-- R336. Writes CPER records for the ring's digital, memory and link records into a host region. -/
  | cperExport (p : Packet)
  /-- R342. Starts a reset of a yelm, thatch die, purlin group, VI, ridge firmware or the device. -/
  | reset (p : Packet)
  /-- R352. Joins a VI to a pair as home or mirror once the conditions are checked over the pair connection. -/
  | pairJoin (p : Packet)
  /-- R368. Ends a pair on the home or the mirror side. -/
  | pairLeave (p : Packet)
  /-- R364. Makes a mirror VI the home, deposing the old home where it can be reached. -/
  | pairTakeover (p : Packet)
  /-- R363. Lets a home serve without its mirror, or starts a new join from UNMIRRORED. -/
  | pairUnmirrored (p : Packet)
  /-- R435. Forms an attestation report body and adds it to the open signing batch. -/
  | attestGet (p : Packet)
  /-- R438. Installs or deletes a MACsec transmit or receive association. -/
  | macsecKey (p : Packet)
  /-- R429. Writes a verified firmware package into the slot that is not running and stages it on trial. -/
  | fwUpdate (p : Packet)
  /-- R405. Schedules a new power cap, with a notice and a grace period when the cap is lowered. -/
  | pwrCapSet (p : Packet)
  /-- R413. Lowers or restores the warning, throttle and shutdown levels and the grace time. -/
  | thermSet (p : Packet)
  /-- R403. Requests Run, Doze or Deep; entry into Doze or Deep begins with a drain. -/
  | pwrStateSet (p : Packet)
  /-- R295. Reads up to 64 consecutive management registers. -/
  | regRead (p : Packet)
  /-- R295. Writes consecutive registers under their access codes; this row covers every register write that has no row of its own. -/
  | regWrite (p : Packet)
  /-- R295. Returns the request payload unchanged. -/
  | diagEcho (p : Packet)
  /-- R89. A write to CNT_CLEAR sets the yelm window counters to 0. -/
  | cntClear (ts : Nat) (vi : Nat) (yelm : Nat) (value : Reg)
  /-- R232. A write to CLR_UNIT clears the selected unit's precision counters. -/
  | clrUnit (ts : Nat) (vi : Nat) (value : Reg)
  /-- R232. A write to CLR_ALL clears every unit's precision counters and the VI totals. -/
  | clrAll (ts : Nat) (vi : Nat) (value : Reg)
  /-- R218. A write to FLAG_WINDOW discards the window counts in progress; a new window series starts at the next boundary. -/
  | flagWindowWrite (ts : Nat) (vi : Nat) (value : Reg)
  /-- R233. A write to PORT_MODE schedules a port mode change for the next beat boundary. -/
  | portModeWrite (ts : Nat) (vi : Nat) (port : Nat) (value : Reg)
  /-- R382. VI 0 requests calibration of one physical yelm. -/
  | calReq (ts : Nat) (vi : Nat) (value : Reg)
  /-- R392. A write to a user sequencer entry's configuration takes effect at the next round and clears VALID. -/
  | seqCfgWrite (ts : Nat) (vi : Nat) (entry : Nat) (value : Reg)
  /-- R401. A write to WAKE_AT_HI arms the WAKE_AT pair, or wakes at once if the stamp has already passed. -/
  | wakeAtHiWrite (ts : Nat) (vi : Nat) (value : Reg)
  /-- R430. Ends the firmware trial and raises MIN_SVN to the running firmware's SVN. -/
  | svnCommit (ts : Nat) (vi : Nat) (value : Reg)
  /-- R431. Stores OPKEY_DIGEST in the selected operator key slot and marks the slot valid. -/
  | opkeyCommit (ts : Nat) (vi : Nat) (value : Reg)
  /-- R431. Clears an operator key slot and removes the test packs signed with it. -/
  | opkeyRevoke (ts : Nat) (vi : Nat) (value : Reg)
  /-- R439. Deletes every MACsec association of the selected logical port. -/
  | msOff (ts : Nat) (vi : Nat) (value : Reg)
  /-- R319. A read of STAMP_LO returns the low time bits and latches STAMP_HI for the reading VI. -/
  | stampLoRead (ts : Nat) (vi : Nat)
  /-- R319. A read of BEAT_NUM_LO returns the low beat bits and latches BEAT_NUM_HI. -/
  | beatNumLoRead (ts : Nat) (vi : Nat)
  /-- R423. A read of ENERGY_MJ_LO returns the low energy bits and latches ENERGY_MJ_HI. -/
  | energyMjLoRead (ts : Nat) (vi : Nat)
  /-- R443. A read of TX_PN_LO returns the low packet number bits and latches TX_PN_HI. -/
  | txPnLoRead (ts : Nat) (vi : Nat)
  /-- R462. Sideband read of the identity registers and the serial number. -/
  | idRead (r : SbRequest)
  /-- R462. Sideband read of the power state, status flags, hottest die, power and stamp. -/
  | statusRead (r : SbRequest)
  /-- R464. Sideband read of registers within the allowed ranges. -/
  | regReadSb (r : SbRequest)
  /-- R454. Writes VI 0's address record, effective from the next beat boundary. -/
  | vi0AddrWrite (r : SbRequest)
  /-- R462. Returns VI 0's address record. -/
  | vi0AddrRead (r : SbRequest)
  /-- R398. Sideband command that wakes the device from Doze or Deep. -/
  | wake (r : SbRequest)
  /-- R345. Sideband command that performs an uncounted device reset and brings the device back from out of service. -/
  | serviceRestore (r : SbRequest)
  /-- R465. Starts firmware recovery by invalidating the slot that is not preferred. -/
  | fwRecoverBegin (r : SbRequest)
  /-- R465. Writes recovery data into the recovery slot. -/
  | fwRecoverData (r : SbRequest)
  /-- R465. Verifies the recovered package and boots it, or leaves the slot invalid. -/
  | fwRecoverEnd (r : SbRequest)
  /-- R466. An IEEE 1149.1 instruction on the test port; instructions that drive lands act only while SYS_RESET_L is low. -/
  | testPortInstruction (ts : Nat) (i : TapInstr)
  /-- R238. A received non-command frame is steered, answered (ARP, ND, ICMP echo) or dropped and counted. -/
  | rxFrame (f : Frame)
  /-- R254. A received PFC XOFF or XON pauses or resumes a transmit priority. -/
  | pfcFrame (ts : Nat) (lp : Nat) (prio : Nat) (xoff : Bool)
  /-- R255. A received CNP cuts a connection's send rate to 7/8. -/
  | cnp (ts : Nat) (vi : Nat) (rc : Nat)
  /-- R255. After 100 µs without a CNP, a connection's rate rises by 1/64 of line rate. -/
  | ccRateIncrease (ts : Nat) (vi : Nat) (rc : Nat)
  /-- R254. A transmit priority paused longer than PFC_WD is counted and its frames are discarded until XON. -/
  | pfcWatchdog (ts : Nat) (lp : Nat) (prio : Nat)
  /-- R239. A resolved neighbour entry expires after 30 s. -/
  | neighbourExpiry (ts : Nat) (addr : BitVec 128)
  /-- R245. An RDMA response or ACK arrives, is matched to its request record, or is dropped if its generation is stale. -/
  | rdmaResponse (ts : Nat) (vi : Nat) (rc : Nat) (r : RdmaReply)
  /-- R249. Fetched pull slots arrive; each valid packet becomes a command, and a bad one is discarded and recorded. -/
  | pullFetchResponse (ts : Nat) (vi : Nat) (queue : Nat) (lport : Nat) (slots : List (List Byte))
  /-- R245. An ACK timeout makes a connection retry, or put the connection in error once retries are exhausted. -/
  | rcAckTimeout (ts : Nat) (vi : Nat) (rc : Nat)
  /-- R346. An RDMA transfer reaches its transfer timeout during teardown or a failing fetch. -/
  | transferTimeout (ts : Nat) (vi : Nat) (rc : Nat)
  /-- R233. A logical port's link drops. -/
  | linkDown (ts : Nat) (lp : Nat)
  /-- R233. A logical port's link comes up. -/
  | linkUp (ts : Nat) (lp : Nat)
  /-- R399. In Doze, a frame on WAKE_LPORT is answered, held and waking, or dropped. -/
  | wakePacket (f : Frame)
  /-- R97. The device admits an eligible step, internal steps included: it binds generation and adapter version, reserves pages and staging and picks a home group. -/
  | stepAdmit (ts : Nat)
  /-- R107. A projection's wave closes, taking queued tokens into free input buffer slots and latching the recipe. -/
  | waveClose (ts : Nat) (vi : Nat) (proj : Nat)
  /-- R321. A band read starts on a lit array: trims are latched and the operand check runs. -/
  | bandReadStart (ts : Nat) (yelm : Nat) (array : Nat) (d1 : Int) (d2 : Int) (crcOk : Bool)
  /-- R42. A 160 ns trit cycle: lit arrays are chosen, one plane integrates, the previous plane converts and its monitor correction runs. -/
  | tritCycle (ts : Nat) (yelm : Nat)
  /-- R56. A band read ends its last plane: the confidence check decides a repeat, a hard miss or acceptance, and the scale stage runs. -/
  | bandReadEnd (ts : Nat) (yelm : Nat) (array : Nat)
  /-- R81. A CH24 partial sum arrives at a yelm and is added once its own y(j) is final. -/
  | chainHopReceive (ts : Nat) (wave : Nat) (slot : Nat) (yelm : Nat) (channel : Nat)
  /-- R109. A token leaves a projection at the chain tail and its input buffer slots are freed. -/
  | layerOperationEnd (ts : Nat) (wave : Nat) (slot : Nat)
  /-- R178. A yelm starts transpose reads of a gradient when no decode wave waits and TRAIN_SHARE allows. -/
  | transposeRead (ts : Nat) (yelm : Nat) (array : Nat) (step : Nat) (tok : Nat)
  /-- R114. A token's embedding is looked up into slot 0. -/
  | embed (ts : Nat) (step : Nat) (tok : Nat)
  /-- R115. A score engine computes RMSNorm or LayerNorm of slot 0. -/
  | norm (ts : Nat) (step : Nat) (tok : Nat)
  /-- R127. A score engine rotates, stages keys and values, and attends over committed pages and staging. -/
  | attn (ts : Nat) (step : Nat) (tok : Nat)
  /-- R116. A score engine applies the activation function. -/
  | act (ts : Nat) (step : Nat) (tok : Nat)
  /-- R116. A scaled vector is added into the residual stream. -/
  | resid (ts : Nat) (step : Nat) (tok : Nat)
  /-- R110. The router chooses top-k experts, gate weights and replicas for a token. -/
  | route (ts : Nat) (step : Nat) (tok : Nat)
  /-- R113. All chosen experts' outputs are in and are added into slot 0 by gate weight. -/
  | experts (ts : Nat) (step : Nat) (tok : Nat)
  /-- R117. The head projection yields capped logits at a sampled position. -/
  | head (ts : Nat) (step : Nat) (tok : Nat)
  /-- R141. A step whose positions have all finished commits staging, copies on write, links pages and releases ring pages. -/
  | stepCommit (ts : Nat) (step : Nat)
  /-- R347. A step marked to end reaches its next layer boundary and ends without commit, freeing staging and pins. -/
  | stepEnd (ts : Nat) (step : Nat)
  /-- R271. A completion is sent as a packet or written into the completion ring once it is not held. -/
  | completionSend (ts : Nat) (vi : Nat) (queue : Nat)
  /-- R250. CPL_RETRY beats pass without retirement; the completion is sent again or CPL_UNDELIVERED is recorded. -/
  | cplRetry (ts : Nat) (vi : Nat) (queue : Nat) (psn : Nat)
  /-- R143. The device makes room in a VI's T1 arenas by spilling idle private pages or dropping idle shared pages. -/
  | t1Reclaim (ts : Nat) (vi : Nat)
  /-- R144. A spill transfer to T2 completes and the page becomes SPILLED. -/
  | spillComplete (ts : Nat) (vi : Nat) (page : Nat)
  /-- R145. A fetch transfer from T2 completes and the page becomes RESIDENT. -/
  | fetchComplete (ts : Nat) (vi : Nat) (page : Nat) (data : List Byte)
  /-- R196. A load or swap check pass has read the whole image and rejects it or proceeds. -/
  | imgCheckPassEnd (ts : Nat) (vi : Nat) (src : SourceRead)
  /-- R201. Program-and-verify of one row completes, or fails and retires the array. -/
  | rowProgram (ts : Nat) (yelm : Nat) (array : Nat) (attempts : Nat) (ok : Bool)
  /-- R202. An array's programming completes, its monitor state is seeded and its bank is freed. -/
  | arrayProgrammed (ts : Nat) (yelm : Nat) (array : Nat)
  /-- R202. The block erase of an array completes. -/
  | arrayEraseDone (ts : Nat) (yelm : Nat) (array : Nat)
  /-- R209. A swap unit becomes ready and its changed arrays start programming. -/
  | swapUnitStart (ts : Nat) (vi : Nat) (unit : Nat)
  /-- R214. An 8-row refresh slice ends, marking failing rows suspect and seeding the array when done. -/
  | refreshSliceEnd (ts : Nat) (yelm : Nat) (array : Nat) (bad : List Nat)
  /-- R203. A yelm switches a retiring array to its programmed spare between layer operations. -/
  | spareSwitch (ts : Nat) (yelm : Nat) (array : Nat)
  /-- R204. A deferred retirement is tried again after 1,024 beats. -/
  | retireRetry (ts : Nat) (yelm : Nat) (array : Nat)
  /-- R328. A suspect mark expires 90 days after it was set. -/
  | suspectMarkExpiry (ts : Nat) (yelm : Nat) (array : Nat)
  /-- R327. An ECC error is corrected or handled by the structure it hits. -/
  | eccError (ts : Nat) (e : EccError)
  /-- R326. A residue check failure ends the step and reruns it. -/
  | residueFail (ts : Nat) (unit : Nat) (place : Nat) (step : Nat)
  /-- R307. At a beat boundary the device takes the ordered boundary actions: time steps, period changes, trims, barriers, refresh, enforcement, epochs and checkpoints. -/
  | beatBoundary
  /-- R218. A FLAG_WINDOW window ends and unit rates are evaluated against thresholds. -/
  | flagWindowEnd (ts : Nat) (vi : Nat)
  /-- R341. The ridge firmware increments its heartbeat word. -/
  | heartbeat (ts : Nat)
  /-- R341. MISSED_BEATS reaches 8 and the sentinel resets the ridge firmware, or the device if no heartbeat follows. -/
  | heartbeatLost (ts : Nat)
  /-- R343. A domain reset ends; admission resumes, or the device enters out of service. -/
  | resetEnd (ts : Nat) (domain : Nat) (target : Nat)
  /-- R315. After a reset the device sends recorded completions and reruns unretired entries in stamp order. -/
  | replay (ts : Nat) (vi : Nat)
  /-- R348. Teardown scrubbing ends and VI_CLOSE completes. -/
  | teardownComplete (ts : Nat) (vi : Nat)
  /-- R380. ROT_PERIOD has passed and a calibration rotation pass starts. -/
  | rotationPass (ts : Nat)
  /-- R381. A course starts calibrating a yelm once no bank is held. -/
  | yelmCalibrationStart (ts : Nat) (yelm : Nat)
  /-- R375. A yelm calibration ends and its results enter the working copy. -/
  | yelmCalibrationEnd (ts : Nat) (yelm : Nat) (found : List TapFound)
  /-- R377. Calibration results are written to the persistent store. -/
  | calStoreWriteDone (ts : Nat) (yelm : Nat)
  /-- R340. One test of a pack ends; a failure marks the array or schedules calibration. -/
  | testEnd (ts : Nat) (pack : Nat) (yelm : Nat) (array : Nat) (result : TestResult)
  /-- R391. The sentinel sequencer completes an entry, updates the filter and acts on the result. `ratios` holds V / V_ref of
  each conversion in units of 10⁻⁹; `sub` is the SUB converted or, for a rail of R389's channels 18–47 in entry 2's slot (R393),
  its channel. -/
  | monitorConversion (ts : Nat) (entry : Nat) (sub : Nat) (ratios : List Int) (settled : Bool)
  /-- R390. A reference does not settle within 10 ms and the converter converts anyway. -/
  | refSettleTimeout (ts : Nat)
  /-- R303. Every 64 s the time floor is written to the persistent store. -/
  | floorWrite (ts : Nat)
  /-- R414. A 10 µs digital thermal sample may trip warning, throttle or shutdown. -/
  | thermalSample (ts : Nat) (die : Nat) (temp : Int)
  /-- R406. Every 10 µs the governor compares power with the cap and adjusts GOV_LIT. -/
  | governorTick (ts : Nat) (rails : List RailSample)
  /-- R410. PBRAKE_L goes low and pulses stop within 20 ns. -/
  | pbrakeAssert (ts : Nat)
  /-- R411. PBRAKE_L has stayed high for 1 µs and band reads resume. -/
  | pbrakeRelease (ts : Nat)
  /-- R411. Each microsecond after release the brake's lit limit rises by 1. -/
  | brakeRampTick (ts : Nat)
  /-- R398. A falling edge on WAKE_L wakes the device from Doze or Deep. -/
  | wakeL (ts : Nat)
  /-- R398. The time of record reaches WAKE_AT and wakes the device. -/
  | wakeAt (ts : Nat)
  /-- R403. The drain ends and the device enters Doze or Deep. -/
  | powerStateEntry (ts : Nat)
  /-- R403. Power-up from Doze or Deep completes and the device is in Run. -/
  | powerStateExit (ts : Nat)
  /-- R450. VDD_AON reaches regulation and the sarking die starts from its time floor. -/
  | powerUp (ts : Nat) (pufOk : Bool)
  /-- R450. PWR_OK rises, reporting every rail in regulation. -/
  | pwrOkRise (ts : Nat)
  /-- R451. PWR_OK falls; pulses stop, steps end and the main domains are held in reset. -/
  | pwrOkFall (ts : Nat)
  /-- R453. SYS_RESET_L is low for 1 µs and starts a device reset. -/
  | sysResetL (ts : Nat)
  /-- R419. A clock reference is lost and its PLLs coast. -/
  | refLoss (ts : Nat) (ref : Nat)
  /-- R419. A reference stays within 100 ppm for 10 ms and its PLLs relock at the next boundary. -/
  | refReturn (ts : Nat) (ref : Nat)
  /-- R299. A PTP Sync message, with the sync interval its header gives, updates a source's offset, locks it or corrects the time of record. -/
  | sync (ts : Nat) (port : Nat) (m : SyncMsg)
  /-- R299. A PTP Announce message takes part in master selection. -/
  | announce (ts : Nat) (port : Nat) (a : AnnounceMsg)
  /-- R298. Three announce intervals pass without Announce and the PTP source is lost. -/
  | announceTimeout (ts : Nat) (port : Nat)
  /-- R298. A 1PPS edge counts toward TREF lock or disciplines the time of record. -/
  | trefPps (ts : Nat) (phase : Nat)
  /-- R298. No 1PPS edge arrives for 1.5 s and the TREF source is lost. -/
  | ppsTimeout (ts : Nat)
  /-- R298. The 10 MHz input loses lock and the TREF source is lost. -/
  | tenMhzLoss (ts : Nat)
  /-- R300. The preferred source has stayed locked for 16 s and becomes active again. -/
  | sourceReturnTimer (ts : Nat)
  /-- R356. A mirror receives a stream record, applies complete groups and acknowledges. -/
  | mirrorRecord (ts : Nat) (vi : Nat) (r : MirrorRecord)
  /-- R360. A home receives an acknowledgement, extends its lease and releases held replies. -/
  | ack (ts : Nat) (vi : Nat) (seqno : Nat) (stamp : Nat)
  /-- R364. A home receives DEPOSE, fences, abandons steps, flushes records and sends DEPOSED. -/
  | depose (ts : Nat) (vi : Nat)
  /-- R366. A home receives DEPOSED, retires its entries and stays fenced. -/
  | deposed (ts : Nat) (vi : Nat)
  /-- R368. A peer receives LEAVE and becomes unpaired or discards mirrored state. -/
  | leave (ts : Nat) (vi : Nat)
  /-- R355. LEASE_MS / 8 passes without a record and the home sends KEEPALIVE. -/
  | keepalive (ts : Nat) (vi : Nat)
  /-- R361. The home's lease ends without acknowledgement and the VI is fenced. -/
  | leaseExpiry (ts : Nat) (vi : Nat)
  /-- R364. No DEPOSED arrives within twice LEASE_MS and the takeover proceeds. -/
  | deposeTimeout (ts : Nat) (vi : Nat)
  /-- R352. A mirror's home does not answer within 10 s and PAIR_JOIN fails. -/
  | joinTimeout (ts : Nat) (vi : Nat)
  /-- R436. An attestation batch closes on time or count and is signed once. -/
  | attestBatchClose (ts : Nat)
  /-- R437. Derivation of the next LMS tree completes and waiting batches proceed. -/
  | lmsTreeDerived (ts : Nat)
  /-- R451. VDD_AON leaves regulation; the package loses all power and every volatile state, the journals and HBM contents included. -/
  | powerLoss (ts : Nat)
  /-- R453. A rising edge of SYS_RESET_L with PWR_OK high releases reset, starts the ROM loader, or joins a reset already in progress. -/
  | sysResetLRelease (ts : Nat)
  /-- R298. The 10 MHz input gains lock, which sets TEN_MHZ_LOCK and lets the TREF source lock. -/
  | tenMhzLock (ts : Nat)
  /-- R266. A request whose opcode is unknown, or is a device-only opcode, is answered with UNKNOWN_OPCODE. -/
  | unknownOpcode (p : Packet)
  /-- R462. An SMBus transaction with an unknown command code is answered with NOT_APPLICABLE. -/
  | unknownSidebandCode (r : SbRequest) (code : Nat)
  /-- R299. A PTP delay response (end-to-end or peer-to-peer) arrives and updates the mean path delay of the source. -/
  | ptpDelayResponse (ts : Nat) (port : Nat) (delay : Nat)
  /-- R429. Writing and reading back the firmware package into the slot that is not running completes; the slot becomes preferred on trial and FW_UPDATE completes. -/
  | fwSlotWritten (ts : Nat) (verified : Bool)
deriving DecidableEq, Repr

end Sys2Proof
end

