-- ==== Sys2Proof/Decode.lean ====
section
/-! DEFINITION. The decoder over the rows of spec/opcode_table.json that give bits. No row of the table gives any (log
entry 1), so no word spells a command. -/
namespace Sys2Proof

/-- The command that a word spells by the table's bits: none, for every word. Log entry 1 (DESIGN CHOICE). -/
def decodeTableWord (_nbits _w : Nat) : Option Instr := none

end Sys2Proof
end

