-- ==== Sys2Proof/Config.lean ====
section
/-! DEFINITION. What the part fixes (counts and constants of the tables of the spec) and the free values: opaque
constants of which nothing can be proved but their type (log entry 7). -/
namespace Sys2Proof.Config

/-! ### Counts and constants (R6, R7, R12, R35, R83, R90, R95, R241) -/

/-- R6: yelms of the device. -/
def yelmCount : Nat := 3072
/-- R6: courses of 16 yelms. -/
def courseCount : Nat := 192
/-- R7: arrays per yelm. -/
def arraysPerYelm : Nat := 1024
/-- R7, R38: converter banks per yelm, and so arrays lit at most. -/
def banksPerYelm : Nat := 16
/-- R57: row-sensing banks per yelm. -/
def rowBanksPerYelm : Nat := 4
/-- R35: rows of an array. -/
def arrayRows : Nat := 1024
/-- R35: trit-columns of an array. -/
def arrayColumns : Nat := 1040
/-- R6: dies numbered as DIE of R331. -/
def dieCount : Nat := 64
/-- R6: purlin groups. -/
def groupCount : Nat := 12
/-- R12: DEV_ID. -/
def devId : Nat := 0x0A716448
/-- R12: STEPPING, letter B number 1. -/
def stepping : Nat := 0x00004201
/-- R12: SLOSON_VERSION. -/
def slosonVersion : Nat := 1
/-- R12: CAPS, all four capabilities. -/
def caps : Nat := 0xF
/-- R12: HBM_QUOTA of VI 0 in MiB. -/
def hbmMib : Nat := 393216
/-- R241: the quota all tenant VIs may hold together, in MiB. -/
def tenantHbmMib : Nat := 389120
/-- R90, R94: steps in flight in the device. -/
def maxSteps : Nat := 512
/-- R280: sequences the device holds. -/
def maxSequences : Nat := 16384
/-- R12, R137: tier T0 SRAM of a purlin group in MiB. -/
def t0GroupMib : Nat := 288
/-- R261: the Sloson MAGIC. -/
def magic : Nat := 0x51E7
/-- R244: connections of one VI and of the device. -/
def rcPerVi : Nat := 64
def rcPerDevice : Nat := 4096
/-- R244: outstanding RDMA READs of a connection, and RNR retries. -/
def readsPerRc : Nat := 16
def rnrRetry : Nat := 7
/-- R234: headroom of an enabled priority. -/
def headroomBytes : Nat := 262144
/-- R248, R265: the largest push packet and the largest pull packet. -/
def pushMax : Nat := 8192
def pullMax : Nat := 131072
/-- R246: regions of one VI. -/
def regionsPerVi : Nat := 256
/-- R239: neighbour entries of the device, and their life. -/
def neighbourMax : Nat := 4096
def neighbourLifeNs : Nat := 30000000000
/-- R330: records of the device ring and of a tenant ring. -/
def deviceRing : Nat := 4096
def tenantRing : Nat := 256
/-- R337: test packs held, and their largest size. -/
def packMax : Nat := 4
def packBytes : Nat := 16777216
/-- R426: largest firmware package. -/
def firmwareBytes : Nat := 33554432
/-- R328: life of a suspect mark in ns (90 days). -/
def markLifeNs : Nat := 7776000000000000
/-- R466: IDCODE. -/
def idcode : Nat := 0x26448453
/-- R436: leaves of an LMS tree. -/
def lmsLeaves : Nat := 1048576
/-- R399: bytes of the hold buffer of Doze. -/
def holdBytes : Nat := 262144
/-- R92: the largest context limit. -/
def maxContext : Nat := 262144
/-- R303: lead of the time floor, and the interval of its writes. -/
def floorLeadNs : Nat := 128000000000
def floorEveryNs : Nat := 64000000000
/-- R345: the window of device resets, 900 s. -/
def resetWindowNs : Nat := 900000000000

/-! ### Electrical and package tables (R444–R449, R458), as the spec states them -/

/-- R444: side of the land grid. -/
def landSide : Nat := 120
/-- R445: lands per use, in the order of the table. -/
def landsPerUse : List Nat := [5600, 2400, 2000, 1000, 1000, 800, 600, 400, 160, 40, 64, 26, 310]
/-- R449: nominal voltage in mV and power-up group of each rail, in the channel order 2 … 10 of R389. -/
def rails : List (Nat × Nat) :=
  [(900, 2), (800, 2), (750, 1), (750, 1), (750, 1), (800, 1), (700, 2), (3300, 3), (1800, 0)]
/-- R449: maximum current in A of each rail, in the same order. -/
def railAmps : List Nat := [300, 160, 420, 150, 45, 70, 100, 14, 3]
/-- R418: nominal PLL output in MHz by PLL_SEL; HBM and SerDes follow their own standards (0 here). -/
def pllMhz : List Nat := [1250, 400, 1800, 1600, 1500, 1350, 0, 0, 0]
/-- R418: what a coasting PLL runs at, in MHz. -/
def coastMhz : Nat := 200

/-! ### Free values (log entry 7): the spec gives no number, so nothing here has a body -/

/-- R252: the priority that a port which trusts DSCP gives to a frame, by the DSCP of its IP header if it has one; the spec
gives no mapping (log entry 104). -/
opaque dscpPrio : Option Nat → Fin 8
/-- R240, R280: bytes of DIGITAL_MIB that the record of a sequence and its log of n tokens take; the spec sizes neither (log
entry 13). -/
opaque seqBytes : Nat → Nat
/-- R302: the servo noise of a source in ns, which the spec does not number (log entry 12). -/
opaque servoNoise : Nat → Nat
/-- R277: where the device starts to look for a free number of a connection or a region, which the spec leaves to it (log
entry 100). -/
opaque rcStart : Nat → Nat
opaque regionStart : Nat → Nat
/-- R12: factory serial number. -/
opaque serialLo : BitVec 32
opaque serialHi : BitVec 32
/-- R235: factory base MAC address. -/
opaque macBase : BitVec 48
/-- R204: the trit that a verify-read of a pair finds (its code less 1), by a fresh number, the row, the column and the trit
programmed; what drift has done to a cell the spec does not fix (log entry 122). -/
opaque verifyTrit : Nat → Nat → Nat → Int → Fin 3
/-- R36, R45, R51: the held charge of a column, in units of 2^-20 rows, as a function of a fresh number and of the
exact column count. -/
opaque charge : Nat → Int → Int
/-- R82, R119, R161: what an internal source that cannot be seeded or read draws, by a fresh number. -/
opaque draw : Nat → BitVec 32
/-- R129, R111, R169: exp in FP32. -/
opaque fexp : F32 → F32
/-- R119, R169: natural logarithm in FP32. -/
opaque fln : F32 → F32
/-- R116, R117, R128: tanh in FP32. -/
opaque ftanh : F32 → F32
/-- R125: sine and cosine in FP32, within 2 ulp. -/
opaque fsin : F32 → F32
opaque fcos : F32 → F32
/-- R125, R182: a power in FP32. -/
opaque fpow : F32 → F32 → F32
/-- R374: the factory code of a course's reference DAC, the output stored for it in µV, and the code that an adjustment from
an old code and a measured output gives. -/
opaque rdacFactory : Nat → BitVec 16
opaque rdacVolts : Nat → BitVec 32
opaque rdacAdjust : Nat → Nat → Nat → BitVec 16
/-- R425: whether an ECDSA P-384 signature verifies: public key, message, signature. -/
opaque ecdsaOk : List Byte → List Byte → List Byte → Bool
/-- R425: whether an LMS signature verifies. -/
opaque lmsOk : List Byte → List Byte → List Byte → Bool
/-- R434: the public keys and signatures of the device's own identity, by a label and a message. -/
opaque identityPub : List Byte
opaque lmsPub : Nat → List Byte
opaque identitySign : List Byte → List Byte
opaque lmsSign : Nat → Nat → List Byte → List Byte
/-- R427: the key digests of Quineip slots 0–3, which the ROM loader holds. -/
opaque quineipKey : Nat → List Byte
/-- R338: how many tests the payload of a pack holds; the spec does not lay the tests out. -/
opaque packTests : List Byte → Nat
/-- R332: the syndrome of an RC_ERROR record. -/
opaque rcSyndrome : BitVec 8
/-- R435: SHA-384 of the ROM loader. -/
opaque romDigest : List Byte
/-- R245: queue pair numbers and starting packet sequence numbers the device chooses. -/
opaque devQpn : Nat → BitVec 24
opaque devPsn : Nat → BitVec 24

end Sys2Proof.Config
end

