-- ==== Sys2Proof/Machine/Tbl.lean ====
section
/-! DEFINITION. Operations on the sparse tables of State: one entry per key, keys strictly rising, so that equal
contents are equal data. -/
namespace Sys2Proof.Machine

/-- The entry under a key. -/
def tget {α : Type} : Tbl α → Nat → Option α
  | [], _ => none
  | (k', v) :: t, k => if k = k' then some v else tget t k

/-- The entry under a key, or a value where there is none. -/
def tgetD {α : Type} (t : Tbl α) (k : Nat) (d : α) : α := (tget t k).getD d

/-- Put an entry under a key, in the rising order of keys. -/
def tset {α : Type} : Tbl α → Nat → α → Tbl α
  | [], k, v => [(k, v)]
  | (k', v') :: t, k, v =>
    if k = k' then (k, v) :: t
    else if k < k' then (k, v) :: (k', v') :: t
    else (k', v') :: tset t k v

/-- Take the entry under a key out. -/
def tdel {α : Type} (t : Tbl α) (k : Nat) : Tbl α := t.filter (fun e => e.1 != k)

/-- Change the entry under a key, where there is one. -/
def tmod {α : Type} (t : Tbl α) (k : Nat) (f : α → α) : Tbl α :=
  t.map (fun e => if e.1 = k then (e.1, f e.2) else e)

/-- Change every entry. -/
def tmapv {α : Type} (t : Tbl α) (f : Nat → α → α) : Tbl α := t.map (fun e => (e.1, f e.1 e.2))

/-- Whether a key has an entry. -/
def thas {α : Type} (t : Tbl α) (k : Nat) : Bool := (tget t k).isSome

/-- The keys, rising. -/
def tkeys {α : Type} (t : Tbl α) : List Nat := t.map Prod.fst

/-- The values in the order of their keys. -/
def tvals {α : Type} (t : Tbl α) : List α := t.map Prod.snd

/-- Keys strictly rising: the canonical form of a table. -/
def twf {α : Type} : Tbl α → Bool
  | [] => true
  | [_] => true
  | (k, _) :: (k', v') :: t => decide (k < k') && twf ((k', v') :: t)

/-- The lowest key from `start` on that has no entry, looking at most `fuel` keys ahead. -/
def tfree {α : Type} (t : Tbl α) (start : Nat) : Nat → Nat
  | 0 => start
  | fuel + 1 => if thas t start then tfree t (start + 1) fuel else start

/-- A key below n that has no entry: the first from `start` on, round the end. Any key without an entry is the answer for some
`start`. Log entry 100 (DESIGN CHOICE). -/
def tpick {α : Type} (t : Tbl α) (start n : Nat) : Nat :=
  let k := tfree t (start % n) (n - start % n)
  if k < n then k else tfree t 0 n

/-- Insert by a key function, keeping equal keys in order of arrival. -/
def insertBy {α : Type} (lt : α → α → Bool) (x : α) : List α → List α
  | [] => [x]
  | y :: ys => if lt x y then x :: y :: ys else y :: insertBy lt x ys

/-- Stable insertion sort. -/
def sortBy {α : Type} (lt : α → α → Bool) (xs : List α) : List α :=
  xs.foldl (fun acc x => insertBy lt x acc) []

/-- The first element that no other precedes under `lt`. -/
def bestBy {α : Type} (lt : α → α → Bool) : List α → Option α
  | [] => none
  | x :: xs => some (xs.foldl (fun b y => if lt y b then y else b) x)

/-- Replace the element at a position. -/
def lset {α : Type} (xs : List α) (i : Nat) (v : α) : List α := xs.set i v

/-- The element at a position, or a value beyond the end. -/
def lget {α : Type} (xs : List α) (i : Nat) (d : α) : α := xs.getD i d

/-- Sum of naturals. -/
def sumNat (xs : List Nat) : Nat := xs.foldl (· + ·) 0

/-- Sum of integers. -/
def sumInt (xs : List Int) : Int := xs.foldl (· + ·) 0

end Sys2Proof.Machine
end

