-- ==== Sys2Proof/Machine/Bits.lean ====
section
/-! DEFINITION. Bytes and fields: little-endian layouts (R3), register bit fields, saturating counters, the checksums
CRC-16/CCITT (R263) and CRC-32C (R311, R331), and the SHA-2 digests the spec names (SHA-384 R187, SHA-256 R436). -/
namespace Sys2Proof.Machine

/-- R3: a number as n little-endian bytes. -/
def le : Nat → Nat → List Byte
  | 0, _ => []
  | n + 1, v => BitVec.ofNat 8 v :: le n (v / 256)

/-- R3: the number in n little-endian bytes from an offset; bytes past the end count as 0. -/
def leAt (bs : List Byte) (off : Nat) : Nat → Nat
  | 0 => 0
  | n + 1 => (bs.getD off 0).toNat + 256 * leAt bs (off + 1) n

/-- A number in network byte order (R236: IP addresses). -/
def beAt (bs : List Byte) (off n : Nat) : Nat :=
  (List.range n).foldl (fun acc i => acc * 256 + (bs.getD (off + i) 0).toNat) 0

/-- A number as n bytes in network byte order. -/
def be (n v : Nat) : List Byte := (le n v).reverse

/-- The n bytes from an offset, padded with zeros. -/
def bytesAt (bs : List Byte) (off n : Nat) : List Byte := (List.range n).map (fun i => bs.getD (off + i) 0)

/-- n zero bytes (R5: reserved bytes are 0). -/
def zeros (n : Nat) : List Byte := List.replicate n 0

/-- Bits [hi:lo] of a register value. -/
def bitsOf (v : Nat) (hi lo : Nat) : Nat := (v / 2 ^ lo) % 2 ^ (hi - lo + 1)

/-- Bit n of a register value. -/
def bitOf (v n : Nat) : Bool := v / 2 ^ n % 2 == 1

/-- A flag as a bit. -/
def b2n (b : Bool) : Nat := if b then 1 else 0

/-- The low and high 32 bits of a 64-bit value. -/
def lo32 (v : Nat) : Nat := v % 2 ^ 32
def hi32 (v : Nat) : Nat := v / 2 ^ 32 % 2 ^ 32

/-- A value held as 32 bits. -/
def reg (v : Nat) : Reg := BitVec.ofNat 32 v

/-- R89: counters stop at 0xFFFF_FFFF and do not wrap. -/
def satAdd (c n : Nat) : Nat := min (c + n) 0xFFFFFFFF

/-- R89: one more. -/
def bump (c : Nat) : Nat := satAdd c 1

/-- R331: a 16-bit count that stops at 0xFFFF. -/
def bump16 (c : Nat) : Nat := min (c + 1) 0xFFFF

/-- A two's complement number in n bits. -/
def twos (n : Nat) (i : Int) : Nat := (i % (2 ^ n : Nat)).toNat

/-- The integer that n bits hold in two's complement. -/
def signed (n v : Nat) : Int :=
  let w := v % 2 ^ n
  if w < 2 ^ (n - 1) then (w : Int) else (w : Int) - (2 ^ n : Nat)

/-- R274: move a quantity into its range. -/
def clampN (v lo hi : Nat) : Nat := max lo (min v hi)
def clampI (v lo hi : Int) : Int := max lo (min v hi)

/-- Division rounded up. -/
def ceilDiv (a b : Nat) : Nat := (a + b - 1) / b

/-- The nearest power of two, the larger on a tie (R130, R225, R247); 1 for 0. -/
def nearestPow2 (v : Nat) : Nat :=
  if v = 0 then 1
  else
    let lo := 2 ^ Nat.log2 v
    if v - lo < 2 * lo - v then lo else 2 * lo

/-- One bit step of CRC-16/CCITT. -/
def crc16Step (c : Nat) : Nat → Nat
  | 0 => c
  | n + 1 =>
    let c' := if c ≥ 0x8000 then ((c * 2) % 0x10000) ^^^ 0x1021 else c * 2
    crc16Step c' n

/-- R263: CRC-16/CCITT, polynomial 0x1021, initial 0xFFFF, no reflection, no final XOR. -/
def crc16 (bs : List Byte) : Nat :=
  bs.foldl (fun c b => crc16Step (c ^^^ (b.toNat * 256)) 8) 0xFFFF

/-- One bit step of CRC-32C, reflected. -/
def crc32cStep (c : Nat) : Nat → Nat
  | 0 => c
  | n + 1 => crc32cStep (if c % 2 = 1 then (c / 2) ^^^ 0x82F63B78 else c / 2) n

/-- R311, R321, R331, R354: CRC-32C. -/
def crc32c (bs : List Byte) : Nat :=
  (bs.foldl (fun c b => crc32cStep (c ^^^ b.toNat) 8) 0xFFFFFFFF) ^^^ 0xFFFFFFFF

/-! ### SHA-2 (FIPS 180-4; PRESUMED, log entry 11: the spec names the digests and not their rounds) -/

/-- Integer root of the given order, by descending bits. -/
def iroot (k n : Nat) (bits : Nat) : Nat :=
  (List.range bits).foldl (fun r i =>
    let c := r + 2 ^ (bits - 1 - i)
    if c ^ k ≤ n then c else r) 0

/-- Whether a number is prime, by trial division. -/
def isPrime (n : Nat) : Bool := decide (2 ≤ n) && (List.range n).all (fun d => d < 2 || n % d != 0)

/-- The first primes, of which SHA-2 takes roots. -/
def primes80 : List Nat := ((List.range 410).filter isPrime).take 80

/-- Fraction bits of the k-th root of p. -/
def rootFrac (k p bits : Nat) : Nat := iroot k (p * 2 ^ (k * bits)) (bits + 5) % 2 ^ bits

def sha512K : List Nat := primes80.map (fun p => rootFrac 3 p 64)
def sha256K : List Nat := (primes80.take 64).map (fun p => rootFrac 3 p 32)
def sha256Init : List Nat := (primes80.take 8).map (fun p => rootFrac 2 p 32)
def sha384Init : List Nat := ((primes80.drop 8).take 8).map (fun p => rootFrac 2 p 64)

/-- Rotate right in w bits. -/
def rotr (w n x : Nat) : Nat := (x / 2 ^ n) ||| ((x * 2 ^ (w - n)) % 2 ^ w)

/-- The shape of one SHA-2 function: word bits, rotation amounts, round constants. -/
structure Sha where
  w : Nat
  big0 : Nat × Nat × Nat
  big1 : Nat × Nat × Nat
  small0 : Nat × Nat × Nat
  small1 : Nat × Nat × Nat
  k : List Nat

def sha256Shape : Sha := ⟨32, (2, 13, 22), (6, 11, 25), (7, 18, 3), (17, 19, 10), sha256K⟩
def sha512Shape : Sha := ⟨64, (28, 34, 39), (14, 18, 41), (1, 8, 7), (19, 61, 6), sha512K⟩

def shaBig (w : Nat) (r : Nat × Nat × Nat) (x : Nat) : Nat :=
  rotr w r.1 x ^^^ rotr w r.2.1 x ^^^ rotr w r.2.2 x
def shaSmall (w : Nat) (r : Nat × Nat × Nat) (x : Nat) : Nat :=
  rotr w r.1 x ^^^ rotr w r.2.1 x ^^^ (x / 2 ^ r.2.2)

/-- Message schedule: the list grows at its front (newest first). -/
def shaExtend (f : Sha) : Nat → List Nat → List Nat
  | 0, ws => ws
  | n + 1, ws =>
    let x := (shaSmall f.w f.small1 (ws.getD 1 0) + ws.getD 6 0
      + shaSmall f.w f.small0 (ws.getD 14 0) + ws.getD 15 0) % 2 ^ f.w
    shaExtend f n (x :: ws)

/-- One round on the eight working words. -/
def shaRound (f : Sha) (h : List Nat) (kw : Nat × Nat) : List Nat :=
  match h with
  | [a, b, c, d, e, f', g, hh] =>
    let m := 2 ^ f.w
    let ch := (e &&& f') ^^^ ((m - 1 - e) &&& g)
    let t1 := hh + shaBig f.w f.big1 e + ch + kw.1 + kw.2
    let maj := (a &&& b) ^^^ (a &&& c) ^^^ (b &&& c)
    let t2 := shaBig f.w f.big0 a + maj
    [(t1 + t2) % m, a, b, c, (d + t1) % m, e, f', g]
  | _ => h

/-- One block. -/
def shaBlock (f : Sha) (h : List Nat) (block : List Byte) : List Nat :=
  let wb := f.w / 8
  let first := (List.range 16).map (fun i => beAt block (i * wb) wb)
  let ws := (shaExtend f (f.k.length - 16) first.reverse).reverse
  let h' := (f.k.zip ws).foldl (shaRound f) h
  (h.zip h').map (fun p => (p.1 + p.2) % 2 ^ f.w)

/-- Cut into blocks. -/
def chunks {α : Type} (n : Nat) : Nat → List α → List (List α)
  | 0, _ => []
  | _, [] => []
  | fuel + 1, xs => xs.take n :: chunks n fuel (xs.drop n)

/-- Padding and all blocks. -/
def shaRun (f : Sha) (init : List Nat) (bs : List Byte) : List Nat :=
  let bb := 2 * f.w
  let lenB := f.w / 4
  let n := bs.length
  let pad := (bb - (n + 1 + lenB) % bb) % bb
  let msg := bs ++ [0x80] ++ zeros pad ++ be lenB (8 * n)
  (chunks bb (msg.length / bb) msg).foldl (shaBlock f) init

/-- R187, R425: SHA-384. Log entry 11 (PRESUMED). -/
def sha384 (bs : List Byte) : List Byte :=
  ((shaRun sha512Shape sha384Init bs).take 6).flatMap (be 8)
/-- R436: SHA-256. Log entry 11 (PRESUMED). -/
def sha256 (bs : List Byte) : List Byte := (shaRun sha256Shape sha256Init bs).flatMap (be 4)

end Sys2Proof.Machine
end

