-- ==== Sys2Proof/Machine/Float.lean ====
section
/-! DEFINITION. The digital formats of R28 and their arithmetic: every operation is computed exactly and rounded once
(R33), subnormals are flushed and overflow saturates (R30); compensated pairs as R29 and R78 lay them down. -/
namespace Sys2Proof.Machine

/-- A dyadic number m × 2^e. -/
structure Dyadic where
  m : Int
  e : Int
deriving DecidableEq, Repr

/-- Assemble sign, exponent and f fraction bits from a rounded magnitude q × 2^e with q < 2^(f+1): flush below the
smallest normal, saturate above the largest finite value (R30). -/
def assemble (f : Nat) (neg : Bool) (q : Nat) (e : Int) : Nat :=
  let s := if neg then 2 ^ (8 + f) else 0
  let ex : Int := e + f + 127
  if q = 0 then s
  else if ex < 1 then s
  else if ex ≥ 255 then s + 254 * 2 ^ f + (2 ^ f - 1)
  else s + ex.toNat * 2 ^ f + (q - 2 ^ f)

/-- Round the magnitude m × 2^e (with a sticky remainder below it) to f fraction bits, to nearest, ties to even (R33). -/
def roundMag (f : Nat) (neg : Bool) (m : Nat) (e : Int) (sticky : Bool) : Nat :=
  if m = 0 then (if neg then 2 ^ (8 + f) else 0)
  else
    let k := (f + 3) - Nat.log2 m
    let m1 := m * 2 ^ k
    let e1 : Int := e - k
    let drop := Nat.log2 m1 - f
    let q := m1 / 2 ^ drop
    let r := m1 % 2 ^ drop
    let half := 2 ^ (drop - 1)
    let up := decide (r > half) || (r == half && (sticky || q % 2 == 1))
    let q1 := if up then q + 1 else q
    if q1 = 2 ^ (f + 1) then assemble f neg (2 ^ f) (e1 + drop + 1)
    else assemble f neg q1 (e1 + drop)

/-- Round a magnitude upward to f fraction bits, never below the smallest normal (R20, R30, R33). -/
def roundUpMag (f : Nat) (m : Nat) (e : Int) (sticky : Bool) : Nat :=
  if m = 0 then (if sticky then 2 ^ f else 0)
  else
    let k := (f + 3) - Nat.log2 m
    let m1 := m * 2 ^ k
    let e1 : Int := e - k
    let drop := Nat.log2 m1 - f
    let q := m1 / 2 ^ drop
    let q1 := if m1 % 2 ^ drop ≠ 0 || sticky then q + 1 else q
    let r := if q1 = 2 ^ (f + 1) then assemble f false (2 ^ f) (e1 + drop + 1)
             else assemble f false q1 (e1 + drop)
    max r (2 ^ f)

/-! ### binary32 -/

def fNeg (x : F32) : Bool := x.msb
def fExp (x : F32) : Nat := x.toNat / 2 ^ 23 % 256
def fFrac (x : F32) : Nat := x.toNat % 2 ^ 23

/-- R30: whether a value is a NaN or an infinity. -/
def fNonfinite (x : F32) : Bool := fExp x == 255
/-- Whether a value is a NaN. -/
def fNan (x : F32) : Bool := fExp x == 255 && fFrac x != 0

/-- R30: NaN becomes +0, an infinity the saturated value of its sign, a subnormal the zero of its sign. -/
def fClean (x : F32) : F32 :=
  if fExp x = 255 then (if fFrac x ≠ 0 then 0 else if fNeg x then 0xFF7FFFFF#32 else 0x7F7FFFFF#32)
  else if fExp x = 0 then (if fNeg x then 0x80000000#32 else 0) else x

/-- The exact value of a value taken by R30. -/
def fVal (x0 : F32) : Dyadic :=
  let x := fClean x0
  if fExp x = 0 then ⟨0, 0⟩
  else
    let m : Int := (2 ^ 23 + fFrac x : Nat)
    ⟨if fNeg x then -m else m, (fExp x : Int) - 150⟩

/-- A dyadic number rounded to binary32; `nz` is the sign an exact zero takes. -/
def fOf (d : Dyadic) (nz : Bool := false) : F32 :=
  if d.m = 0 then (if nz then 0x80000000#32 else 0)
  else BitVec.ofNat 32 (roundMag 23 (decide (d.m < 0)) d.m.natAbs d.e false)

/-- Exact sum, difference and product of dyadic numbers. -/
def dAdd (a b : Dyadic) : Dyadic :=
  let e := min a.e b.e
  ⟨a.m * 2 ^ (a.e - e).toNat + b.m * 2 ^ (b.e - e).toNat, e⟩
def dMul (a b : Dyadic) : Dyadic := ⟨a.m * b.m, a.e + b.e⟩
def dNeg (a : Dyadic) : Dyadic := ⟨-a.m, a.e⟩
def dLt (a b : Dyadic) : Bool := decide ((dAdd a (dNeg b)).m < 0)
def dLe (a b : Dyadic) : Bool := !dLt b a
def dAbs (a : Dyadic) : Dyadic := ⟨(a.m.natAbs : Int), a.e⟩
def dOfInt (i : Int) : Dyadic := ⟨i, 0⟩

/-- The integer nearest a quotient of a dyadic number and a power of two denominator, halves away from zero (R20, R45). -/
def dRoundAway (d : Dyadic) : Int :=
  if d.e ≥ 0 then d.m * 2 ^ d.e.toNat
  else
    let k := (-d.e).toNat
    let q : Int := ((2 * d.m.natAbs + 2 ^ k) / 2 ^ (k + 1) : Nat)
    if d.m < 0 then -q else q

def fAdd (a b : F32) : F32 := fOf (dAdd (fVal a) (fVal b)) (fNeg a && fNeg b)
def fNegate (a : F32) : F32 := a ^^^ 0x80000000#32
def fSub (a b : F32) : F32 := fAdd a (fNegate b)
def fMul (a b : F32) : F32 := fOf (dMul (fVal a) (fVal b)) (fNeg a != fNeg b)
def fAbs (a : F32) : F32 := a &&& 0x7FFFFFFF#32
def fLt (a b : F32) : Bool := dLt (fVal a) (fVal b)
def fLe (a b : F32) : Bool := dLe (fVal a) (fVal b)
def fMax (a b : F32) : F32 := if fLt a b then b else a
def fMin (a b : F32) : F32 := if fLt b a then b else a
def fIsZero (a : F32) : Bool := (fVal a).m == 0

/-- The magnitude of n / d × 2^e to at least 40 bits, with a sticky remainder. -/
def quotMag (n d : Nat) (e : Int) : Nat × Int × Bool :=
  let k := Nat.log2 d + 45
  let x := n * 2 ^ k
  (x / d, e - k, decide (x % d ≠ 0))

/-- R30: a quotient rounded to nearest; a zero divisor saturates, and 0 / 0 is +0. -/
def fDiv (a b : F32) : F32 :=
  let x := fVal a
  let y := fVal b
  let neg := fNeg a != fNeg b
  if y.m = 0 then (if x.m = 0 then 0 else if neg then 0xFF7FFFFF#32 else 0x7F7FFFFF#32)
  else
    let q := quotMag x.m.natAbs y.m.natAbs (x.e - y.e)
    BitVec.ofNat 32 (roundMag 23 neg q.1 q.2.1 q.2.2)

/-- Integer square root by descending bits. -/
def isqrt (n : Nat) : Nat := iroot 2 n (Nat.log2 n / 2 + 1)

/-- A square root rounded to nearest; of a negative value, R30 gives +0. -/
def fSqrt (a : F32) : F32 :=
  let x := fVal a
  if x.m ≤ 0 then 0
  else
    let n := x.m.toNat * 2 ^ 40
    let e := x.e - 40
    let (n, e) := if e % 2 = 0 then (n, e) else (2 * n, e - 1)
    let r := isqrt n
    BitVec.ofNat 32 (roundMag 23 false r (e / 2) (decide (r * r ≠ n)))

/-- An integer, or a ratio of integers, in binary32. -/
def fOfInt (i : Int) : F32 := fOf (dOfInt i)
def fOfRatio (n : Int) (d : Nat) : F32 :=
  let q := quotMag n.natAbs d 0
  BitVec.ofNat 32 (roundMag 23 (decide (n < 0)) q.1 q.2.1 q.2.2)

/-- The exact value as a rational number, for the tolerances of R51 to R69, which the spec states over real numbers. -/
def fRat (x : F32) : Rat :=
  let d := fVal x
  if d.e ≥ 0 then (d.m : Rat) * ((2 ^ d.e.toNat : Nat) : Rat) else mkRat d.m (2 ^ (-d.e).toNat)

/-- A rational number rounded to binary32. -/
def fOfRat (r : Rat) : F32 := fOfRatio r.num r.den

/-- R118: a NaN takes the default, and the rest is clamped to its range. -/
def fClampOr (x lo hi dflt : F32) : F32 := if fNan x then dflt else fMax lo (fMin (fClean x) hi)

def fOne : F32 := 0x3F800000#32
def fHalf : F32 := 0x3F000000#32

/-- exp, ln, tanh, sine, cosine and powers: free functions of Config (R116, R125; log entry 7). -/
def fExpE (x : F32) : F32 := fClean (Config.fexp x)
def fLn (x : F32) : F32 := fClean (Config.fln x)
def fTanh (x : F32) : F32 := fClean (Config.ftanh x)
def fPow (x y : F32) : F32 := fClean (Config.fpow x y)

/-! ### bfloat16 and CH24 -/

/-- R33: binary32 from bfloat16 is exact. -/
def ofBf (x : Bf16) : F32 := x ++ 0#16
/-- The exact value of a bfloat16. -/
def bVal (x : Bf16) : Dyadic := fVal (ofBf x)
/-- R33: to bfloat16, nearest, ties to even, saturating. -/
def dToBf (d : Dyadic) (nz : Bool := false) : Bf16 :=
  if d.m = 0 then (if nz then 0x8000#16 else 0)
  else BitVec.ofNat 16 (roundMag 7 (decide (d.m < 0)) d.m.natAbs d.e false)
def toBf (x : F32) : Bf16 := dToBf (fVal x) (fNeg x)
/-- R20: the smallest bfloat16 at or above a positive quotient, at least 2^-126. -/
def bfRoundUpQuot (x : Dyadic) (d : Nat) : Bf16 :=
  if x.m ≤ 0 then 0
  else
    let q := quotMag x.m.toNat d x.e
    BitVec.ofNat 16 (roundUpMag 7 q.1 q.2.1 q.2.2)

/-- R82: binary32 to CH24 with the noise value u: bits [31:8] kept, one added when the remainder and u carry; saturation
and flushing by R30. The Bool says that the value saturated. -/
def toCh24 (v0 : F32) (u : Nat) : Ch24 × Bool :=
  let v := fClean v0
  let kept := v.toNat / 256
  let d := v.toNat % 256
  let k := if d + u % 256 ≥ 256 then kept + 1 else kept
  let mag := k % 2 ^ 23
  let s := kept / 2 ^ 23 * 2 ^ 23
  if mag / 2 ^ 15 ≥ 255 then (BitVec.ofNat 24 (s + 254 * 2 ^ 15 + (2 ^ 15 - 1)), true)
  else if mag / 2 ^ 15 = 0 then (BitVec.ofNat 24 s, false)
  else (BitVec.ofNat 24 (s + mag), false)

/-- A CH24 value in binary32, exact. -/
def ofCh24 (x : Ch24) : F32 := x ++ 0#8

/-! ### Compensated pairs (R29, R78) -/

/-- R28: hi + lo. -/
structure Comp where
  hi : F32
  lo : F32
deriving DecidableEq, Repr

def Comp.zero : Comp := ⟨0, 0⟩

def twoSum (a b : F32) : F32 × F32 :=
  let s := fAdd a b
  let bv := fSub s a
  (s, fAdd (fSub a (fSub s bv)) (fSub b bv))

def fastTwoSum (a b : F32) : F32 × F32 :=
  let s := fAdd a b
  (s, fSub b (fSub s a))

/-- R78: add a binary32 value into a pair. -/
def cAdd (p : Comp) (x : F32) : Comp :=
  let t := twoSum p.hi x
  let r := fastTwoSum t.1 (fAdd t.2 p.lo)
  ⟨r.1, r.2⟩

/-- R78: add a pair into a pair. -/
def cAddPair (p q : Comp) : Comp := cAdd (cAdd p q.hi) q.lo

/-- The exact value of a pair. -/
def cVal (p : Comp) : Dyadic := dAdd (fVal p.hi) (fVal p.lo)
/-- R33: to binary32. -/
def cToF (p : Comp) : F32 := fOf (cVal p) (fNeg p.hi)
/-- R33: to bfloat16. -/
def cToBf (p : Comp) : Bf16 := dToBf (cVal p) (fNeg p.hi)
/-- R29: a pair that breaks the condition is renormalised before its first use. -/
def cNorm (p : Comp) : Comp :=
  let r := twoSum (fClean p.hi) (fClean p.lo)
  ⟨r.1, r.2⟩
/-- R78: a compensated sum of values. -/
def cSum (xs : List F32) : Comp := xs.foldl cAdd Comp.zero

/-! ### ACC40 (R71, R74) -/

/-- R74: an addition saturates at the ends of 40 bits; the Bool says so. -/
def acc40Add (a b : Int) : Int × Bool :=
  let s := a + b
  if s > 2 ^ 39 - 1 then (2 ^ 39 - 1, true) else if s < -(2 ^ 39) then (-(2 ^ 39), true) else (s, false)

end Sys2Proof.Machine
end

