-- ==== Sys2Proof/Machine/State.lean ====
section
/-! DEFINITION. The state of the block as plain data: what each chapter of the spec gives the machine, the queue of
waiting commands, the packets that have left the device, the outcomes a step can stop with, and the state after reset. -/
namespace Sys2Proof.Machine

/-! ### What leaves the device -/

/-- What an RDMA request of the device is for (R244, R245); a response is matched to it. -/
inductive Purpose where
  /-- R249: slots of a submission ring. -/
  | pull (queue first slots : Nat)
  /-- R251: completions written into a completion ring. -/
  | ring (queue : Nat)
  /-- R197, R204: the record of a logical array of the VI, read from its source. -/
  | record (yelm array : Nat)
  /-- R144, R145: the element block or the scale block of a page, written to or read from the remote tier. -/
  | spill (page : Nat) (scale : Bool)
  | fetch (page : Nat) (scale : Bool)
  /-- R286, R336, R337, R429: the transfer of a command, by its journal entry. -/
  | command (entry : Nat)
  /-- R327: 4 KiB of an image section read again. -/
  | imgSection
  /-- R196, R469: the whole image, read by a check pass. -/
  | image
  /-- R352: the check of a pair across its connection. -/
  | pairCheck
deriving DecidableEq, Repr

/-- An outstanding RDMA request record: it carries the VI's tag and the queue's tag of its time (R245). -/
structure Xfer where
  purpose : Purpose
  write : Bool
  addr : Nat
  len : Nat
  viGen : Nat
  qGen : Nat
  /-- The data of a WRITE, kept until it is acknowledged, and its immediate. -/
  data : List Byte
  imm : Option Nat
  /-- R244: it is on the wire; a READ beyond 16 of its connection waits. -/
  sent : Bool
deriving DecidableEq, Repr

/-- A record of a pair's stream as the home sends it (R354). -/
structure PairRec where
  stamp : Nat
  seqno : Nat
  seq : Nat
  groupEnd : Bool
  body : MirrorBody
deriving DecidableEq, Repr

/-- Messages of a pair that travel on its connection (R355, R360, R364, R366, R368). -/
inductive PairMsg where
  | record (r : PairRec)
  | ack (seqno stamp : Nat)
  | depose
  | deposed
  | leave
deriving DecidableEq, Repr

/-- R252, R255, R256: what a frame carries below what it is for: the 802.1Q tag (VLAN ID and PCP) where its VI is tagged, DSCP and
ECN where it has an IP header, and the packet number of its SecTAG where MACsec is on. -/
structure Marks where
  tag : Option (Nat × Nat)
  dscp : Option Nat
  ecn : Option Nat
  pn : Option Nat
deriving DecidableEq, Repr

/-- R299: the PTP messages of a slave-only clock. -/
inductive PtpMsg where
  | delayReq | pdelayReq
deriving DecidableEq, Repr

/-- What the device has sent, oldest first (log entry 8). -/
inductive Out where
  /-- A frame on a logical port at an 802.1 priority, with its marks and what it is for. -/
  | frame (lport prio : Nat) (m : Marks) (o : Out)
  /-- A Sloson packet in a UDP datagram from a VI (R239, R250): destination, UDP port. -/
  | packet (vi : Nat) (dst : BitVec 128) (udp : Nat) (bytes : List Byte)
  /-- An RDMA request (R244). -/
  | rdma (vi rc : Nat) (x : Xfer)
  /-- R239: an ARP request or neighbour solicitation. -/
  | resolve (vi : Nat) (addr : BitVec 128)
  /-- R238: the answer to ARP, neighbour solicitation or echo. -/
  | answer (vi : Nat) (dst : BitVec 128) (body : FrameBody)
  /-- R244: remote access error NAK. -/
  | nak (vi qpn : Nat)
  /-- R254: a MAC control frame. -/
  | pfc (lport prio : Nat) (xoff : Bool)
  /-- R255. -/
  | cnp (vi rc : Nat)
  /-- R461: the bytes of a sideband reply. -/
  | sideband (bytes : List Byte)
  /-- A message on a pair connection. -/
  | pair (vi rc : Nat) (m : PairMsg)
  /-- R299: a PTP message of a port, by TRANSPORT: 0 Layer 2, 1 UDP/IPv4, 2 UDP/IPv6. -/
  | ptp (port transport : Nat) (m : PtpMsg)
deriving DecidableEq, Repr

/-! ### Interfaces and queues (chapter 10) -/

/-- R236: the address record. -/
structure AddrRec where
  ipv6 : BitVec 128
  prefix6 : Nat
  prefix4 : Nat
  vlan : Nat
  ipv4 : BitVec 32
  gw6 : BitVec 128
  gw4 : BitVec 32
  ports : Nat
deriving DecidableEq, Repr

/-- No address (the reset column of R259). -/
def AddrRec.zero : AddrRec := ⟨0, 0, 0, 0, 0, 0, 0, 0⟩

/-- R240: the partition record; `courses` as COURSE_LIST gives them. -/
structure PartRec where
  queues : Nat
  trainShare : Nat
  hbm : Nat
  jrnl : Nat
  digital : Nat
  train : Nat
  remote : Nat
  egress : Nat
  courses : List Nat
deriving DecidableEq, Repr

/-- R245, R255: a reliable connection. -/
structure Conn where
  lport : Nat
  pmtu : Nat
  ackExp : Nat
  retry : Nat
  prio : Nat
  hostIp : BitVec 128
  hostQpn : Nat
  hostPsn : Nat
  devQpn : BitVec 24
  devPsn : BitVec 24
  error : Bool
  tries : Nat
  /-- R346: the stamp from which its transfers have been failing. -/
  failSince : Option Nat
  /-- Send rate in bit/s. -/
  rate : Rat
  lastCnp : Option Nat
  lastRaise : Nat
  lastCut : Option Nat
  cnpSent : Option Nat
  /-- R244: RNR retries in a row. -/
  rnr : Nat
  /-- Requests that have no response yet, oldest first; those on the wire are answered in this order. -/
  out : List Xfer
deriving DecidableEq, Repr

/-- R246: a host memory region. -/
structure Region where
  rc : Nat
  use : Nat
  rkey : Nat
  addr : Nat
  length : Nat
deriving DecidableEq, Repr

/-- R267: the PSN window of a queue; `h` is none while nothing has been accepted. -/
structure Window where
  h : Option Nat
  accepted : List Nat
deriving DecidableEq, Repr

/-- R249, R264: a packet fetched from a ring: the stamp at which the READ response with its first byte arrived, its logical
port, its bytes. -/
structure Ticket where
  ts : Nat
  lport : Nat
  bytes : List Byte
deriving DecidableEq, Repr

/-- R247, R249, R251: a queue. -/
structure Queue where
  gen : Nat
  cls : Nat
  pull : Bool
  rdma : Bool
  rc : Nat
  slotLog2 : Nat
  sqRegion : Nat
  sqSlots : Nat
  cqRegion : Nat
  cqSlots : Nat
  cplAddr : BitVec 128
  cplPort : Nat
  destroying : Bool
  sqHead : Nat
  sqTail : Nat
  cqTail : Nat
  cqHead : Nat
  /-- R251: entries whose completions are held for ring space, oldest first. -/
  held : List Nat
  win : Window
  /-- R249: packets fetched from the ring that have not yet been taken as commands. -/
  tickets : List Ticket
  /-- R249: slots fetched since SQ_HEAD that do not yet make a whole packet, with the stamps at which they came. -/
  fetched : List (Nat × List Byte)
  /-- R249: slots still to come that a discarded packet has consumed. -/
  skip : Nat
  /-- R273: source address and port of the last request. -/
  source : Option (BitVec 128 × Nat)
  /-- R365: after a takeover, completions wait for the first request on this queue. -/
  awaitAddr : Bool
  /-- R309: the stamp of the last accepted command, and H₀, the queue's H before the first command accepted at that stamp. -/
  tie : Option (Nat × Nat)
deriving DecidableEq, Repr

/-! ### The journal (chapter 12) -/

/-- R311: the STATE of an entry. -/
inductive EState where
  | accepted | running | recorded | sent | retired
deriving DecidableEq, Repr

/-- R311: a journal entry. -/
structure Entry where
  req : Packet
  stamp : Nat
  queue : Nat
  psn : Nat
  opcode : Nat
  lport : Nat
  accGen : Nat
  /-- R309: signed distance of the PSN from H at acceptance. -/
  dist : Int
  size : Nat
  state : EState
  twoPhase : Bool
  acceptedSent : Bool
  cplStamp : Nat
  retx : Nat
  replays : Nat
  status : Nat
  payload : List Byte
  replayRun : Bool
  /-- The completion as last sent; it is sent again unchanged (R250). -/
  sent : Option (List Byte)
  /-- R250: sendings of the series in force, and beat boundaries since the last; before the completion is sent, boundaries
  since the command's stamp (R96, R306). -/
  series : Nat
  beats : Nat
  /-- R326: runs ended in succession by a fault. -/
  ended : Nat
  /-- R220: its step's repeat budget ran out. -/
  ranOut : Bool
  /-- R282: its step has been admitted. -/
  admitted : Bool
deriving DecidableEq, Repr

/-- R314: what a checkpoint holds. -/
structure Checkpoint where
  head : Nat
  tail : Nat
  stamp : Nat
  windows : Tbl Window
deriving DecidableEq, Repr

/-- R310–R317: the journal of a VI; entries by their place in the ring. -/
structure Journal where
  entries : Tbl Entry
  next : Nat
  ckptA : Checkpoint
  ckptB : Checkpoint
  /-- R315, R316: entries waiting to run again. -/
  replay : List Nat
  replayCount : Nat
  fullCount : Nat
deriving DecidableEq, Repr

/-! ### Error records (chapter 13) -/

/-- R331: an error record. -/
structure Rec where
  code : Nat
  severity : Nat
  vi : Nat
  queue : Nat
  psn : Nat
  count : Nat
  flags : Nat
  first : Nat
  last : Nat
  yelm : Nat
  array : Nat
  unit : Nat
  die : Nat
  domain : Nat
  detail : List Byte
  seq : Nat
deriving DecidableEq, Repr

/-- R330, R334, R335: a gutter ring. -/
structure Ring where
  recs : List Rec
  lost : Nat
  lostFirst : Nat
  lostLast : Nat
  lossSeen : Bool
  recSeen : Bool
  written : Nat
  coalesced : Nat
deriving DecidableEq, Repr

def Ring.empty : Ring := ⟨[], 0, 0, 0, false, false, 0, 0⟩

/-! ### Sequences and pages (chapter 06) -/

/-- R118: sampling parameters. -/
structure Sampling where
  temperature : F32
  topK : Nat
  topP : F32
  minP : F32
deriving DecidableEq, Repr

/-- R131: one position of one KV layer: element bytes and scale bytes of row 2h + c. -/
structure KvRow where
  elems : List (List Byte)
  scales : List (List Byte)
deriving DecidableEq, Repr

/-- R138: the state of a page. -/
inductive PageState where
  | resident | spilling | spilled | fetching | dropped
deriving DecidableEq, Repr

/-- R132: an element block and a scale block of a tier, by their offsets in the VI's arenas, and their sizes as m. -/
structure BlockPair where
  elem : Nat
  scale : Nat
deriving DecidableEq, Repr

/-- R131, R138, R149: a page. `fill` is one more than its highest committed slot. -/
structure Page where
  layer : Nat
  index : Nat
  state : PageState
  /-- R149: the sequences that reference it. -/
  refs : List Nat
  /-- R152: the steps that pin it. -/
  pins : List Nat
  fill : Nat
  t1 : Option BlockPair
  t2 : Option (Nat × BlockPair)
  /-- Block sizes m of R132. -/
  mElem : Nat
  mScale : Nat
deriving DecidableEq, Repr

/-- R146: a drop record, common to its referencing sequences. -/
structure Drop where
  index : Nat
  first : Nat
  last : Nat
  seqs : List Nat
deriving DecidableEq, Repr

/-- R171: what ADP_FWD_SAVE keeps of one descriptor for one position. -/
inductive Saved where
  | norm (x : List F32) (r mu : F32)
  | attn (q o : List Bf16) (m lse : List F32)
  | route (chosen : List (Nat × F32))
  | head (g : List Bf16)
deriving DecidableEq, Repr

/-- R172, R173, R185: a saved area of a training sequence. -/
structure SavedArea where
  gen : Nat
  version : Nat
  first : Nat
  /-- Position, descriptor, item. -/
  items : List (Nat × Nat × Saved)
  bytes : Nat
deriving DecidableEq, Repr

/-- Chapters 05, 06: a sequence. `pages` holds, per KV layer, page index to page. -/
structure Seq where
  p : Nat
  ctx : Nat
  pagePos : Nat
  fmt : Nat
  train : Bool
  set : Option Nat
  samp : Sampling
  tokens : List Nat
  last : Option Nat
  pinned : Bool
  lastCpl : Nat
  /-- Stamp of the command that opened it, which tells it from an earlier sequence of its number; 0 where the home opened it. -/
  opened : Nat
  pages : List (Tbl Nat)
  saved : Option SavedArea
deriving DecidableEq, Repr

/-- R132: the free blocks of a buddy allocator: (m, offset) pairs. -/
structure Arena where
  size : Nat
  free : List (Nat × Nat)
deriving DecidableEq, Repr

/-- R131–R147: what a VI holds of key-value memory. -/
structure Kv where
  pages : Tbl Page
  next : Nat
  t1 : Arena
  /-- Arenas of the remote tier by region (R246 USE 1). -/
  t2 : Tbl Arena
  t2Bytes : Nat
  drops : List Drop
deriving DecidableEq, Repr

/-! ### Adapters (chapter 07) -/

/-- R160: what a tensor of a set is attached to. -/
inductive TensorKind where
  | hookA (hook rank : Nat) | hookB (hook rank : Nat) | gain (norm : Nat) | bias
deriving DecidableEq, Repr

/-- R162: a trainable tensor. -/
structure Tensor where
  kind : TensorKind
  rows : Nat
  cols : Nat
  master : List F32
  m : List F32
  v : List F32
  grad : List F32
  work0 : List Bf16
  work1 : List Bf16
deriving DecidableEq, Repr

/-- R161, R163, R180–R185, R327: an adapter set. -/
structure AdpSet where
  /-- Hook, rank, scale, DIM_IN, DIM_OUT, in creation order. -/
  hooks : List (Nat × Nat × F32 × Nat × Nat)
  gains : List Nat
  bias : Bool
  tensors : List Tensor
  version : Nat
  t : Nat
  lastTrain : Nat
  lastVersion : Nat
  stale : Bool
  damaged : Bool
deriving DecidableEq, Repr

/-! ### Images (chapter 08) -/

/-- R189: a PLACE record. -/
structure Place where
  yelm : Nat
  array : Nat
  rowFirst : Nat
  chFirst : Nat
  segment : Nat
  pos : Nat
deriving DecidableEq, Repr

/-- R189: a projection. -/
structure Proj where
  dimIn : Nat
  dimOut : Nat
  unit : Nat
  span : Nat
  candidates : List Nat
  static : Nat
  ratio : F32
  outOfs : Nat
  scaleOfs : Nat
  places : List Place
deriving DecidableEq, Repr

/-- R190: an expert. -/
structure Expert where
  hookGu : Nat
  hookDown : Nat
  replicas : List (Nat × Nat)
deriving DecidableEq, Repr

/-- R192: an array of an image. -/
structure ArrayIdx where
  yelm : Nat
  array : Nat
  unit : Nat
  fmt : Nat
  profile : Nat
  channels : Nat
  rows : Nat
  eg : List Nat
  rhoW : F32
  ofs : Nat
  len : Nat
  digest : List Byte
deriving DecidableEq, Repr

/-- R222: a recipe, and the stamp from which it is in force (R231). -/
structure Recipe where
  rowBand : Nat
  actTrits : Nat
  ovrMode : Nat
  outlierN : Nat
  budgetQ : Nat
  kSoft : F32
  kHard : F32
  since : Nat
deriving DecidableEq, Repr

/-- R101: a descriptor of a step program, its 64 bytes. -/
abbrev Desc := List Byte

/-- R187–R192: an image as the device keeps it. -/
structure Image where
  yelms : Nat
  units : List (Nat × List Byte)
  vocab : Nat
  residentMib : Nat
  digest : List Byte
  program : List Desc
  projs : List Proj
  experts : List Expert
  hooks : List (Nat × Nat × Nat)
  recipes : List Recipe
  arrays : List ArrayIdx
  spares : Tbl (List Nat)
  outlier : List Byte
  digital : List Byte
  dataOfs : Nat
deriving DecidableEq, Repr

/-- R198: where an image comes from. -/
structure Source where
  region : Nat
  ofs : Nat
  len : Nat
deriving DecidableEq, Repr

/-- Where a load, swap or erase stands. -/
inductive Phase where
  /-- R196: the check pass reads the source. -/
  | check
  /-- R197: the program pass of a load. -/
  | program
  /-- R207: the check pass of a swap has passed and its barrier rises at the next boundary. -/
  | raise
  /-- R209: a swap or erase behind its barrier. -/
  | barrier
  /-- R470: the old image is programmed back. -/
  | restore
  /-- R197, R212, R470: arrays are being erased. -/
  | erase
  /-- All array work is done; the barrier lifts at the next boundary (R210). -/
  | lift
  /-- R211, R315: a reset has cut it short; it waits for its command to run again. -/
  | stopped
deriving DecidableEq, Repr

/-- Which command an image operation belongs to. -/
inductive ImgKind where
  | load | swap | erase
deriving DecidableEq, Repr

/-- A load, swap or erase in progress (R195–R212, R470). -/
structure ImgOp where
  kind : ImgKind
  entry : Nat
  limit : Nat
  phase : Phase
  source : Source
  image : Option Image
  /-- R207: the swap stamp. -/
  raised : Nat
  /-- R211: its barrier was up when a reset cut it short, and stays up. -/
  kept : Bool
  /-- Physical (yelm, array) still to be erased, and logical arrays (VI's yelm, array) still to be programmed. -/
  toErase : List (Nat × Nat)
  todo : List (Nat × Nat)
  /-- Units started and programmed. -/
  started : List Nat
  done : List Nat
  programmed : Nat
  skipped : Nat
  erased : Nat
  /-- R470: the status with which it ends. -/
  status : Nat
deriving DecidableEq, Repr

/-- R213: a refresh request waiting for its arrays. -/
structure RefreshReq where
  entry : Nat
  margin : F32
  left : List (Nat × Nat)
  count : Nat
deriving DecidableEq, Repr

/-- R199: an installed-unit record. -/
structure UnitRec where
  digest : List Byte
  arrays : List (Nat × Nat)
deriving DecidableEq, Repr

/-- What a VI holds of its image. `map` sends (yelm × 1,024 + logical array) to a physical array of the yelm (R200). -/
structure ImgState where
  gen : Nat
  lastGen : Nat
  image : Option Image
  source : Source
  map : Tbl Nat
  units : Tbl UnitRec
  op : Option ImgOp
  refresh : List RefreshReq
  /-- R222–R226: recipes in force, and pending ones with their stamp. -/
  recipes : List Recipe
  pendingRecipes : List (Nat × Nat × Recipe)
deriving DecidableEq, Repr

/-! ### Precision (chapter 09) -/

/-- R216: the twelve counters of a unit, in the order of the table, and its flags; the window's counts in the same order, and
the BANDS that are the denominator of ZERO (R218). -/
structure UnitPrec where
  counts : List Nat
  flags : Nat
  window : List Nat
deriving DecidableEq, Repr

/-- R216–R221, R231. -/
structure Prec where
  units : Tbl UnitPrec
  totals : List Nat
  flagStatus : Nat
  flagEvents : Nat
  firstUnit : Nat
  flagStamp : Nat
  window : Nat
  thresholds : List Nat
  beat : Nat
  started : Bool
deriving DecidableEq, Repr

/-! ### Pairs (chapter 14) -/

/-- R351: a VI in a pair. Role and state as R370 codes them. -/
structure Pair where
  role : Nat
  state : Nat
  leaseMs : Nat
  peerVi : Nat
  rc : Nat
  /-- R352, R363: a check is under way; only the digest is checked; the snapshot is taken at the next boundary. -/
  checking : Bool
  rejoin : Bool
  snapDue : Bool
  /-- R353, R354: the stream runs. -/
  sending : Bool
  /-- VI and entry of the PAIR_JOIN or PAIR_TAKEOVER that is not yet complete. -/
  joinEntry : Option (Nat × Nat)
  joinStart : Nat
  takeEntry : Option (Nat × Nat)
  takeStart : Nat
  /-- R364: the mirror waits for DEPOSED. -/
  awaiting : Bool
  leaseEnd : Nat
  ackStamp : Nat
  lastSent : Nat
  nextSeqno : Nat
  unacked : List PairRec
  /-- R356: records of a group that has not ended, the SEQNO that comes next, and the last that has been applied. -/
  group : List MirrorRecord
  expect : Nat
  applied : Nat
  appliedStamp : Nat
  digest : List Byte
  /-- R353, R356: what came with the stream: entries in order, queues, and the checkpoint of the entries. -/
  entries : Tbl Entry
  queues : Tbl Queue
  ckpt : Checkpoint
  dropped : Nat
  fences : Nat
  takeovers : Nat
  snapshots : Nat
  splitSeen : Bool
  broken : Bool
  deposedSeen : Bool
  expired : Bool
  /-- R366: the stamp at which the home entered UNMIRRORED. -/
  unmirrored : Nat
  /-- R363: LEAVE is to be sent once the connection returns. -/
  leaveDue : Bool
  /-- R366: the connection on which a former mirror answers DEPOSED. -/
  former : Option Nat
deriving DecidableEq, Repr

/-! ### A VI -/

/-- Counters of R259 that belong to a VI. -/
structure ViCounters where
  rx : Nat
  tx : Nat
  cplRetx : Nat
  rdmaRetry : Nat
  slotBad : Nat
deriving DecidableEq, Repr

/-- Selectors and latches each VI holds (R231, R259, R319, R423, R443). -/
structure ViSel where
  course : Nat
  queue : Nat
  unit : Nat
  recipe : Nat
  stampHi : Option Nat
  beatHi : Option Nat
  energyHi : Option Nat
  txPnHi : Option Nat
deriving DecidableEq, Repr

/-- R347, R348: teardown of a VI in progress. -/
structure Teardown where
  entry : Nat
  start : Nat
  steps : Nat
  xfers : Nat
deriving DecidableEq, Repr

/-- R348: a SEQ_CLOSE or Q_DESTROY that waits for steps to end. -/
structure EndWait where
  entry : Nat
  steps : List Nat
  seq : Option Nat
  queue : Option Nat
  count : Nat
deriving DecidableEq, Repr

/-- R173: an ADP_BWD that runs: the saved window, the positions still to be processed, and what the chunks so far have
staged (R177, R180). -/
structure Bwd where
  seq : Nat
  first : Nat
  /-- Positions below this are still to be processed. -/
  upto : Nat
  total : Nat
  grads : List (List F32)
  dkv : List (Nat × Nat × List F32 × List F32)
deriving DecidableEq, Repr

/-- A virtual interface that is open or closing. -/
structure Vi where
  addr : AddrRec
  part : PartRec
  closing : Option Teardown
  queues : Tbl Queue
  conns : Tbl Conn
  regions : Tbl Region
  jrnl : Journal
  ring : Ring
  seqs : Tbl Seq
  kv : Kv
  sets : Tbl AdpSet
  img : ImgState
  prec : Prec
  pair : Pair
  ctr : ViCounters
  sel : ViSel
  notice : Nat
  /-- Commands that wait for steps to end (R348), and for transfers of a sequence that was torn down (R156). -/
  ends : List EndWait
  /-- R173: ADP_BWD commands that run, by journal entry. -/
  bwd : Tbl Bwd
deriving DecidableEq, Repr

/-! ### Steps and waves (chapter 05) -/

/-- R90, R147, R168, R173: kinds of steps. -/
inductive StepKind where
  | decode | prefill | verify | fwdSave | recompute | backward
deriving DecidableEq, Repr

/-- R110–R113: one chosen expert of a token. -/
structure Choice where
  expert : Nat
  gate : F32
  replica : Nat
  /-- Gate-and-up output, the activation between, and the down projection's compensated output. -/
  gu : Option (List Bf16)
  mid : Option (List Bf16)
  out : Option (List Comp)
  /-- R174: in a backward step, the gradients of the activation between and of the expert's input. -/
  dmid : Option (List Bf16)
  dx : Option (List Bf16)
deriving DecidableEq, Repr

/-- R178, R184, R223: what the transpose reads of a projection have given on one yelm: the role the projection serves, the
recipe latched when the token's first read there began, the yelm's running sum, and the reads left of each array begun. -/
structure TPart where
  role : Option (Nat × Bool)
  yelm : Nat
  recipe : Recipe
  dx : List Comp
  left : Tbl Nat
deriving DecidableEq, Repr

/-- A token of a step. `desc` is the descriptor it runs next; a backward token runs them downwards. -/
structure Tok where
  pos : Nat
  token : Nat
  desc : Nat
  done : Bool
  slot0 : List Comp
  /-- Vector slots 1 … 15; in a backward step, recomputed outputs of projections by descriptor index (R174). -/
  slots : Tbl (List Bf16)
  routes : List Choice
  /-- R102, R112: the route list of each LAYER, as ROUTE left it. -/
  lists : Tbl (List Choice)
  logits : List F32
  sampled : Option (Nat × F32)
  /-- R174: gradients of slots, bfloat16, and of slot 0, compensated, in a backward step. -/
  grad : Tbl (List Bf16)
  grad0 : List Comp
  /-- R178: the transpose reads begun at its descriptor. -/
  partials : List TPart
  /-- R227: what is left of its share of the repeat budget, in trit cycles. -/
  share : Rat
deriving DecidableEq, Repr

/-- R136: a layer copy: the page, its KV layer, the T0 blocks of its elements and scales, and the rows copied, by slot.
Log entry 102 (DESIGN CHOICE). -/
structure LayerCopy where
  page : Nat
  layer : Nat
  blocks : List (Nat × Nat)
  rows : List KvRow
deriving DecidableEq, Repr

/-- A step: waiting (`adm` none) or in flight. -/
structure Step where
  vi : Nat
  seq : Nat
  kind : StepKind
  /-- The journal entry of its command; none for a recompute. -/
  entry : Option Nat
  stamp : Nat
  lport : Nat
  queue : Nat
  dist : Int
  failIfHeld : Bool
  tokens : List Nat
  targets : List (Option Nat)
  lossScale : F32
  sample : Bool
  samp : Option Sampling
  adm : Option Nat
  gen : Nat
  /-- Adapter set and version bound at admission (R97, R163). -/
  adp : Option (Nat × Nat)
  group : Nat
  p0 : Nat
  /-- R147: the first position a recompute keeps, and the one at which it ends. -/
  keepFrom : Nat
  keepTo : Nat
  /-- R97, R132, R139: T0 blocks of its vectors and of its tail staging, by order and offset in the VI's share of the group. -/
  t0 : List (Nat × Nat)
  /-- R136: its layer copies. -/
  layerCopies : List LayerCopy
  /-- R172, R177: bytes claimed in the training area. -/
  train : Nat
  toks : List Tok
  /-- R140: keys and values staged, by KV layer and position; those of positions for which a block is reserved stand there. -/
  staged : List (Nat × Nat × KvRow)
  pins : List Nat
  /-- R139: layer, page index, block orders, blocks reserved for new pages. -/
  reserved : List (Nat × Nat × Nat × Nat × BlockPair)
  /-- R139: layer, block orders, blocks reserved for a copy of the tail page. -/
  copies : List (Nat × Nat × Nat × BlockPair)
  /-- R139: tail staging in T1: orders and offsets. -/
  tail : List (Nat × Nat)
  ending : Bool
  /-- R106: since it was marked to end, it has come to a layer boundary. -/
  crossed : Bool
  /-- R93, R152, R347: whether its sequence has been closed since it was admitted. -/
  closed : Bool
  /-- What a step that is to end still reads once its sequence is closed or its saved area is discarded: the sequence as it
  stood then (R152, R186). Log entry 124 (DEDUCED). -/
  kept : Option Seq
  /-- R229: its repeat budget has run out. -/
  ranOut : Bool
  loss : Comp
  saved : List (Nat × Nat × Saved)
  /-- R180: staged gradients, per tensor of the set. -/
  grads : List (List F32)
  /-- R177: dk, dv per KV layer and position. -/
  dkv : List (Nat × Nat × List F32 × List F32)
  /-- R325: token, descriptor, restarts made. -/
  restarts : List (Nat × Nat × Nat)
deriving DecidableEq, Repr

/-- R107–R109: a token in a wave: its step, its place among the step's tokens, the projection's input, the descriptor it
serves, the expert role (place in the route list and whether the down projection), the restarts of its layer operation
(R325), and its output channels as they leave the chain tails. -/
structure WaveTok where
  step : Nat
  tok : Nat
  x : List Bf16
  desc : Nat
  role : Option (Nat × Bool)
  restarts : Nat
  out : Tbl Comp
deriving DecidableEq, Repr

/-- R325: a layer operation of one token on one yelm: its input buffer slot, band reads still to be made (place, first
array row) and those in progress, what each finished band adds per channel (R75, by input row), outlier sums (R76), received
partial sums with their restart count (R81), final y(j), channels already sent, and the repeat allotment (R228). -/
structure YelmOp where
  row : Nat
  bands : List (Nat × Nat)
  running : List (Nat × Nat)
  parts : Tbl (List (Nat × F32))
  outl : Tbl Comp
  recv : Tbl (Nat × Ch24)
  final : Tbl Comp
  sent : List Nat
  allot : Nat
deriving DecidableEq, Repr

/-- R107: a wave. `ops` is keyed by slot × 4,096 + yelm. -/
structure Wave where
  vi : Nat
  proj : Nat
  gen : Nat
  recipe : Recipe
  closed : Nat
  decode : Bool
  yelms : List Nat
  toks : Tbl WaveTok
  ops : Tbl YelmOp
  /-- R166: adapter contributions u(j) per slot. -/
  adp : Tbl (List F32)
  /-- R79, R81: partial sums on their way: slot, yelm, channel, restart count, value. -/
  hops : List (Nat × Nat × Nat × Nat × Ch24)
deriving DecidableEq, Repr

/-! ### Yelms (chapters 03, 04) -/

/-- R39: what an array is doing. -/
inductive ArrState where
  | idle | lit | transpose | busy | spare | retired
deriving DecidableEq, Repr

/-- Why an array is being programmed or erased (R201, R203, R209, R212, R214, R470). -/
inductive Job where
  | program (vi : Nat) | spareFill (vi old : Nat) | erase (vi : Nat) | refresh (vi : Nat)
deriving DecidableEq, Repr

/-- R201, R202: programming or erase in progress: the job, the logical array it serves (VI's yelm × 1,024 + array), whether
the array is in the zero state and the record read, the record's rows as trit-columns, and the next row. -/
structure Prog where
  job : Job
  logical : Nat
  erased : Bool
  loaded : Bool
  rows : List (List Int)
  row : Nat
deriving DecidableEq, Repr

/-- R203, R204: a retirement: a spare chosen, and the count of boundaries until the next try; whether it follows a row that failed
(R201), so that the array's record is programmed nowhere else than on a spare. -/
structure Retire where
  spare : Option Nat
  retry : Option Nat
  sourceCopy : Bool
  ready : Bool
  failed : Bool
deriving DecidableEq, Repr

/-- An array: R39 state, R35 cells by row (a row without an entry is (off, off) throughout), R64 monitor state, R69 sums,
R328 marks, R213 due mark and refresh place. -/
structure Arr where
  st : ArrState
  cells : Tbl (List Int)
  o : F32
  npos : F32
  dpos : F32
  nneg : F32
  dneg : F32
  alpha : F32
  v : Rat
  pg : Rat
  h : Nat
  marks : List Nat
  due : Bool
  slice : Nat
  prog : Option Prog
  retire : Option Retire
  /-- Profile and format of what it holds, for its checks. -/
  idx : Option ArrayIdx
deriving DecidableEq, Repr

/-- R45: one converted column of a plane: trimmed code × 64 less nothing, and the over-range flag. -/
structure Sample where
  code : Int
  ovr : Bool
deriving DecidableEq, Repr

/-- R62: trims by bank × 1,040 + converter × 8 + tap: DLY_TRIM and OFS_TRIM. -/
abbrev Trims := Tbl (Nat × Int)

/-- R40–R56: a band read in progress. -/
structure Read where
  wave : Nat
  slot : Nat
  place : Nat
  row0 : Nat
  band : Nat
  recipe : Recipe
  sa : Bf16
  q : List Int
  /-- Planes still to be integrated: plane and half (0 whole, 1 lower, 2 upper). -/
  todo : List (Nat × Nat)
  /-- The plane on the other capacitor, with the column charges in units of 2^-20 rows. -/
  held : Option (Nat × Nat × List Int)
  /-- R46: planes at or below this are read in halves. -/
  halves : Option Nat
  /-- Corrected readings × 64 of the read in progress, per plane, and their over-range flags. -/
  got : List (Nat × List Int × List Bool)
  /-- Sums over the finished reads, per plane. -/
  sums : List (Nat × List Int × List Bool)
  reads : Nat
  reruns : Nat
  ovrRepeats : Nat
  clamped : Bool
  pinned : Bool
  /-- R71: whether ACC_HOLD is set, and what the bank's main slot held when the first plane started. -/
  adds : Bool
  hold : List Int
  /-- R43: the trims latched at the start of its first plane, and whether that has started. -/
  trims : Trims
  latched : Bool
  /-- R324: the stamp of a hard miss that a rerun has repeated. -/
  missed : Option Nat
deriving DecidableEq, Repr

/-- R76: a line of the outlier cache: the row it holds (image generation, projection and row in one number), when it was last
used, and its weights. -/
structure CacheLine where
  key : Option Nat
  used : Nat
  weights : List Bf16
deriving DecidableEq, Repr

/-- A yelm. `reads` is keyed by the array, or, for a read whose last plane converts while the array's next read integrates
(R42), by the array number + 1,024. -/
structure Yelm where
  accHold : Bool
  corrBypass : Bool
  arraySel : Nat
  trimTap : Nat
  trimConv : Nat
  trimBank : Nat
  counts : List Nat
  seen : Nat
  litNow : Nat
  input : Tbl (List Bf16)
  acc : Tbl (List Int)
  output : Tbl (List Comp)
  recv : Tbl (List Ch24)
  /-- R76, R83: outlier cache lines by their number. -/
  cache : List CacheLine
  arrays : Tbl Arr
  reads : Tbl Read
  /-- R43, R62, R379: trims in force, and the die temperature they were interpolated for. -/
  trims : Trims
  trimTemp : F32
  trimStamp : Nat
  /-- R377: the five stored sets. -/
  stored : List Trims
  setId : Nat
  lastCal : Nat
  /-- R385: 0 idle, 1 requested, 2 calibrating, 3 waiting for the store; the stamp at which it started, T at its end, and
  whether a commit waits for its boundary (R377). -/
  cal : Nat
  calStart : Nat
  calTemp : F32
  trimDue : Bool
  found : List TapFound
  /-- R184: trit cycles that transpose reads have taken in this beat. -/
  transposeCycles : Nat
  /-- R87: tile commands waiting. -/
  tiles : List (Nat × Nat)
  resetting : Bool
  /-- R65: the monitor seed of the arrays that the table does not list, as the last reset or erase left it. -/
  seed : F32
deriving DecidableEq, Repr

/-! ### Device blocks -/

/-- The interfaces and queues block (R259) and the link layer (R239, R254). -/
structure Net where
  portMode : List Nat
  portPend : List (Option Nat)
  eee : List Bool
  linkUp : Nat
  maxFrame : Nat
  udp : Nat
  prioMap : Nat
  trust : Nat
  pfcEn : Nat
  pfcWd : Nat
  cplRetry : Nat
  ets : List (Bool × Nat)
  dscpLo : Nat
  dscpHi : Nat
  rxNoVi : Nat
  rxMismatch : Nat
  rxFrag : Nat
  rxOther : Nat
  pfcWdEvents : Nat
  cnpRx : Nat
  cnpTx : Nat
  rdmaReject : Nat
  dropped : Nat
  viSel : Nat
  /-- R239: neighbours: VI's VLAN, address, logical port, stamp of the answer. -/
  neighbours : List (Nat × BitVec 128 × Nat × Nat)
  /-- R239: frames waiting for a resolution: VI, next hop, the port of its connection if it has one, priority, frame. -/
  waiting : List (Nat × BitVec 128 × Option Nat × Nat × Out)
  /-- R254: paused transmit priorities: port, priority, since, discarding. -/
  paused : List (Nat × Nat × Nat × Bool)
  xoffSent : List (Nat × Nat)
  /-- Frames held back by a pause: port, priority, frame. -/
  blocked : List (Nat × Nat × Out)
deriving DecidableEq, Repr

/-- R298–R300: a time source. -/
structure TimeSrc where
  locked : Bool
  offset : Int
  /-- Sync offsets or good edges in a row toward lock. -/
  run : List Int
  pathDelay : Nat
  master : Option AnnounceMsg
  masters : List AnnounceMsg
  lockStamp : Nat
  lastSeen : Option Nat
deriving DecidableEq, Repr

/-- The time and beats block (R318). -/
structure TimeBlk where
  unset : Bool
  slewing : Bool
  stepped : Bool
  sourceLost : Bool
  active : Nat
  pref : Nat
  srcEn : Nat
  beatLog2 : Nat
  domain : Nat
  transport : Nat
  delayMech : Nat
  lastTraced : Nat
  tenMhz : Bool
  floor : Nat
  lastFloor : Nat
  stepEvents : Nat
  lossEvents : Nat
  jrnlSel : Nat
  srcs : List TimeSrc
  ppsExpected : Option Nat
  pendPref : Option (Nat × Nat)
  pendBeat : List (Nat × Nat)
  pendStep : Option (Nat × Bool)
  boundary : Nat
  utcOffset : Int
  /-- R218: boundaries since the device's series of flag windows began; none before the first. -/
  series : Option Nat
  /-- R318: the time of record has been traced since power-up. -/
  everTraced : Bool
deriving DecidableEq, Repr

/-- R342: a reset in progress. -/
structure ResetOp where
  domain : Nat
  target : Nat
  start : Nat
  cause : Nat
  /-- VI and entry of the RESET commands it answers (R291, R344). -/
  answer : List (Nat × Nat)
  /-- VIs whose work it touches. -/
  vis : List Nat
  /-- VI and entry of the steps it ended, to be run again (R315, R343). -/
  entries : List (Nat × Nat)
deriving DecidableEq, Repr

/-- R337, R338: a test pack. -/
structure Pack where
  id : Nat
  bytes : List Byte
  signer : Nat
deriving DecidableEq, Repr

/-- R339: a test-pack run. -/
structure PackRun where
  entry : Nat
  pack : Nat
  /-- Yelm and test of what is still to run; arrays tested and arrays that failed. -/
  left : List (Nat × Nat)
  tested : List (Nat × Nat)
  failed : List (Nat × Nat)
deriving DecidableEq, Repr

/-- The error records block (R349) and recovery. -/
structure ErrBlk where
  ring : Ring
  ringSel : Nat
  missed : Nat
  hb : Nat
  hbSeen : Nat
  hbResets : Nat
  sinceRidge : Option Nat
  outOfService : Bool
  lastDomain : Nat
  starts : List Nat
  lastReset : Nat
  devResets : Nat
  retired : Nat
  hardReruns : Nat
  operandRestarts : Nat
  stepReruns : Nat
  packs : Tbl Pack
  packRuns : Nat
  runs : List PackRun
  resets : List ResetOp
deriving DecidableEq, Repr

/-- The calibration block (R385). -/
structure CalBlk where
  refFault : Bool
  passActive : Bool
  rotEn : Bool
  src : Nat
  srcPend : Option Nat
  refUv : Nat
  refUvPend : Option Nat
  rotPeriod : Nat
  setId : Nat
  refMeas : Nat
  lastPass : Nat
  passCount : Nat
  yelmCals : Nat
  tapLimit : Nat
  refFaults : Nat
  interpHyst : Nat
  yelmSel : Nat
  rdacSel : Nat
  rdacCode : Tbl Nat
  /-- R385: last measured output of a course's reference DAC, µV. -/
  rdacUv : Tbl Nat
  passStart : Nat
  /-- R373: the last reference measurement failed; no trim changes until one succeeds. -/
  refBad : Bool
  /-- R379: T and stamp of the set in force of yelms that `yelms` does not list, by die. -/
  dieTrim : Tbl (F32 × Nat)
  /-- R65: per course, the monitor seed of yelms that the table does not list. -/
  blankSeed : Tbl F32
  queue : List Nat
  /-- CAL_RUN and CAL_REQ requests: VI, entry, yelms left, yelms done. -/
  requests : List (Nat × Option Nat × List Nat × Nat)
deriving DecidableEq, Repr

/-- The monitor converter block (R400). -/
structure MonBlk where
  refSettled : Bool
  refNow : Nat
  seqBusy : Bool
  roundUs : Nat
  rounds : Nat
  userEn : Nat
  cfg : List Nat
  cfgPend : Tbl Nat
  res : List Nat
  filtSel : Nat
  /-- Filter of a channel: value, stamp, valid. -/
  filt : Tbl (F32 × Nat × Bool)
  /-- R396: windows of the rails by FILT index. -/
  win : Tbl (F32 × F32)
  railAlarm : Nat
  alarmFirst : Nat
  railAlarms : Nat
  wakeCause : Nat
  maintActive : Bool
  trip : Bool
  alert : Bool
  maintEn : Bool
  wakeLport : Nat
  wakeLo : Nat
  /-- R401: the WAKE_AT pair in force, and whether it is still to come. -/
  wakeAt : Nat
  wakeArmed : Bool
  wakeMargin : Nat
  nextMaint : Nat
  wakes : Nat
  maintWakes : Nat
  wakeHeld : Nat
  wakeDropped : Nat
  held : List Frame
  /-- R397: per yelm, what was recorded on leaving Run: the margin, the dose since, and the stamp of the dose. -/
  margins : Tbl (F32 × F32 × Nat)
  roundStart : Nat
deriving DecidableEq, Repr

/-- A die as the governor and the thermal block see it. -/
structure DieBlk where
  /-- Digital temperature, 1/1,000 °C (R412). -/
  temp : Int
  /-- R413, R414: warning and throttle tripped and not cleared. -/
  warn : Bool
  throt : Bool
  /-- R412: samples in a row at the shutdown level. -/
  hot : Nat
  deadline : Option Nat
  enforcing : Bool
  /-- R414: the thermal lit limit this die sets; a notional one where it has no yelms. -/
  lit : Nat
  /-- R414: steps admitted in the beat before the trip. -/
  before : Nat
deriving DecidableEq, Repr

/-- The power and thermal block (R421). -/
structure PwrBlk where
  state : Nat
  trippedPrev : Bool
  brakeOn : Bool
  capEnf : Nat
  capReq : Nat
  capFrom : Nat
  pendCap : Option (Nat × Nat)
  power : F32
  energyMj : Nat
  energyFrac : Rat
  govLit : Nat
  /-- R407, R414: admission limits of the governor and of the thermal enforcement, in steps per beat. -/
  govAdmit : Option Nat
  thermAdmit : Option Nat
  graceMs : Nat
  shutdownC : Nat
  throttleC : Nat
  warnC : Nat
  dies : Tbl DieBlk
  dieSel : Nat
  brakeSeen : Bool
  throttleSeen : Bool
  warnSeen : Bool
  /-- R421: in 1/16 °C. -/
  tripTemp : Int
  tripDie : Nat
  tripStamp : Nat
  brakeEvents : Nat
  brakeUs : Nat
  brakeStart : Nat
  throttleEvents : Nat
  warnEvents : Nat
  notices : Nat
  capBeats : Nat
  railSel : Nat
  rails : List (F32 × F32)
  brakeLit : Nat
  /-- R403: the state to be entered once the drain has ended, and the entries of VI 0 that asked for it. -/
  want : Option (Nat × List Nat)
  /-- R407: steps admitted in this beat and in the one before. -/
  admitted : List Nat
  /-- R406: since when POWER_W has stayed below 0.97 × CAP_ENF_W; the stamp of the last governor sample. -/
  lowSince : Option Nat
  lastTick : Option Nat
  /-- R398: a wake is under way; a source that fired while a state was being entered; what follows a wake at the first boundary
  (R403); the state a maintenance wake returns to (R397). -/
  waking : Bool
  wakePend : Option Nat
  wakeDue : Bool
  back : Option Nat
deriving DecidableEq, Repr

/-- The clock block (R422). -/
structure ClkBlk where
  clkEn : Nat
  ywinEn : Nat
  refOk : List Bool
  coast : Nat
  pllSel : Nat
  pllState : List Nat
  pllMhz : List Nat
  lossEvents : Nat
  coastUs : Nat
  coastStart : Option Nat
  relock : List Bool
deriving DecidableEq, Repr

/-- A MACsec association (R438): SCI, SSCI, salt, key, next or lowest acceptable packet number, seen set. -/
structure Assoc where
  an : Nat
  sci : Nat
  ssci : Nat
  salt : List Byte
  key : List Byte
  pn : Nat
  /-- R441: the packet number held in the persistent store. -/
  stored : Nat
deriving DecidableEq, Repr

/-- MACsec of a logical port (R256, R438–R441). -/
structure MacSec where
  alert : Bool
  exhausted : Bool
  tx : Option Assoc
  rx : Tbl (List Assoc)
  window : Nat
  drops : Nat
deriving DecidableEq, Repr

/-- A firmware slot (R426, R429). -/
structure Slot where
  valid : Bool
  svn : Nat
  major : Nat
  minor : Nat
  build : Nat
  digest : List Byte
deriving DecidableEq, Repr

/-- The security block (R442), boot and attestation. -/
structure SecBlk where
  imgSigReq : Bool
  pufFail : Bool
  /-- R427: no slot runs; the ridge stays in the ROM loader. -/
  romLoader : Bool
  fallback : Bool
  trial : Bool
  staged : Bool
  bootSlot : Nat
  slots : List Slot
  preferred : Nat
  trialCount : Nat
  minSvn : Nat
  lmsTree : Nat
  lmsLeft : Nat
  treeWork : Bool
  batchS : Nat
  reports : Nat
  batches : Nat
  opValid : Nat
  opSel : Nat
  opDigest : List (List Byte)
  opWrite : List Byte
  /-- R442: words of a digest have been written and not committed. -/
  opDirty : Bool
  imgViSel : Nat
  msSel : Nat
  ms : List MacSec
  /-- R436: the open batch: VI, entry, report body. -/
  batch : List (Nat × Nat × List Byte)
  batchStart : Option Nat
  waitingBatches : List (Nat × List (Nat × Nat × List Byte))
  fwPackage : Option (Nat × Nat × List Byte)
  recovery : Option (Nat × List Byte)
deriving DecidableEq, Repr

/-- Pins (R447, R450–R454) and the test port (R466). -/
structure Pins where
  pbrakeL : Bool
  pwrOk : Bool
  sysResetL : Bool
  pwrReq : Bool
  thermAlertL : Bool
  thermTripL : Bool
  vddAon : Bool
  /-- R451, R453: the main domains run; false while they are held in reset. -/
  mainUp : Bool
  tap : TapInstr
  vi0Pend : Option AddrRec
deriving DecidableEq, Repr

/-- What the persistent store holds beside the fields of the blocks (R243, R269, R377). -/
structure Store where
  viTags : Tbl Nat
  q0Tags : Tbl Nat
  /-- R370: REF_ID. -/
  refId : Nat
deriving DecidableEq, Repr

/-- The device. -/
structure State where
  /-- Commands that wait, first in, first out. -/
  pending : List Instr
  /-- The time of record (R297). -/
  now : Nat
  /-- The count that free values are drawn by (log entry 7). -/
  draws : Nat
  outbox : List Out
  nextStep : Nat
  nextWave : Nat
  net : Net
  vis : Tbl Vi
  steps : Tbl Step
  waves : Tbl Wave
  yelms : Tbl Yelm
  /-- R131, R135: bytes of the key-value blocks in HBM (log entry 9); addresses as Ops lays them out. -/
  hbm : List Host.Cell
  time : TimeBlk
  err : ErrBlk
  cal : CalBlk
  mon : MonBlk
  pwr : PwrBlk
  clk : ClkBlk
  sec : SecBlk
  pins : Pins
  store : Store
  /-- VI_SEL of the precision block (R231) and PAIR_VI_SEL (R370), as VI 0 has set them. -/
  precView : Nat
  pairView : Nat
  /-- R231, R259: what VI 0 has written for a VI number that is not open: selectors and thresholds. -/
  free : Tbl (ViSel × Prec)
deriving DecidableEq, Repr

/-- Faults. -/
inductive Fault where
  /-- Never raised: every failed check of the spec is an answer, a count or a record, never a stop of the device.
  Safe. -/
  | none
deriving DecidableEq, Repr

/-- Refusals. -/
inductive Refusal where
  /-- Raised by an arm of exec that has no meaning yet; safe, since the machine stops. -/
  | notModelled (mnemonic : String)
deriving DecidableEq, Repr

/-! ### After reset -/

def Window.empty : Window := ⟨none, []⟩
def Checkpoint.empty : Checkpoint := ⟨0, 0, 0, []⟩
def Journal.empty : Journal := ⟨[], 0, .empty, .empty, [], 0, 0⟩

/-- R247: a queue as VI_CREATE makes queue 0: push, packet completions, class 7, with a tag (R269, R243). -/
def Queue.zero (gen : Nat) : Queue :=
  ⟨gen, 7, false, false, 0, 6, 0, 0, 0, 0, 0, 0, false, 0, 0, 0, 0, [], .empty, [], [], 0, none, false, none⟩

/-- R118: the sampling defaults. -/
def Sampling.default : Sampling := ⟨0x3F800000#32, 0, 0x3F800000#32, 0⟩

/-- R231: no counts. -/
def Prec.zero : Prec :=
  ⟨[], List.replicate 12 0, 0, 0, 0xFFFF, 0, 1000, [1000, 100, 50000, 500, 10, 5000, 50000, 1000], 0, false⟩

/-- R370: unpaired. -/
def Pair.none : Pair :=
  { role := 0, state := 0, leaseMs := 0, peerVi := 0, rc := 0, checking := false, rejoin := false, snapDue := false,
    sending := false, joinEntry := Option.none, joinStart := 0, takeEntry := Option.none, takeStart := 0, awaiting := false,
    leaseEnd := 0, ackStamp := 0, lastSent := 0, nextSeqno := 0, unacked := [], group := [], expect := 0, applied := 0,
    appliedStamp := 0, digest := [], entries := [], queues := [], ckpt := .empty, dropped := 0, fences := 0, takeovers := 0,
    snapshots := 0, splitSeen := false, broken := false, deposedSeen := false, expired := false, unmirrored := 0,
    leaveDue := false, former := Option.none }

/-- R199: no image. -/
def ImgState.none : ImgState := ⟨0, 0, Option.none, ⟨0, 0, 0⟩, [], [], Option.none, [], [], []⟩

/-- R132: an arena area of a size in bytes: 64 MiB arenas (m = 14), all free. -/
def Arena.ofBytes (n : Nat) : Arena :=
  ⟨n / 67108864 * 67108864, (List.range (n / 67108864)).map (fun i => (14, i * 67108864))⟩

def Kv.empty (t1 : Nat) : Kv := ⟨[], 0, Arena.ofBytes t1, [], 0, []⟩
def ViCounters.zero : ViCounters := ⟨0, 0, 0, 0, 0⟩
def ViSel.zero : ViSel := ⟨0, 0, 0, 0, none, none, none, none⟩

/-- R241: the T1 arenas of a partition record, in MiB; a VI at the smallest quota has none. Log entry 101 (DEDUCED). -/
def PartRec.t1Mib (p : PartRec) : Nat := if p.hbm ≤ 80 then 0 else (p.hbm - p.jrnl - p.digital - p.train) / 64 * 64

/-- A fresh VI with its records and queue 0 (R240, R247). -/
def Vi.fresh (a : AddrRec) (p : PartRec) (q0 : Nat) : Vi :=
  ⟨a, p, none, [(0, Queue.zero q0)], [], [], .empty, .empty, [], .empty (p.t1Mib * 1048576), [], .none, .zero, .none,
    .zero, .zero, 0, [], []⟩

/-- R12, R247, R310: the partition record of VI 0. Its queue limit is a DESIGN CHOICE (log entry 6). -/
def PartRec.vi0 : PartRec := ⟨1024, 25, 393216, 64, 0, 0, 0, 0, []⟩

/-- VI 0 as it exists from power-up. It has no T1 arenas: it opens no sequence. -/
def Vi.vi0 : Vi := { Vi.fresh .zero .vi0 1 with kv := .empty 0 }

def Net.reset : Net :=
  { portMode := [0, 0], portPend := [none, none], eee := [false, false], linkUp := 0, maxFrame := 9216, udp := 0xBA04,
    prioMap := 0x76543210, trust := 0, pfcEn := 8, pfcWd := 100, cplRetry := 8,
    ets := List.replicate 7 (false, 14) ++ [(true, 14)], dscpLo := 0x18100800, dscpHi := 0x38302820, rxNoVi := 0,
    rxMismatch := 0, rxFrag := 0, rxOther := 0, pfcWdEvents := 0, cnpRx := 0, cnpTx := 0, rdmaReject := 0, dropped := 0,
    viSel := 0, neighbours := [], waiting := [], paused := [], xoffSent := [], blocked := [] }

def TimeSrc.unlocked : TimeSrc := ⟨false, 0, [], 0, none, [], 0, none⟩

def TimeBlk.reset : TimeBlk :=
  { unset := true, slewing := false, stepped := false, sourceLost := false, active := 3, pref := 3, srcEn := 0,
    beatLog2 := 3, domain := 0, transport := 0, delayMech := 0, lastTraced := 0, tenMhz := false, floor := 0,
    lastFloor := 0, stepEvents := 0, lossEvents := 0, jrnlSel := 0, srcs := List.replicate 3 .unlocked,
    ppsExpected := none, pendPref := none, pendBeat := [], pendStep := none, boundary := 0, utcOffset := 37, series := none,
    everTraced := false }

def ErrBlk.reset : ErrBlk :=
  { ring := .empty, ringSel := 0, missed := 0, hb := 0, hbSeen := 0, hbResets := 0, sinceRidge := none,
    outOfService := false, lastDomain := 0xF, starts := [], lastReset := 0, devResets := 0, retired := 0,
    hardReruns := 0, operandRestarts := 0, stepReruns := 0, packs := [],
    packRuns := 0, runs := [], resets := [] }

def CalBlk.reset : CalBlk :=
  { refFault := false, passActive := false, rotEn := true, src := 0, srcPend := none, refUv := 1250000,
    refUvPend := none, rotPeriod := 600, setId := 0, refMeas := 0, lastPass := 0, passCount := 0, yelmCals := 0,
    tapLimit := 0, refFaults := 0, interpHyst := 4, yelmSel := 0, rdacSel := 0, rdacCode := [], rdacUv := [],
    passStart := 0, refBad := false, dieTrim := [], blankSeed := [], queue := [], requests := [] }

def MonBlk.reset : MonBlk :=
  { refSettled := false, refNow := 0, seqBusy := false, roundUs := 0, rounds := 0, userEn := 0,
    cfg := List.replicate 32 0, cfgPend := [], res := List.replicate 32 0, filtSel := 0, filt := [],
    win := [], railAlarm := 0, alarmFirst := 0xFF, railAlarms := 0,
    wakeCause := 0, maintActive := false, trip := false, alert := false, maintEn := true, wakeLport := 0, wakeLo := 0, wakeAt := 0,
    wakeArmed := false, wakeMargin := 400, nextMaint := 0, wakes := 0, maintWakes := 0,
    wakeHeld := 0, wakeDropped := 0, held := [], margins := [], roundStart := 0 }

def PwrBlk.reset : PwrBlk :=
  { state := 0, trippedPrev := false, brakeOn := false, capEnf := 850, capReq := 850, capFrom := 0,
    pendCap := none, power := 0, energyMj := 0, energyFrac := 0, govLit := 16, govAdmit := none, thermAdmit := none,
    graceMs := 200, shutdownC := 112, throttleC := 102, warnC := 95, dies := [], dieSel := 0, brakeSeen := false,
    throttleSeen := false, warnSeen := false, tripTemp := 0, tripDie := 0xFF, tripStamp := 0, brakeEvents := 0,
    brakeUs := 0, brakeStart := 0, throttleEvents := 0, warnEvents := 0, notices := 0, capBeats := 0, railSel := 0,
    rails := List.replicate 9 (0, 0), brakeLit := 16, want := none, admitted := [0, 0], lowSince := none,
    lastTick := none, waking := false, wakePend := none, wakeDue := false, back := none }

def ClkBlk.reset : ClkBlk :=
  { clkEn := 0x7FF, ywinEn := 0xFFF, refOk := [false, false, false], coast := 0, pllSel := 0,
    pllState := List.replicate 9 0, pllMhz := List.replicate 9 0, lossEvents := 0, coastUs := 0, coastStart := none,
    relock := [false, false, false] }

def MacSec.off : MacSec := ⟨false, false, none, [], 0, 0⟩

def SecBlk.reset : SecBlk :=
  { imgSigReq := false, pufFail := false, romLoader := false, fallback := false, trial := false, staged := false, bootSlot := 0,
    slots := [⟨true, 0, 0, 0, 0, zeros 48⟩, ⟨false, 0, 0, 0, 0, zeros 48⟩], preferred := 0, trialCount := 0,
    minSvn := 0, lmsTree := 0, lmsLeft := 1048576, treeWork := false, batchS := 10, reports := 0,
    batches := 0, opValid := 0, opSel := 0, opDigest := List.replicate 4 (zeros 48), opWrite := zeros 48, opDirty := false, imgViSel := 0,
    msSel := 0, ms := List.replicate 8 .off, batch := [], batchStart := none, waitingBatches := [], fwPackage := none,
    recovery := none }

def Pins.reset : Pins :=
  { pbrakeL := true, pwrOk := true, sysResetL := true, pwrReq := true, thermAlertL := true,
    thermTripL := true, vddAon := true, mainUp := true, tap := .idcode, vi0Pend := none }

/-- The machine right after reset: the Reset columns of the spec, VI 0 with its queue 0, nothing else. Log entry 5 (DESIGN
CHOICE), 6 (DESIGN CHOICE). -/
def State.reset : State :=
  { pending := [], now := 0, draws := 0, outbox := [], nextStep := 1, nextWave := 1, net := .reset,
    vis := [(0, Vi.vi0)], steps := [], waves := [], yelms := [], hbm := [], time := .reset, err := .reset,
    cal := .reset, mon := .reset, pwr := .reset, clk := .reset, sec := .reset, pins := .reset,
    store := ⟨[(0, 1)], [(0, 1)], 0⟩, precView := 0, pairView := 0, free := [] }

end Sys2Proof.Machine
end

