-- ==== Sys2Proof/Machine/Operands.lean ====
section
/-! DEFINITION. Operands: the fields of a Sloson packet (R261), the opcode groups with their permissions, phases and
layouts (R276–R295), the address and partition records (R236, R240), and the reply bytes. -/
namespace Sys2Proof.Machine

/-! ### The header (R261) -/

def pMagic (p : Packet) : Nat := leAt p.bytes 0 2
def pVersion (p : Packet) : Nat := leAt p.bytes 2 1
def pFlags (p : Packet) : Nat := leAt p.bytes 3 1
def pVi (p : Packet) : Nat := leAt p.bytes 4 2
def pQueue (p : Packet) : Nat := leAt p.bytes 6 2
def pPsn (p : Packet) : Nat := leAt p.bytes 8 4
def pOpcode (p : Packet) : Nat := leAt p.bytes 12 2
def pGen (p : Packet) : Nat := leAt p.bytes 14 2
def pLength (p : Packet) : Nat := leAt p.bytes 24 4
def pCrc (p : Packet) : Nat := leAt p.bytes 30 2
/-- The payload: LENGTH bytes after the header. -/
def pPay (p : Packet) : List Byte := (p.bytes.drop 32).take (pLength p)

/-- R266 check 1, R263: at least 32 bytes, MAGIC and CRC right. -/
def headerOk (p : Packet) : Bool :=
  decide (32 ≤ p.bytes.length) && pMagic p == Config.magic && crc16 (p.bytes.take 30) == pCrc p

/-- R261: the header and payload of a reply; flags as R262. -/
def replyBytes (flags vi queue psn opcode gen stamp status : Nat) (pay : List Byte) : List Byte :=
  let h := le 2 Config.magic ++ le 1 1 ++ le 1 flags ++ le 2 vi ++ le 2 queue ++ le 4 psn ++ le 2 opcode ++ le 2 gen
    ++ le 8 stamp ++ le 4 pay.length ++ le 2 status
  h ++ le 2 (crc16 h) ++ pay

/-! ### Statuses (R275) -/

def stOk : Nat := 0x0000
def stAccepted : Nat := 0x0001
def stUnknownOpcode : Nat := 0x0100
def stBadLength : Nat := 0x0101
def stNoObject : Nat := 0x0102
def stNotPermitted : Nat := 0x0103
def stStale : Nat := 0x0104
def stVersion : Nat := 0x0105
def stNoResource : Nat := 0x0200
def stHeld : Nat := 0x0201
def stJournalFull : Nat := 0x0202
def stReplayed : Nat := 0x0300
def stRecipeFlag : Nat := 0x0301
def stFenced : Nat := 0x0400
def stOutOfService : Nat := 0x0401
def stThrottled : Nat := 0x0402
def stAbandoned : Nat := 0x0403

/-! ### Opcodes (R276–R295) -/

/-- Whether an opcode is one that hosts may send (R277–R295; 0x0D80 and 0x0D81 are device-only). -/
def opKnown (op : Nat) : Bool :=
  let g := op / 256
  let n := op % 256
  match g with
  | 0x01 => decide (1 ≤ n ∧ n ≤ 9)
  | 0x02 => decide (1 ≤ n ∧ n ≤ 2)
  | 0x03 => decide (1 ≤ n ∧ n ≤ 4)
  | 0x04 => decide (1 ≤ n ∧ n ≤ 5)
  | 0x05 => decide (1 ≤ n ∧ n ≤ 3)
  | 0x06 => decide (1 ≤ n ∧ n ≤ 6)
  | 0x07 => decide (1 ≤ n ∧ n ≤ 2)
  | 0x08 => decide (1 ≤ n ∧ n ≤ 3)
  | 0x09 => decide (1 ≤ n ∧ n ≤ 3)
  | 0x0A => decide (1 ≤ n ∧ n ≤ 5)
  | 0x0B => decide (1 ≤ n ∧ n ≤ 4)
  | 0x0C => decide (1 ≤ n ∧ n ≤ 3)
  | 0x0D => decide (1 ≤ n ∧ n ≤ 3)
  | 0x0E => decide (1 ≤ n ∧ n ≤ 3)
  | _ => false

/-- R276: the opcodes allowed only to VI 0, and those refused on it. -/
def opAllowed (op vi : Nat) : Bool :=
  let g := op / 256
  if vi = 0 then !((decide (0x03 ≤ g) && decide (g ≤ 0x06)) || g == 0x08)
  else !(g == 0x02 || [0x0101, 0x0102, 0x0901, 0x0902, 0x0A01, 0x0A02, 0x0C02, 0x0C03, 0x0D01, 0x0D02, 0x0D03].contains op)

/-- The opcodes marked two-phase in R277–R293. -/
def opTwoPhase (op : Nat) : Bool :=
  [0x0102, 0x0301, 0x0302, 0x0303, 0x0304, 0x0503, 0x0602, 0x0802, 0x0A01, 0x0A02, 0x0A04, 0x0B01, 0x0B03,
    0x0C03].contains op

/-- The fixed lengths of request payloads; opcodes of variable length are in `layoutOk`. -/
def fixedLen (op : Nat) : Option Nat :=
  match op with
  | 0x0102 => some 4 | 0x0103 => some 44 | 0x0104 => some 4 | 0x0105 => some 8 | 0x0106 => some 32
  | 0x0107 => some 4 | 0x0108 => some 24 | 0x0109 => some 4 | 0x0202 => some 4
  | 0x0301 => some 24 | 0x0302 => some 24 | 0x0303 => some 0 | 0x0304 => some 8
  | 0x0401 => some 36 | 0x0403 => some 8 | 0x0404 => some 4 | 0x0405 => some 4
  | 0x0501 => some 8 | 0x0502 => some 4 | 0x0503 => some 4
  | 0x0602 => some 16 | 0x0603 => some 4 | 0x0605 => some 8 | 0x0606 => some 28
  | 0x0701 => some 16 | 0x0801 => some 20 | 0x0802 => some 4 | 0x0803 => some 4
  | 0x0901 => some 12 | 0x0902 => some 4 | 0x0903 => some 12
  | 0x0A01 => some 24 | 0x0A02 => some 8 | 0x0A03 => some 4 | 0x0A04 => some 24 | 0x0A05 => some 4
  | 0x0B01 => some 12 | 0x0B02 => some 4 | 0x0B03 => some 4 | 0x0B04 => some 4
  | 0x0C01 => some 32 | 0x0C02 => some 76 | 0x0C03 => some 24
  | 0x0D01 => some 4 | 0x0D02 => some 8 | 0x0D03 => some 4
  | 0x0E01 => some 8
  | _ => none

/-- R83: element bytes, rows and columns of a buffer, and whether TILE_WRITE may write it. -/
def tileShape (id : Nat) : Option (Nat × Nat × Nat × Bool) :=
  match id with
  | 1 => some (2, 128, 8192, true) | 2 => some (8, 32, 1024, true) | 3 => some (8, 128, 4096, true)
  | 4 => some (4, 128, 4096, true) | 5 => some (2, 256, 4096, true) | 6 => some (4, 1024, 8, false)
  | _ => none

/-- R85, R86: the effective rectangle: row, column, rows, columns. -/
def tileRect (pay : List Byte) (size rows cols : Nat) (read : Bool) : Nat × Nat × Nat × Nat :=
  let r := min (leAt pay 4 4) (rows - 1)
  let c := min (leAt pay 8 4) (cols - 1)
  let n := clampN (leAt pay 12 2) 1 (rows - r)
  let m := clampN (leAt pay 14 2) 1 (cols - c)
  if !read then (r, c, n, m)
  else if m * size > 8144 then (r, c, 1, 8144 / size)
  else (r, c, min n (8144 / (m * size)), m)

/-- R85, R271: the reply's descriptor with its effective values, whatever the status; of an unknown buffer nothing is clamped. -/
def tileDesc (pay : List Byte) (read : Bool) : List Byte :=
  match tileShape (leAt pay 2 1) with
  | none => bytesAt pay 0 3 ++ zeros 1 ++ bytesAt pay 4 12
  | some (size, rows, cols, _) =>
    let t := tileRect pay size rows cols read
    bytesAt pay 0 3 ++ zeros 1 ++ le 4 t.1 ++ le 4 t.2.1 ++ le 2 t.2.2.1 ++ le 2 t.2.2.2

/-- R86, R266: whether a TILE_WRITE carries the elements of the rectangle it asks for. -/
def tileFits (pay : List Byte) : Bool :=
  decide (16 ≤ pay.length) && (match tileShape (leAt pay 2 1) with
    | none => true
    | some (size, _, _, _) => pay.length == 16 + leAt pay 12 2 * leAt pay 14 2 * size)

/-- R266 check 13: whether LENGTH fits the opcode's layout. -/
def layoutOk (op : Nat) (pay : List Byte) : Bool :=
  match fixedLen op with
  | some n => pay.length == n
  | none =>
    match op with
    | 0x0101 => decide (80 ≤ pay.length) && pay.length == 80 + 2 * leAt pay 54 2
    | 0x0201 => decide (32 ≤ pay.length) && pay.length == 32 + 2 * leAt pay 6 2
    | 0x0402 => decide (24 ≤ pay.length) && pay.length == 24 + 4 * leAt pay 6 2
    | 0x0601 => decide (8 ≤ pay.length) &&
        pay.length == (8 + 8 * leAt pay 2 2 + 2 * leAt pay 4 2 + 3) / 4 * 4
    | 0x0604 => decide (12 ≤ pay.length) && pay.length == 12 + 8 * leAt pay 4 2
    | 0x0702 => tileFits pay
    | 0x0E02 => decide (8 ≤ pay.length) && decide (1 ≤ leAt pay 4 2) && decide (leAt pay 4 2 ≤ 64) &&
        pay.length == 8 + 4 * leAt pay 4 2
    | 0x0E03 => decide (pay.length ≤ 8160)
    | _ => false

/-- R311, R265: the largest reply payload an opcode's layout allows: 192 courses (R240), 16 results (R282), 64 registers
(R295), 127 records (R290), and otherwise what a reply of 8,192 bytes leaves. Log entry 41 (DEDUCED). -/
def maxReply (op : Nat) : Nat :=
  match op with
  | 0x0101 => 8 + 80 + 2 * 192
  | 0x0102 => 12 | 0x0103 => 48 | 0x0104 => 8 | 0x0106 => 20 | 0x0107 => 4 | 0x0108 => 16 | 0x0109 => 4
  | 0x0201 => 32 + 2 * 192 | 0x0202 => 32 + 2 * 192
  | 0x0301 => 20 | 0x0302 => 24 | 0x0303 => 4 | 0x0304 => 8
  | 0x0401 => 32 | 0x0402 => 32 + 8 * 16 | 0x0403 => 8 | 0x0404 => 8 | 0x0405 => 36
  | 0x0501 => 8 | 0x0502 => 8 | 0x0503 => 8
  | 0x0601 => 8160 | 0x0602 => 16 | 0x0603 => 4 | 0x0604 => 40 | 0x0605 => 24 | 0x0606 => 48
  | 0x0701 => 8160 | 0x0702 => 16 | 0x0801 => 28 | 0x0802 => 8 | 0x0803 => 4172
  | 0x0901 => 12 | 0x0902 => 12
  | 0x0A01 => 8 | 0x0A02 => 8 | 0x0A03 => 8 + 64 * 127 | 0x0A04 => 16 | 0x0A05 => 8
  | 0x0B01 => 8 | 0x0B02 => 4 | 0x0B03 => 8 | 0x0B04 => 4
  | 0x0C01 => 8160 | 0x0C02 => 8 | 0x0C03 => 4
  | 0x0D01 => 12 | 0x0D02 => 16 | 0x0D03 => 12
  | 0x0E01 => 8 + 4 * 64 | 0x0E02 => 8 + 4 * 64 | 0x0E03 => 8160
  | _ => 0

/-- R311: the space an entry takes in the ring. Log entry 41 (DEDUCED). -/
def entrySize (op : Nat) (p : Packet) : Nat :=
  64 + ceilDiv (32 + pLength p) 64 * 64 + ceilDiv (32 + maxReply op) 64 * 64

/-! ### Records of chapter 10 -/

/-- R236: the address record at an offset, its fields clamped. -/
def addrAt (bs : List Byte) (o : Nat) : AddrRec :=
  { ipv6 := BitVec.ofNat 128 (beAt bs o 16), prefix6 := clampN (leAt bs (o + 16) 1) 1 128,
    prefix4 := clampN (leAt bs (o + 17) 1) 1 32, vlan := min (leAt bs (o + 18) 2) 4094,
    ipv4 := BitVec.ofNat 32 (beAt bs (o + 20) 4), gw6 := BitVec.ofNat 128 (beAt bs (o + 24) 16),
    gw4 := BitVec.ofNat 32 (beAt bs (o + 40) 4), ports := leAt bs (o + 44) 1 }

/-- R236: the 48 bytes of an address record. -/
def addrBytes (a : AddrRec) : List Byte :=
  be 16 a.ipv6.toNat ++ le 1 a.prefix6 ++ le 1 a.prefix4 ++ le 2 a.vlan ++ be 4 a.ipv4.toNat ++ be 16 a.gw6.toNat ++
    be 4 a.gw4.toNat ++ le 1 a.ports ++ zeros 3

/-- R240: the partition record at an offset, with the clamps of its own table; COURSE_LIST as listed. -/
def partAt (bs : List Byte) (o : Nat) : PartRec :=
  let j := leAt bs (o + 12) 4
  { queues := clampN (leAt bs (o + 2) 2) 1 1024, trainShare := min (leAt bs (o + 4) 1) 100 / 5 * 5,
    hbm := max (leAt bs (o + 8) 4) 80, jrnl := if j = 0 then 64 else clampN j 16 1024 / 16 * 16,
    digital := leAt bs (o + 16) 4, train := leAt bs (o + 20) 4, remote := leAt bs (o + 24) 4,
    egress := min (leAt bs (o + 28) 2) 1600,
    courses := (List.range (leAt bs (o + 6) 2)).map (fun i => leAt bs (o + 32 + 2 * i) 2) }

/-- R240: the VI a partition record names. -/
def partVi (bs : List Byte) (o : Nat) : Nat := leAt bs o 2

/-- R240: the bytes of a partition record of a VI. -/
def partBytes (vi : Nat) (r : PartRec) : List Byte :=
  le 2 vi ++ le 2 r.queues ++ le 1 r.trainShare ++ zeros 1 ++ le 2 r.courses.length ++ le 4 r.hbm ++ le 4 r.jrnl ++
    le 4 r.digital ++ le 4 r.train ++ le 4 r.remote ++ le 2 r.egress ++ zeros 2 ++ r.courses.flatMap (le 2)

/-- R241 item 4: the areas reduced, in order, until they fit; none below its own lower limit. -/
def shrinkAreas (r : PartRec) : PartRec :=
  let room := r.hbm - 64
  let excess := r.jrnl + r.digital + r.train - room
  let j := max 16 ((r.jrnl - excess) / 16 * 16)
  let over1 := j + r.digital + r.train - room
  let d := r.digital - over1
  let over2 := j + d + r.train - room
  { r with jrnl := if excess = 0 then r.jrnl else j, digital := d, train := r.train - over2 }

/-- The IPv6 form of an IPv4 address (R247: IPv4-mapped). -/
def mapped4 (a : BitVec 32) : BitVec 128 := BitVec.ofNat 128 (0xFFFF * 2 ^ 32 + a.toNat)

/-- The IPv4 address in an IPv4-mapped one. -/
def unmap4 (a : BitVec 128) : Option (BitVec 32) :=
  if a.toNat / 2 ^ 32 = 0xFFFF then some (BitVec.ofNat 32 a.toNat) else none

/-- Whether two addresses of a width agree in their first n bits. -/
def samePrefix (w n a b : Nat) : Bool := a / 2 ^ (w - n) == b / 2 ^ (w - n)

/-- R236, R239: the next hop toward an address: itself within the prefix, else the gateway, if there is one; PREFIX4 counts only
with an IPV4. -/
def nextHop (a : AddrRec) (dst : BitVec 128) : Option (BitVec 128) :=
  match unmap4 dst with
  | some d4 =>
    if a.ipv4 ≠ 0 ∧ samePrefix 32 a.prefix4 d4.toNat a.ipv4.toNat then some dst
    else if a.gw4 = 0 then none else some (mapped4 a.gw4)
  | none =>
    if samePrefix 128 a.prefix6 dst.toNat a.ipv6.toNat then some dst
    else if a.gw6 = 0 then none else some a.gw6

/-- R237: IPV6 that is not a unicast address. -/
def notUnicast (a : BitVec 128) : Bool := a == 0 || a == 1 || a.toNat / 2 ^ 120 == 0xFF

/-- R238 step 1: whether an address is one of the VI's. -/
def isAddrOf (a : AddrRec) (ip : BitVec 128) : Bool :=
  ip == a.ipv6 || (a.ipv4 != 0 && ip == mapped4 a.ipv4)

/-- R237: whether two VIs would clash. -/
def addrClash (a b : AddrRec) : Bool :=
  a.vlan == b.vlan && (a.ports &&& b.ports) != 0 && (a.ipv6 == b.ipv6 || (a.ipv4 != 0 && a.ipv4 == b.ipv4))

/-! ### Effective parameters (R118, R161, R181, R274) and the replies that carry them -/

/-- R118: sampling parameters of a payload, clamped. -/
def samplingAt (pay : List Byte) (topKOfs fpOfs : Nat) : Sampling :=
  { temperature := fClampOr (BitVec.ofNat 32 (leAt pay fpOfs 4)) 0 0x41800000#32 fOne,
    topK := min (leAt pay topKOfs 2) 256,
    topP := fClampOr (BitVec.ofNat 32 (leAt pay (fpOfs + 4) 4)) 0x3A83126F#32 fOne fOne,
    minP := fClampOr (BitVec.ofNat 32 (leAt pay (fpOfs + 8) 4)) 0 0x3F7FBE77#32 0 }

/-- R280: the reply of SEQ_OPEN. -/
def seqOpenReply (q p ctx pos fmt : Nat) (m : Sampling) : List Byte :=
  le 4 q ++ le 4 p ++ le 4 ctx ++ le 2 pos ++ le 1 fmt ++ zeros 1 ++ le 2 m.topK ++ zeros 2 ++ le 4 m.temperature.toNat ++
    le 4 m.topP.toNat ++ le 4 m.minP.toNat

/-- R130, R280: the context limit, the page size and the format that a SEQ_OPEN asks for, clamped. -/
def openCtx (pay : List Byte) : Nat := clampN (leAt pay 12 4) 1 Config.maxContext
def openPos (pay : List Byte) : Nat := nearestPow2 (clampN (leAt pay 16 2) 16 2048)
def openFmt (pay : List Byte) : Nat := leAt pay 18 1

/-- R271, R280: the reply of a SEQ_OPEN with its effective values. -/
def openReply (pay : List Byte) (p : Nat) : List Byte :=
  seqOpenReply (leAt pay 0 4) p (openCtx pay) (openPos pay) (openFmt pay) (samplingAt pay 22 24)

/-- R285: one hook of a specification: hook, rank, scale. -/
def specHooks (pay : List Byte) : List (Nat × Nat × F32) :=
  (List.range (leAt pay 2 2)).map (fun i =>
    (leAt pay (8 + 8 * i) 2, clampN (leAt pay (10 + 8 * i) 1) 1 64, BitVec.ofNat 32 (leAt pay (12 + 8 * i) 4)))
def specNorms (pay : List Byte) : List Nat :=
  (List.range (leAt pay 4 2)).map (fun i => leAt pay (8 + 8 * leAt pay 2 2 + 2 * i) 2)
def specBias (pay : List Byte) : Bool := bitOf (leAt pay 6 2) 0

/-- Bytes padded with zeros to a multiple of 4. -/
def pad4 (bs : List Byte) : List Byte := bs ++ zeros (ceilDiv bs.length 4 * 4 - bs.length)

/-- R285: the reply of ADP_SET_CREATE. Log entry 44 (DEDUCED). -/
def setCreateReply (pay : List Byte) (version bytes : Nat) : List Byte :=
  bytesAt pay 0 2 ++ zeros 2 ++ le 4 version ++ le 8 bytes ++ pad4 ((specHooks pay).flatMap (fun h => le 1 h.2.1))

/-- R181: the six effective parameters. Log entry 47 (DESIGN CHOICE). -/
structure AdamW where
  lr : F32
  beta1 : F32
  beta2 : F32
  eps : F32
  decay : F32
  clip : F32
deriving DecidableEq, Repr

def adamAt (pay : List Byte) : AdamW :=
  let f := fun o => (BitVec.ofNat 32 (leAt pay o 4) : F32)
  { lr := fClampOr (f 4) 0 fOne 0x38D1B717#32, beta1 := fClampOr (f 8) 0 0x3F7FF972#32 0x3F666666#32,
    beta2 := fClampOr (f 12) 0 0x3F7FFF58#32 0x3F7FBE77#32, eps := fClampOr (f 16) 0x2B8CBCCC#32 0x3C23D70A#32 0x322BCC77#32,
    decay := fClampOr (f 20) 0 fOne 0, clip := fClampOr (f 24) 0 0x49742400#32 0 }

def AdamW.bytes (p : AdamW) : List Byte := [p.lr, p.beta1, p.beta2, p.eps, p.decay, p.clip].flatMap (fun e => le 4 e.toNat)

/-- R285: the reply of ADP_UPDATE. -/
def updateReply (pay : List Byte) (p : AdamW) (version t : Nat) (gn : F32) (commit : Nat) : List Byte :=
  bytesAt pay 0 2 ++ zeros 2 ++ le 4 version ++ le 4 t ++ le 4 gn.toNat ++ p.bytes ++ le 8 commit

end Sys2Proof.Machine
end

