-- ==== Sys2Proof/Machine/Ops.lean ====
section
/-! DEFINITION. The named operations that every family shares: time (R297, R304, R308), error records (R330–R334),
sending (R239, R250, R254), the checks of an arriving request (R238, R266, R267), the journal (R310–R313), and outcomes
(R271). -/
namespace Sys2Proof.Machine

/-! ### Access -/

def State.vi? (s : State) (v : Nat) : Option Vi := tget s.vis v
def State.modVi (s : State) (v : Nat) (f : Vi → Vi) : State := { s with vis := tmod s.vis v f }
def State.setVi (s : State) (v : Nat) (x : Vi) : State := { s with vis := tset s.vis v x }
/-- R231, R259: a VI number as its registers show it: a free number as the Reset columns give it, with what VI 0 has written.
Log entry 95 (DEDUCED). -/
def State.viView (s : State) (v : Nat) : Vi :=
  (s.vi? v).getD (
    let f := tgetD s.free v (ViSel.zero, Prec.zero)
    { Vi.fresh .zero ⟨0, 25, 0, 0, 0, 0, 0, 0, []⟩ 0 with queues := [], sel := f.1, prec := f.2 })
/-- A register write on the VI shown. Log entry 95 (DEDUCED). -/
def State.modView (s : State) (v : Nat) (f : Vi → Vi) : State :=
  if (s.vi? v).isSome then s.modVi v f
  else { s with free := tset s.free v ((f (s.viView v)).sel, (f (s.viView v)).prec) }
def State.step? (s : State) (k : Nat) : Option Step := tget s.steps k
def State.modStep (s : State) (k : Nat) (f : Step → Step) : State := { s with steps := tmod s.steps k f }
def State.modWave (s : State) (k : Nat) (f : Wave → Wave) : State := { s with waves := tmod s.waves k f }
def State.modNet (s : State) (f : Net → Net) : State := { s with net := f s.net }
def State.modErr (s : State) (f : ErrBlk → ErrBlk) : State := { s with err := f s.err }
def State.modTime (s : State) (f : TimeBlk → TimeBlk) : State := { s with time := f s.time }
def State.modPwr (s : State) (f : PwrBlk → PwrBlk) : State := { s with pwr := f s.pwr }
def State.modMon (s : State) (f : MonBlk → MonBlk) : State := { s with mon := f s.mon }
def State.modCal (s : State) (f : CalBlk → CalBlk) : State := { s with cal := f s.cal }
def State.modSec (s : State) (f : SecBlk → SecBlk) : State := { s with sec := f s.sec }

def Vi.modJrnl (x : Vi) (f : Journal → Journal) : Vi := { x with jrnl := f x.jrnl }
def Vi.modQueue (x : Vi) (q : Nat) (f : Queue → Queue) : Vi := { x with queues := tmod x.queues q f }
def Vi.modConn (x : Vi) (c : Nat) (f : Conn → Conn) : Vi := { x with conns := tmod x.conns c f }
def Vi.modSeq (x : Vi) (q : Nat) (f : Seq → Seq) : Vi := { x with seqs := tmod x.seqs q f }

/-- The sequence that a step reads. Log entry 124 (DEDUCED). -/
def Vi.seqOf (x : Vi) (t : Step) : Option Seq :=
  match t.kept with
  | some sq => some sq
  | none => tget x.seqs t.seq
def Vi.modEntry (x : Vi) (e : Nat) (f : Entry → Entry) : Vi :=
  { x with jrnl := { x.jrnl with entries := tmod x.jrnl.entries e f } }

def State.entry? (s : State) (v e : Nat) : Option Entry := (s.vi? v).bind (fun x => tget x.jrnl.entries e)
def State.modEntry (s : State) (v e : Nat) (f : Entry → Entry) : State := s.modVi v (fun x => x.modEntry e f)

/-- A fresh free value (log entry 7). -/
def State.draw (s : State) : F32 × State := (Config.draw s.draws, { s with draws := s.draws + 1 })

/-! ### Time (R297, R304, R308) -/

/-- An event's stamp: the time of record never decreases (R297). Log entry 3 (DESIGN CHOICE). -/
def State.upto (s : State) (ts : Nat) : State := { s with now := max s.now ts }

/-- R304: the beat period in force, ns. -/
def State.period (s : State) : Nat := 125000 * 2 ^ s.time.beatLog2

/-- R308: the first beat boundary after the stamp at which the device acts. -/
def State.nextBoundary (s : State) : Nat := (s.now / s.period + 1) * s.period

/-- R304, R308: the boundary that comes: the present stamp if it is one that has not passed, else the next.
Log entry 86 (DEDUCED). -/
def State.comingBoundary (s : State) : Nat :=
  if s.now % s.period = 0 ∧ s.time.boundary < s.now then s.now else s.nextBoundary

/-- R304: the beat of a stamp. -/
def State.beatOf (s : State) (t : Nat) : Nat := t / s.period

/-! ### Error records (R330–R334) -/

/-- R331: a record with nothing filled in but its code, severity, VI and stamp. -/
def recOf (code severity vi ts : Nat) : Rec :=
  { code := code, severity := severity, vi := vi, queue := 0xFFFF, psn := 0, count := 1, flags := 0, first := ts,
    last := ts, yelm := 0xFFFF, array := 0xFFFF, unit := 0xFFFF, die := 0xFF, domain := 0xFF, detail := [],
    seq := 0xFFFFFFFF }

/-- R331: the 64 bytes of a record. -/
def recBytes (r : Rec) : List Byte :=
  let h := le 2 r.code ++ le 1 (r.code / 256 - 1) ++ le 1 r.severity ++ le 2 r.vi ++ le 2 r.queue ++ le 4 r.psn ++
    le 2 r.count ++ le 2 r.flags ++ le 8 r.first ++ le 8 r.last ++ le 2 r.yelm ++ le 2 r.array ++ le 2 r.unit ++
    le 1 r.die ++ le 1 r.domain ++ bytesAt r.detail 0 16 ++ le 4 r.seq
  h ++ le 4 (crc32c h)

/-- R333: equal signatures. -/
def sameSignature (a b : Rec) : Bool :=
  a.code == b.code && a.vi == b.vi && a.die == b.die && a.yelm == b.yelm && a.array == b.array && a.unit == b.unit &&
    a.flags % 2 == b.flags % 2 && (a.flags % 2 == 0 || (a.queue == b.queue && a.psn == b.psn))

/-- R333: whether an occurrence coalesces into a record. -/
def coalesces (s : State) (r old : Rec) : Bool :=
  sameSignature r old && s.beatOf old.first == s.beatOf r.first

/-- R333, R334: an occurrence enters a ring of a size. -/
def ringPut (s : State) (size : Nat) (g : Ring) (r : Rec) : Ring :=
  if g.recs.any (coalesces s r) then
    { g with recs := g.recs.map (fun o => if coalesces s r o then { o with count := bump16 o.count, last := r.first } else o),
             coalesced := bump g.coalesced, recSeen := true }
  else if g.recs.length < size then
    { g with recs := g.recs ++ [r], written := bump g.written, recSeen := true }
  else
    { g with lost := bump g.lost, lostLast := r.first, lostFirst := if g.lost = 0 then r.first else g.lostFirst,
             lossSeen := true }

/-- R242: a VI's courses in ascending physical order, in which its yelms are numbered. Log entry 40 (DEDUCED). -/
def PartRec.ranked (r : PartRec) : List Nat := sortBy (fun a b => decide (a < b)) r.courses

/-- R242: the place of a physical yelm among a VI's yelms. -/
def viYelmOf (part : PartRec) (y : Nat) : Option Nat :=
  let k := part.ranked.idxOf (y / 16)
  if k < part.ranked.length then some (16 * k + y % 16) else none

/-- R242: the physical yelm of a VI's yelm; VI 0 numbers yelms physically (R86). -/
def physYelm (v : Nat) (part : PartRec) (n : Nat) : Option Nat :=
  if v = 0 then (if n < Config.yelmCount then some n else none)
  else (part.ranked[n / 16]?).map (fun c => 16 * c + n % 16)

/-- R330: a record as the tenant sees it. -/
def tenantView (part : PartRec) (r : Rec) : Rec :=
  { r with yelm := if r.yelm = 0xFFFF then 0xFFFF else (viYelmOf part r.yelm).getD 0xFFFF,
           die := 0xFF, flags := r.flags &&& 0xFFFB }

/-- R330: a record goes to the device ring, and to the ring of the tenant VI it concerns. A yelm number is given
physically; the device ring marks it so (R331). -/
def State.report (s : State) (r : Rec) : State :=
  let r0 := if r.yelm = 0xFFFF then r else { r with flags := r.flags ||| 4 }
  let s1 := s.modErr (fun b => { b with ring := ringPut s Config.deviceRing b.ring r0 })
  if r.vi = 0 then s1
  else s1.modVi r.vi (fun x => { x with ring := ringPut s Config.tenantRing x.ring (tenantView x.part r) })

/-- R30, R74, R333: n occurrences of one record. -/
def State.reportN (s : State) (r : Rec) : Nat → State
  | 0 => s
  | n + 1 => (s.report r).reportN r n

/-- R324: a record of one occurrence that has not been marked UNCORRECTED. -/
def sameMiss (old r : Rec) : Bool :=
  r.code == old.code && r.vi == old.vi && r.yelm == old.yelm && r.array == old.array && r.first == old.first && r.count == 1 &&
    r.flags % 2 == 0

/-- R324: a record in a ring carries UNCORRECTED and names its step; where it is no longer there by itself, another record does.
-/
def ringAmend (s : State) (size : Nat) (g : Ring) (old new : Rec) : Ring :=
  if g.recs.any (sameMiss old) then
    { g with recs := g.recs.map (fun r => if sameMiss old r then
      { r with severity := new.severity, flags := r.flags ||| 1, seq := new.seq, queue := new.queue, psn := new.psn } else r) }
  else ringPut s size g new

/-- R324: the same in the device ring and in the tenant's. Log entry 36 (DEDUCED). -/
def State.uncorrected (s : State) (old new : Rec) : State :=
  let s1 := s.modErr (fun b => { b with ring := ringAmend s Config.deviceRing b.ring old { new with flags := new.flags ||| 4 } })
  if new.vi = 0 then s1
  else s1.modVi new.vi (fun x =>
    { x with ring := ringAmend s Config.tenantRing x.ring (tenantView x.part old) (tenantView x.part new) })

/-- R6, R331: the thatch die of a physical yelm. -/
def dieOfYelm (y : Nat) : Nat := y / 64

/-! ### Ports and sending (R233, R239, R252, R254, R256) -/

/-- R233: whether a logical port exists in the mode in force. -/
def State.portExists (s : State) (lp : Nat) : Bool :=
  decide (lp < 8) && decide (lp % 4 < 2 ^ lget s.net.portMode (lp / 4) 0)

/-- The existing logical ports of a VI's PORTS. -/
def State.portsOf (s : State) (a : AddrRec) : List Nat :=
  (List.range 8).filter (fun lp => bitOf a.ports lp && s.portExists lp)

/-- R252: the 802.1 priority of a queue class. -/
def State.prioOf (s : State) (cls : Nat) : Nat := bitsOf s.net.prioMap (4 * cls + 2) (4 * cls)

/-- R439: MACsec is on while the port holds a transmit association and at least one receive association. -/
def MacSec.on (m : MacSec) : Bool := m.tx.isSome && m.rx.any (fun c => !c.2.isEmpty)

/-- R441: packet numbers are reserved ahead in steps of 2^24. -/
def pnStep : Nat := 2 ^ 24

/-- R399, R402, R427, R453: the device takes requests: the main domains run, it is in Run or Trim, the firmware runs, and no
reset of the ridge or the device is in progress. -/
def State.serving (s : State) : Bool :=
  decide (s.pwr.state ≤ 1) && s.pins.mainUp && s.pins.vddAon && !s.sec.romLoader &&
    !s.err.resets.any (fun r => decide (4 ≤ r.domain))

/-- R256, R441: the packet number a transmitted frame takes, if MACsec is on; an exhausted channel sends nothing. -/
def State.macTx (s : State) (lp : Nat) : Option (State × Option Nat) :=
  match s.sec.ms[lp]? with
  | none => some (s, none)
  | some m =>
    match (if m.on then m.tx else none) with
    | none => some (s, none)
    | some a =>
      if a.pn ≥ 2 ^ 64 - 1 then none
      else
        let pn := a.pn + 1
        let m' := { m with tx := some { a with pn := pn, stored := if a.stored ≤ pn then a.stored + pnStep else a.stored },
                           alert := m.alert || decide (pn > 2 ^ 63),
                           exhausted := m.exhausted || decide (pn ≥ 2 ^ 64 - 1) }
        some (s.modSec (fun b => { b with ms := b.ms.set lp m' }), some a.pn)

/-- The VI whose addresses a frame carries; PTP over UDP uses VI 0's (R299). -/
def Out.vi : Out → Nat
  | .frame _ _ _ o => o.vi
  | .packet v _ _ _ | .rdma v _ _ | .resolve v _ | .answer v _ _ | .nak v _ | .cnp v _ | .pair v _ _ => v
  | .pfc _ _ _ | .sideband _ | .ptp _ _ _ => 0

/-- R244: RoCEv2 traffic. -/
def Out.isRoce : Out → Bool
  | .rdma _ _ _ | .nak _ _ | .cnp _ _ | .pair _ _ _ => true
  | .frame _ _ _ _ | .packet _ _ _ _ | .resolve _ _ | .answer _ _ _ | .pfc _ _ _ | .sideband _ | .ptp _ _ _ => false

/-- Whether a frame has an IP header: ARP, Layer 2 PTP and MAC control frames have none (R239, R254, R299). -/
def Out.isIp : Out → Bool
  | .frame _ _ _ o => o.isIp
  | .packet _ _ _ _ | .rdma _ _ _ | .nak _ _ | .cnp _ _ | .pair _ _ _ => true
  | .resolve _ a => (unmap4 a).isNone
  | .answer _ _ (.resolveRequest a) => (unmap4 a).isNone
  | .answer _ _ _ => true
  | .pfc _ _ _ | .sideband _ => false
  | .ptp _ tr _ => tr != 0

/-- R252: DSCP_OUT of a priority. -/
def Net.dscpOut (n : Net) (prio : Nat) : Nat :=
  if prio < 4 then bitsOf n.dscpLo (8 * prio + 5) (8 * prio) else bitsOf n.dscpHi (8 * (prio - 4) + 5) (8 * (prio - 4))

/-- R252, R255: what a frame carries: the PCP of its priority when its VI is tagged, DSCP_OUT of it in an IP header, ECT(0) on
RoCEv2 packets and Not-ECT on the others. Layer 2 PTP frames are untagged. Log entry 104 (DESIGN CHOICE). -/
def State.marks (s : State) (prio : Nat) (o : Out) (pn : Option Nat) : Marks :=
  let vlan := ((s.vi? o.vi).map (fun x => x.addr.vlan)).getD 0
  { tag := if vlan = 0 then none
      else match o with
        | .ptp _ 0 _ => none
        | _ => some (vlan, prio)
    dscp := if o.isIp then some (s.net.dscpOut prio) else none
    ecn := if o.isIp then some (if o.isRoce then 2 else 0) else none, pn := pn }

/-- Hand a frame to a logical port at a priority: a discarding priority drops it, a paused one holds it (R254), MACsec
numbers it (R256). Log entry 99 (DESIGN CHOICE). -/
def State.xmit (s : State) (lp prio : Nat) (o : Out) : State :=
  match s.net.paused.find? (fun e => e.1 == lp && e.2.1 == prio) with
  | some (_, _, _, true) => s
  | some (_, _, _, false) => s.modNet (fun n => { n with blocked := n.blocked ++ [(lp, prio, o)] })
  | none =>
    match s.macTx lp with
    | none => s
    | some (s', pn) => { s' with outbox := s'.outbox ++ [.frame lp prio (s.marks prio o pn) o] }

/-- R239: the lowest port of a VI on which a neighbour last answered, while its entry lives. -/
def State.neighbourPort (s : State) (a : AddrRec) (hop : BitVec 128) : Option Nat :=
  (s.portsOf a).find? (fun lp => s.net.neighbours.any (fun e =>
    e.1 == a.vlan && e.2.1 == hop && e.2.2.1 == lp && decide (s.now < e.2.2.2 + Config.neighbourLifeNs)))

/-- R239: a frame of a VI on its way to an address: without a gateway it is dropped; resolved, it leaves, on the port of its
connection where it has one; unresolved, it waits for the resolution it starts on every port of the VI. Log entry 8 (DESIGN
CHOICE), 104 (DESIGN CHOICE). -/
def State.route (s : State) (v : Nat) (dst : BitVec 128) (port : Option Nat) (prio : Nat) (o : Out) : State :=
  match s.vi? v with
  | none => s
  | some x =>
    match nextHop x.addr dst with
    | none => s
    | some hop =>
      match s.neighbourPort x.addr hop with
      | some lp => s.xmit (port.getD lp) prio o
      | none =>
        (s.portsOf x.addr).foldl (fun s lp => s.xmit lp 0 (.resolve v hop))
          (s.modNet (fun n => { n with waiting := n.waiting ++ [(v, hop, port, prio, o)] }))

/-- R239: send a Sloson packet of a VI to an address. Log entry 8 (DESIGN CHOICE). -/
def State.send (s : State) (v : Nat) (dst : BitVec 128) (udp prio : Nat) (bytes : List Byte) : State :=
  match (s.vi? v).bind (fun x => nextHop x.addr dst) with
  | none => s
  | some _ =>
    (s.modVi v (fun x => { x with ctr := { x.ctr with tx := bump x.ctr.tx } })).route v dst none prio (.packet v dst udp bytes)

/-- R239, R252: a frame of a connection, to its host, on its port and at its priority. -/
def State.rcSend (s : State) (v : Nat) (c : Conn) (o : Out) : State := s.route v c.hostIp (some c.lport) c.prio o

/-! ### What a port does with a frame it receives (R234, R235, R252, R254, R256) -/

/-- R235: the destinations a port accepts. -/
def State.macAccepted (s : State) (lp : Nat) (d : MacDst) : Bool :=
  match d with
  | .own => true
  | .broadcast => true
  | .solicited a => s.vis.any (fun e => bitOf e.2.addr.ports lp && e.2.addr.ipv6.toNat % 2 ^ 24 == a.toNat % 2 ^ 24)
  | .pfcGroup => true
  | .other => false

/-- R256, R440: whether a received frame passes MACsec on its port: validation and the replay window. -/
def secAccepted (m : MacSec) (t : SecTag) : Bool :=
  if !m.on then true
  else match t with
    | .none => false
    | .tagged ch an pn valid =>
      valid && (match (tgetD m.rx ch []).find? (fun a => a.an == an) with
        | none => false
        | some a => decide (a.pn ≤ pn + m.window))

/-- R440: an accepted packet number moves the window. -/
def secAdvance (m : MacSec) (t : SecTag) : MacSec :=
  match t with
  | .none => m
  | .tagged ch an pn _ =>
    { m with rx := tmod m.rx ch (fun as => as.map (fun a => if a.an = an ∧ a.pn ≤ pn then
      { a with pn := pn + 1, stored := a.stored + (pn + 1 - a.stored) / pnStep * pnStep } else a)) }

/-- R252: the priority a port gives to a received frame: by PCP, where an untagged frame takes 0, or by the DSCP of its IP header,
in a mapping the spec does not give (a free value). Log entry 104 (DESIGN CHOICE). -/
def State.rxPrio (s : State) (lp : Nat) (r : RxMeta) : Nat :=
  if bitOf s.net.trust lp then (Config.dscpPrio r.dscp).val else r.pcp.getD 0 % 8

/-- R254: PFC XOFF of a priority whose headroom is less than whole, and XON when it is free again.
Log entry 109 (DESIGN CHOICE). -/
def State.pfcOccupancy (s : State) (lp prio headroom : Nat) : State :=
  if !bitOf s.net.pfcEn prio then s
  else
    let sent := s.net.xoffSent.contains (lp, prio)
    if headroom < Config.headroomBytes ∧ !sent then
      { s.modNet (fun n => { n with xoffSent := (lp, prio) :: n.xoffSent }) with outbox := s.outbox ++ [Out.pfc lp prio true] }
    else if Config.headroomBytes ≤ headroom ∧ sent then
      { s.modNet (fun n => { n with xoffSent := n.xoffSent.erase (lp, prio) }) with outbox := s.outbox ++ [Out.pfc lp prio false] }
    else s

/-- R254: what a received frame leaves of the headroom of each priority of its port; its own priority's first. -/
def State.takeHeadroom (s : State) (lp : Nat) (r : RxMeta) : State :=
  (s.rxPrio lp r :: List.range 8).foldl (fun s pr => s.pfcOccupancy lp pr (r.headroom.getD pr Config.headroomBytes)) s

/-- R234, R235, R256: the checks of a port before steering, and the state they leave; a port that the mode lacks has none, and
steering finds no VI there (R233). -/
def State.rxPort (s : State) (lp : Nat) (r : RxMeta) : Bool × State :=
  if r.length > s.net.maxFrame then (false, s.modNet (fun n => { n with dropped := bump n.dropped }))
  else if !s.portExists lp then (true, s)
  else if !s.macAccepted lp r.dst then (false, s)
  else
    let m := lget s.sec.ms lp .off
    if !secAccepted m r.sec then (false, s.modSec (fun b => { b with ms := b.ms.set lp { m with drops := bump m.drops } }))
    else (true, (if m.on then s.modSec (fun b => { b with ms := b.ms.set lp (secAdvance m r.sec) }) else s).takeHeadroom lp r)

/-- The same, while the device serves its ports at all. -/
def State.rxGate (s : State) (lp : Nat) (r : RxMeta) : Bool × State := if s.serving then s.rxPort lp r else (false, s)

/-- How a request comes in: a datagram passes its port (R234, R256); a pulled packet came by RDMA (R249), and a packet of the hold
buffer has passed its port when it was held (R399). -/
def State.enter (s : State) (p : Packet) : Bool × State :=
  if p.pull.isSome || s.mon.held.any (fun f => f.sloson == some p) then (s.serving, s) else s.rxGate p.lport p.rx

/-- Where a reply to a request goes: the queue's completion destination, or the packet's source (R247). -/
def replyTo (q : Option Queue) (p : Packet) : BitVec 128 × Nat :=
  match q with
  | none => (p.srcIp, p.srcPort)
  | some q => (if q.cplAddr = 0 then p.srcIp else q.cplAddr, if q.cplPort = 0 then p.srcPort else q.cplPort)

/-- R262: flag bits of a reply. -/
def fReply : Nat := 1
def fFinal : Nat := 2
def fNotice : Nat := 4
def fReplayRun : Nat := 16

/-- R266: the answer to a failed check: FINAL, the queue's current tag, never sent again. -/
def State.answer (s : State) (v : Nat) (p : Packet) (flags status : Nat) (pay : List Byte) : State :=
  let q := (s.vi? v).bind (fun x => tget x.queues (pQueue p))
  let gen := (q.map Queue.gen).getD 0
  let cls := (q.map Queue.cls).getD 0
  let dest := replyTo q p
  s.send v dest.1 dest.2 (s.prioOf cls) (replyBytes flags v (pQueue p) (pPsn p) (pOpcode p) gen s.now status pay)

/-- R273: where a notice goes: the completion destination of queue 0, or, where that is the source of each command, the source of
the last request on it. Log entry 105 (DESIGN CHOICE). -/
def Queue.noticeTo (q : Queue) : Option (BitVec 128 × Nat) :=
  match q.source with
  | none => if q.cplAddr = 0 then none else some (q.cplAddr, q.cplPort)
  | some src => some (if q.cplAddr = 0 then src.1 else q.cplAddr, if q.cplPort = 0 then src.2 else q.cplPort)

/-- R273: a notice on queue 0 of a VI, with the device's own PSN for notices. Log entry 105 (DESIGN CHOICE). -/
def State.notice (s : State) (v op : Nat) (pay : List Byte) : State :=
  match s.vi? v with
  | none => s
  | some x =>
    match tget x.queues 0 with
    | none => s
    | some q =>
      let s := s.modVi v (fun x => { x with notice := (x.notice + 1) % 2 ^ 32 })
      let bytes := replyBytes (fReply + fNotice) v 0 x.notice op q.gen s.now stThrottled pay
      match q.noticeTo with
      | none => s
      | some dest => s.send v dest.1 dest.2 (s.prioOf q.cls) bytes

/-! ### RDMA (R244, R245) -/

/-- A tag that no VI ever has: a transfer that carries it is ignored when it ends. -/
def noTag : Nat := 0x10000

/-- R244: READs of a connection that are on the wire. -/
def Conn.readsOut (c : Conn) : Nat := (c.out.filter (fun t => t.sent && !t.write)).length

/-- The oldest request on the wire: the one a response answers. -/
def Conn.first (c : Conn) : Option Xfer := c.out.find? Xfer.sent

/-- Whether a transfer can be started: the connection exists and is not in error (R245). Log entry 70 (DEDUCED). -/
def State.connOk (s : State) (v rc : Nat) : Bool := (s.vi? v).any (fun x => (tget x.conns rc).any (fun c => !c.error))

/-- R245: from when a connection's transfers fail. -/
def Conn.failing (c : Conn) (now : Nat) : Conn :=
  { c with failSince := match c.failSince with
      | some f => some f
      | none => some now }

/-- R244, R245: a request enters a connection: it goes out at once, or, a READ beyond 16 outstanding, waits. On a connection in
error nothing is sent: a fetch, the read of a record or an image and a pair's check go on failing until their transfer timeout
(R145, R346); who starts another transfer there tests `connOk` and lets it fail. Log entry 70 (DEDUCED). -/
def State.issue (s : State) (v rc : Nat) (t : Xfer) : State :=
  match (s.vi? v).bind (fun x => tget x.conns rc) with
  | none => s
  | some c =>
    if c.error then
      (match t.purpose with
       | .fetch _ _ | .record _ _ | .image | .pairCheck =>
         s.modVi v (fun x => x.modConn rc (fun c => { c with out := c.out ++ [t] }.failing s.now))
       | _ => s)
    else
      let t := { t with sent := t.write || decide (c.readsOut < Config.readsPerRc) }
      let s := s.modVi v (fun x => x.modConn rc (fun c => { c with out := c.out ++ [t] }))
      if t.sent then s.rcSend v c (.rdma v rc t) else s

/-- R245: a request record with the VI's and the queue's tag of its time. -/
def State.xferOf (s : State) (v q : Nat) (purpose : Purpose) (write : Bool) (addr len : Nat) (data : List Byte) (imm : Option Nat) : Xfer :=
  ⟨purpose, write, addr, len, tgetD s.store.viTags v 0,
    (((s.vi? v).bind (fun x => tget x.queues q)).map Queue.gen).getD 0, data, imm, false⟩

/-- R245: issue an RDMA request on a connection. Log entry 70 (DEDUCED). -/
def State.rdma (s : State) (v rc : Nat) (purpose : Purpose) (write : Bool) (addr len : Nat) (q : Nat) (data : List Byte) :
    State := s.issue v rc (s.xferOf v q purpose write addr len data none)

/-- R244: the oldest READ that waits goes out when there is room for it. -/
def State.pumpReads (s : State) (v rc : Nat) : State :=
  match (s.vi? v).bind (fun x => tget x.conns rc) with
  | none => s
  | some c =>
    if c.error ∨ Config.readsPerRc ≤ c.readsOut then s
    else match c.out.find? (fun t => !t.sent) with
      | none => s
      | some t =>
        (s.modVi v (fun x => x.modConn rc (fun c => { c with out := c.out.erase t ++ [{ t with sent := true }] }))).rcSend v c
          (.rdma v rc { t with sent := true })

/-! ### The stream of a pair (R354–R360) -/

/-- R364: the pair connection is up. -/
def State.pairUp (s : State) (x : Vi) : Bool :=
  match tget x.conns x.pair.rc with
  | none => false
  | some c => !c.error && bitOf s.net.linkUp c.lport && s.portExists c.lport

def Vi.modPair (x : Vi) (f : Pair → Pair) : Vi := { x with pair := f x.pair }
def State.modPair (s : State) (v : Nat) (f : Pair → Pair) : State := s.modVi v (fun x => x.modPair f)

/-- A message on a pair connection, where it is up. -/
def State.pairSend (s : State) (v rc : Nat) (m : PairMsg) : State :=
  match s.vi? v with
  | none => s
  | some x =>
    match tget x.conns rc with
    | none => s
    | some c => if c.error then s else s.rcSend v c (.pair v rc m)

/-- R354, R356: a record of the home's stream: numbered, kept until it is acknowledged, and sent. Log entry 66 (DEDUCED). -/
def State.emit (s : State) (v : Nat) (seq : Option Nat) (last : Bool) (b : MirrorBody) : State :=
  match s.vi? v with
  | none => s
  | some x =>
    if x.pair.role = 1 ∧ x.pair.sending then
      let r : PairRec := ⟨s.now, x.pair.nextSeqno, seq.getD 0xFFFFFFFF, last, b⟩
      (s.modPair v (fun p => { p with nextSeqno := p.nextSeqno + 1, unacked := p.unacked ++ [r], lastSent := s.now })).pairSend v
        x.pair.rc (.record r)
    else s

/-! ### Steering and the checks of a request (R238, R264–R269) -/

/-- R238 step 1: the VI a frame selects. -/
def State.steer (s : State) (lport vlan : Nat) (dst : BitVec 128) : Option Nat :=
  (s.vis.find? (fun e => e.2.addr.vlan == vlan && bitOf e.2.addr.ports lport && s.portExists lport &&
    isAddrOf e.2.addr dst)).map Prod.fst

/-- R267: where a PSN lies. -/
inductive PsnPlace where
  | fresh | duplicate | behind
deriving DecidableEq, Repr

def psnPlace (w : Window) (psn : Nat) : PsnPlace :=
  match w.h with
  | none => .fresh
  | some h =>
    let d := (psn + 2 ^ 32 - h) % 2 ^ 32
    if 1 ≤ d ∧ d ≤ 2 ^ 31 - 1 then .fresh
    else if d = 0 ∨ d ≥ 2 ^ 32 - 65535 then (if w.accepted.contains psn then .duplicate else .fresh)
    else .behind

/-- R267: mark a PSN as accepted; H advances only ahead, and the window keeps 65,536 numbers. -/
def psnMark (w : Window) (psn : Nat) : Window :=
  match w.h with
  | none => ⟨some psn, [psn]⟩
  | some h =>
    let d := (psn + 2 ^ 32 - h) % 2 ^ 32
    if 1 ≤ d ∧ d ≤ 2 ^ 31 - 1 then
      ⟨some psn, psn :: w.accepted.filter (fun a => decide ((psn + 2 ^ 32 - a) % 2 ^ 32 ≤ 65535))⟩
    else ⟨some h, psn :: w.accepted⟩

/-- R309: H₀ of a command accepted at a stamp: the queue's H just before the first command accepted at that stamp (where
nothing has been accepted, that first command's own PSN). Log entry 91 (DEDUCED). -/
def Queue.tieBase (q : Queue) (stamp psn : Nat) : Nat :=
  match q.tie with
  | some (t, h) => if t = stamp then h else q.win.h.getD psn
  | none => q.win.h.getD psn

/-- R309: the signed distance of a PSN from H₀. Log entry 91 (DEDUCED). -/
def psnDist (h psn : Nat) : Int := signed 32 ((psn + 2 ^ 32 - h) % 2 ^ 32)

/-- What the checks of R266 decide of a request. -/
inductive Verdict where
  /-- Dropped without reply, counted in RX_OTHER, RX_NO_VI, RX_VI_MISMATCH, or not at all. -/
  | dropOther | dropNoVi | dropMismatch | drop
  /-- Answered with a status. -/
  | reply (vi status : Nat)
  /-- R267: a duplicate of an entry of this queue. -/
  | duplicate (vi : Nat)
  /-- R249: not a packet that was fetched. -/
  | ignore
  /-- Checks 1 to 13 passed. -/
  | pass (vi : Nat)
deriving DecidableEq, Repr

/-- R361, R366, R370: a VI that is fenced, by the lease or as deposed. -/
def Pair.fenced (p : Pair) : Bool := p.state == 3 || p.state == 5

/-- R351: what a mirror does not do for the host. -/
def mirrorRefuses (op : Nat) : Bool := [0x04, 0x05, 0x06].contains (op / 256) || [0x0801, 0x0702, 0x0103].contains op

/-- R266 check 10: opcodes a fenced VI still takes. -/
def fencedOk (op : Nat) : Bool := op / 256 == 0x0B || [0x0903, 0x0105, 0x0E01, 0x0A03].contains op

/-- R266 check 9: what VI 0 may still send out of service. -/
def serviceOk (vi op : Nat) : Bool := vi == 0 && [0x0E01, 0x0A03, 0x0A04].contains op

/-- R268: the two opcodes outside R267 and the journal. -/
def unjournaled (op : Nat) : Bool := op == 0x0105 || op == 0x0903

/-- R266 checks 3 to 13, on the VI the request belongs to; a push packet above 8,192 bytes fails check 13 (R265). Log entry 37
(DEDUCED), 103 (DESIGN CHOICE). -/
def State.checkOn (s : State) (v : Nat) (x : Vi) (p : Packet) : Verdict :=
  let op := pOpcode p
  if bitOf (pFlags p) 0 then .dropOther
  else if pVersion p > 1 then .reply v stVersion
  else
    match tget x.queues (pQueue p) with
    | none => .reply v stNoObject
    | some q =>
      if p.pull.isNone && pLength p != p.bytes.length - 32 then .reply v stBadLength
      else if pGen p ≠ q.gen then (if unjournaled op then .drop else .reply v stStale)
      else if !unjournaled op && psnPlace q.win (pPsn p) == .duplicate then .duplicate v
      else if !unjournaled op && psnPlace q.win (pPsn p) == .behind then .drop
      else if s.err.outOfService && !serviceOk v op then .reply v stOutOfService
      else if x.pair.fenced && !fencedOk op then .reply v stFenced
      else if !opKnown op then .reply v stUnknownOpcode
      else if !opAllowed op v || (x.pair.role == 2 && mirrorRefuses op) then .reply v stNotPermitted
      else if (x.closing.isSome || q.destroying) && op != 0x0E01 then .reply v stNotPermitted
      else if !layoutOk op (pPay p) || (p.pull.isNone && decide (Config.pushMax < p.bytes.length)) then .reply v stBadLength
      else .pass v

/-- R238, R249, R266: the checks in their order. Log entry 10 (DEDUCED). -/
def State.check (s : State) (p : Packet) : Verdict :=
  match p.pull with
  | none =>
    match s.steer p.lport p.vlan p.dstIp with
    | none => .dropNoVi
    | some v =>
      if p.dstPort ≠ s.net.udp then .dropOther
      else if !headerOk p then .dropOther
      else if pVi p ≠ v then .dropMismatch
      else
        match s.vi? v with
        | none => .dropNoVi
        | some x => s.checkOn v x p
  | some (v, q) =>
    match s.vi? v with
    | none => .ignore
    | some x =>
      match tget x.queues q with
      | none => .ignore
      | some qu =>
        if !qu.tickets.contains ⟨p.ts, p.lport, p.bytes⟩ then .ignore
        else if !headerOk p then .dropOther
        else if pVi p ≠ v ∨ pQueue p ≠ q then .ignore
        else s.checkOn v x p

/-- R249: a fetched packet is taken as a command once. Log entry 10 (DEDUCED). -/
def State.takeTicket (s : State) (p : Packet) : State :=
  match p.pull with
  | none => s
  | some (v, q) => s.modVi v (fun x => x.modQueue q (fun qu => { qu with tickets := qu.tickets.erase ⟨p.ts, p.lport, p.bytes⟩ }))

/-- R89, R260: a counter of the network block. -/
def State.countOther (s : State) : State := s.modNet (fun n => { n with rxOther := bump n.rxOther })

/-! ### The journal (R310–R313) -/

/-- R312: bytes between head and tail. -/
def Journal.used (j : Journal) : Nat := sumNat (j.entries.map (fun e => e.2.size))

/-- R312: space is reclaimed from the head as far as the first entry that is not retired. -/
def reclaim : Tbl Entry → Tbl Entry
  | [] => []
  | (k, e) :: t => if e.state = .retired then reclaim t else (k, e) :: t

def Journal.reclaim (j : Journal) : Journal := { j with entries := Machine.reclaim j.entries }

/-- R312: whether a request fits. -/
def Vi.fits (x : Vi) (size : Nat) : Bool := decide (x.jrnl.used + size ≤ x.part.jrnl * 1048576)

/-- R311: the entry of an accepted request. -/
def entryOf (p : Packet) (q : Queue) : Entry :=
  { req := p, stamp := p.ts, queue := pQueue p, psn := pPsn p, opcode := pOpcode p, lport := p.lport, accGen := q.gen,
    dist := psnDist (q.tieBase p.ts (pPsn p)) (pPsn p), size := entrySize (pOpcode p) p, state := .accepted,
    twoPhase := opTwoPhase (pOpcode p), acceptedSent := false, cplStamp := 0, retx := 0, replays := 0, status := 0,
    payload := [], replayRun := false, sent := none, series := 0, beats := 0, ended := 0, ranOut := false, admitted := false }

/-- R311: the header of an entry. -/
def stateCode : EState → Nat
  | .accepted => 1 | .running => 2 | .recorded => 3 | .sent => 4 | .retired => 5

def entryHeader (e : Entry) : List Byte :=
  let h := le 2 0x4A45 ++ le 1 (stateCode e.state) ++ le 1 (b2n e.twoPhase + 2 * b2n e.acceptedSent) ++ le 4 e.size ++
    le 8 e.stamp ++ le 8 e.cplStamp ++ le 2 e.queue ++ le 2 e.opcode ++ le 4 e.psn ++ le 1 e.lport ++ le 1 e.retx ++ le 2 e.accGen ++
    le 4 e.req.bytes.length ++ le 4 (if e.state = .accepted ∨ e.state = .running then 0 else 32 + e.payload.length) ++
    le 4 e.replays ++ zeros 12
  h ++ le 4 (crc32c h)

/-- R267, R309: the queue after a request has been accepted. Log entry 91 (DEDUCED). -/
def Queue.mark (q : Queue) (p : Packet) : Queue :=
  { q with win := psnMark q.win (pPsn p), tie := some (p.ts, q.tieBase p.ts (pPsn p)) }

/-- R310: journal a request at its command stamp and mark its PSN; answers the entry's place. -/
def State.journal (s : State) (v : Nat) (x : Vi) (p : Packet) (q : Queue) : State × Nat :=
  let id := x.jrnl.next
  let x' : Vi :=
    { x with
      jrnl := { x.jrnl with entries := tset x.jrnl.entries id (entryOf p q), next := id + 1 }
      queues := tmod x.queues (pQueue p) (fun q => q.mark p)
      ctr := { x.ctr with rx := bump x.ctr.rx } }
  ((s.setVi v x').emit v none true (.entry (entryHeader (entryOf p q)) p), id)

/-- R313: retire an entry. -/
def State.retire (s : State) (v e : Nat) : State :=
  let t := s.modVi v (fun x => (x.modEntry e (fun n => { n with state := .retired })).modJrnl Journal.reclaim)
  match s.entry? v e with
  | none => t
  | some n => if n.state = .retired then t else t.emit v none true (.retireOne n.queue n.psn)

/-- R271, R310: record the outcome of a command. A command that is already recorded, sent or retired keeps it. -/
def State.outcome (s : State) (v e status : Nat) (pay : List Byte) : State :=
  match s.entry? v e with
  | none => s
  | some n =>
    if n.state = .accepted ∨ n.state = .running then
      (s.modEntry v e (fun n => { n with state := .recorded, status := status, payload := pay })).emit v none true
        (.outcome n.queue n.psn 3 status pay)
    else s

/-- A command as its effect sees it. -/
structure Cmd where
  vi : Nat
  entry : Nat
  queue : Nat
  psn : Nat
  ts : Nat
  lport : Nat
  flags : Nat
  opcode : Nat
  pay : List Byte
deriving DecidableEq, Repr

/-- The command that an entry holds. -/
def cmdOf (v id : Nat) (e : Entry) : Cmd :=
  ⟨v, id, e.queue, e.psn, e.stamp, e.lport, pFlags e.req, e.opcode, pPay e.req⟩

/-- What an effect answers: its outcome now, or later. -/
abbrev Effect := State → Cmd → State × Option (Nat × List Byte)

/-- A static check (R266 check 14): the status and the reply payload of a rejection. -/
abbrev StaticCheck := State → Cmd → Option (Nat × List Byte)

def noStatic : StaticCheck := fun _ _ => none

/-- Run an effect and record its outcome where it has one (R271). -/
def State.runEffect (s : State) (eff : Effect) (c : Cmd) : State :=
  match eff s c with
  | (s', none) => s'
  | (s', some (st, pay)) => s'.outcome c.vi c.entry st pay

/-- R359: a home holds the replies of journaled commands while it is mirrored or fenced. -/
def Pair.holding (p : Pair) : Bool := p.role == 1 && (p.state == 2 || p.state == 3)

/-- R271: ACCEPTED of a two-phase command. -/
def State.accepts (s : State) (v e : Nat) (p : Packet) : State :=
  (s.modEntry v e (fun n => { n with acceptedSent := true })).answer v p fReply stAccepted []

/-- R271, R359: ACCEPTED is sent at once, or held until the peer has acknowledged the entry. -/
def State.sendAccepted (s : State) (v e : Nat) (p : Packet) : State :=
  if ((s.vi? v).map (fun x => x.pair.holding)) = some true then s else s.accepts v e p

/-- R273, R365: a request's source is noted on its queue; the first request on a queue that a takeover made supplies the address
to which its completions go. -/
def State.noteRequest (s : State) (v : Nat) (p : Packet) : State :=
  s.modVi v (fun x =>
    let wait := ((tget x.queues (pQueue p)).map Queue.awaitAddr) = some true
    { x with
      queues := tmod x.queues (pQueue p) (fun q =>
        { q with awaitAddr := false, source := if p.pull.isSome then q.source else some (p.srcIp, p.srcPort) })
      jrnl := if wait then
          { x.jrnl with entries := tmapv x.jrnl.entries (fun _ e => if e.queue = pQueue p then
            { e with req := { e.req with srcIp := p.srcIp, srcPort := p.srcPort } } else e) }
        else x.jrnl })

/-- R267: a duplicate whose completion has been sent gets it again with an identical header. -/
def State.repeatSent (s : State) (v : Nat) (p : Packet) : State :=
  match s.vi? v with
  | none => s
  | some x =>
    match x.jrnl.entries.find? (fun e => e.2.queue == pQueue p && e.2.psn == pPsn p && e.2.state == .sent) with
    | none => s
    | some (id, e) =>
      match e.sent, tget x.queues e.queue with
      | some b, some q =>
        let dest := replyTo (some q) e.req
        (s.modEntry v id (fun n => { n with retx := min (n.retx + 1) 255 })).send v dest.1 dest.2 (s.prioOf q.cls) b
      | _, _ => s

/-- The command of a request that is not journaled (static checks, Q_DOORBELL, JRNL_ACK). -/
def cmdOfPacket (v : Nat) (p : Packet) : Cmd :=
  ⟨v, 0, pQueue p, pPsn p, p.ts, p.lport, pFlags p, pOpcode p, pPay p⟩

/-- R397: a host command other than a REG_READ keeps the device from going back to sleep after a maintenance wake. -/
def State.noteHost (s : State) (op : Nat) : State :=
  if op = 0x0E01 then s else s.modPwr (fun b => { b with back := none })

/-- R266: an arriving request: the checks, check 14 and check 15, then journal, ACCEPTED, and the command's effect. -/
def State.take (s0 : State) (p : Packet) (static : StaticCheck) (eff : Effect) : State :=
  let g := (s0.upto p.ts).enter p
  let s := g.2
  if !g.1 then s
  else match s.check p with
  | .ignore => s
  | .drop => s.takeTicket p
  | .dropOther => (s.takeTicket p).countOther
  | .dropNoVi => s.modNet (fun n => { n with rxNoVi := bump n.rxNoVi })
  | .dropMismatch => s.modNet (fun n => { n with rxMismatch := bump n.rxMismatch })
  | .reply v st => (s.takeTicket p).answer v p (fReply + fFinal) st []
  | .duplicate v => (s.takeTicket p).repeatSent v p
  | .pass v =>
    let s := (s.takeTicket p).noteRequest v p
    match static s (cmdOfPacket v p) with
    | some (st, pay) => s.answer v p (fReply + fFinal) st pay
    | none =>
      match s.vi? v with
      | none => s
      | some x =>
        match tget x.queues (pQueue p) with
        | none => s
        | some q =>
          if !x.fits (entrySize (pOpcode p) p) then
            (s.modVi v (fun x => x.modJrnl (fun j => { j with fullCount := bump j.fullCount }))).answer v p
              (fReply + fFinal) stJournalFull []
          else
            let r := (s.noteHost (pOpcode p)).journal v x p q
            let s := if opTwoPhase (pOpcode p) then r.1.sendAccepted v r.2 p else r.1
            s.runEffect eff { cmdOfPacket v p with entry := r.2 }

/-- A request that is acted on at once and never journaled (R266, R268). -/
def State.takeDirect (s0 : State) (p : Packet) (eff : State → Cmd → State) : State :=
  let g := (s0.upto p.ts).enter p
  let s := g.2
  if !g.1 then s
  else match s.check p with
  | .ignore => s
  | .drop => s.takeTicket p
  | .dropOther => (s.takeTicket p).countOther
  | .dropNoVi => s.modNet (fun n => { n with rxNoVi := bump n.rxNoVi })
  | .dropMismatch => s.modNet (fun n => { n with rxMismatch := bump n.rxMismatch })
  | .reply v st => (s.takeTicket p).answer v p (fReply + fFinal) st []
  | .duplicate v => (s.takeTicket p).repeatSent v p
  | .pass v =>
    eff ((((s.noteHost (pOpcode p)).takeTicket p).noteRequest v p).modVi v (fun x => { x with ctr := { x.ctr with rx := bump x.ctr.rx } })) (cmdOfPacket v p)

/-- A request under the opcode that its command's row names; under another opcode it is not that command (log entry 1). -/
def State.takeAs (s : State) (op : Nat) (p : Packet) (static : StaticCheck) (eff : Effect) : State :=
  if pOpcode p = op then s.take p static eff else s.upto p.ts

end Sys2Proof.Machine
end

