-- ==== Sys2Proof/Machine/Hbm.lean ====
section
/-! DEFINITION. Memory of the key-value tiers: bytes of HBM blocks in one canonical form (R131, R158; an unlisted byte
reads 0, log entry 9), the buddy allocators (R132), and the geometry of pages (R131, R133). -/
namespace Sys2Proof.Machine

/-! ### Bytes -/

/-- The byte at an address; an unlisted byte reads 0. -/
def memGet : List Host.Cell → Nat → Byte
  | [], _ => 0
  | (a, b) :: t, k => if k = a then b else memGet t k

/-- Write a byte, keeping the list sorted and free of zeros. -/
def memSet : List Host.Cell → Nat → Byte → List Host.Cell
  | [], k, v => if v = 0 then [] else [(k, v)]
  | (a, b) :: t, k, v =>
    if k = a then (if v = 0 then t else (k, v) :: t)
    else if k < a then (if v = 0 then (a, b) :: t else (k, v) :: (a, b) :: t)
    else (a, b) :: memSet t k v

/-- Write bytes from an address on. Log entry 9 (DESIGN CHOICE). -/
def memWrite (m : List Host.Cell) (a : Nat) : List Byte → List Host.Cell
  | [] => m
  | b :: bs => memWrite (memSet m a b) (a + 1) bs

/-- R158: zero a range. Log entry 9 (DESIGN CHOICE). -/
def memZero (m : List Host.Cell) (a n : Nat) : List Host.Cell := m.filter (fun c => decide (c.1 < a) || decide (a + n ≤ c.1))

/-- The bytes of a range. Log entry 9 (DESIGN CHOICE). -/
def memRead (m : List Host.Cell) (a n : Nat) : List Byte := (List.range n).map (fun i => memGet m (a + i))

/-- Strictly rising addresses, no zero listed: the canonical form. -/
def memWf : List Host.Cell → Bool
  | [] => true
  | [(_, b)] => b != 0
  | (a, b) :: (a', b') :: t => b != 0 && decide (a < a') && memWf ((a', b') :: t)

/-- Memory.wf of the block: the HBM bytes are in canonical form. -/
def Memory.wf (s : State) : Bool := memWf s.hbm

/-- Where a VI's T1 arenas lie among the model's HBM addresses (log entry 9). -/
def t1Base (v : Nat) : Nat := v * 2 ^ 39

/-! ### Buddy allocators (R132) -/

/-- Bytes of a block of order m. -/
def blockBytes (m : Nat) : Nat := 4096 * 2 ^ m

/-- The order of the smallest block at least n bytes large. -/
def blockOrder (n : Nat) : Nat := ((List.range 20).find? (fun m => decide (n ≤ blockBytes m))).getD 20

def blockLt (x y : Nat × Nat) : Bool := decide (x.1 < y.1) || (x.1 == y.1 && decide (x.2 < y.2))

/-- The smallest free block at least of order m, the lowest address among equals; what is left over stays free. -/
def Arena.take? (a : Arena) (m : Nat) : Option (Nat × Arena) :=
  match bestBy blockLt (a.free.filter (fun b => decide (m ≤ b.1))) with
  | none => none
  | some (k, off) =>
    let rest := (List.range (k - m)).map (fun i => (m + i, off + blockBytes (m + i)))
    some (off, { a with free := rest ++ a.free.filter (fun b => b != (k, off)) })

/-- The buddy of a block within its 64 MiB arena. -/
def buddyOf (m off : Nat) : Nat := if off / blockBytes m % 2 = 0 then off + blockBytes m else off - blockBytes m

/-- A freed block merges with its buddy whenever the buddy is also free. -/
def giveBlock (free : List (Nat × Nat)) (m off : Nat) : Nat → List (Nat × Nat)
  | 0 => (m, off) :: free
  | fuel + 1 =>
    if m < 14 ∧ free.contains (m, buddyOf m off) then
      giveBlock (free.filter (fun b => b != (m, buddyOf m off))) (m + 1) (min off (buddyOf m off)) fuel
    else (m, off) :: free

/-- A block beyond the end of a resized area is no longer part of it. -/
def Arena.give (a : Arena) (m off : Nat) : Arena :=
  if off + blockBytes m ≤ a.size then { a with free := giveBlock a.free m off 15 } else a

/-- Whether two blocks share a byte. -/
def blocksMeet (a b : Nat × Nat) : Bool := decide (a.2 < b.2 + blockBytes b.1) && decide (b.2 < a.2 + blockBytes a.1)

/-- The free blocks within a block of order m, of an area of a size of which some blocks are in use: whole where nothing is,
else those of its two halves. -/
def carve (size : Nat) (used : List (Nat × Nat)) : Nat → Nat → List (Nat × Nat)
  | m, off =>
    let used := used.filter (blocksMeet (m, off))
    if used = [] ∧ off + blockBytes m ≤ size then [(m, off)]
    else if size ≤ off ∨ used.any (fun b => decide (m ≤ b.1)) then []
    else match m with
      | 0 => []
      | k + 1 => carve size used k off ++ carve size used k (off + blockBytes k)

/-- R132: the allocator of an area, in 64 MiB arenas, of which some blocks are in use. Log entry 20 (DEDUCED). -/
def Arena.around (size : Nat) (used : List (Nat × Nat)) : Arena :=
  ⟨size, (List.range (ceilDiv size 67108864)).flatMap (fun i => carve size used 14 (i * 67108864))⟩

/-- Orders of the blocks that hold n bytes: whole 64 MiB blocks and one for the rest. Log entry 20 (DEDUCED). -/
def ordersFor (n : Nat) : List Nat :=
  List.replicate (n / 67108864) 14 ++ (if n % 67108864 = 0 then [] else [blockOrder (n % 67108864)])

/-- Blocks of given orders, or none. -/
def Arena.takeAll? (a : Arena) (orders : List Nat) : Option (List (Nat × Nat) × Arena) :=
  orders.foldl (fun acc m => acc.bind (fun (g : List (Nat × Nat) × Arena) =>
    (g.2.take? m).map (fun (o, b) => (g.1 ++ [(m, o)], b)))) (some ([], a))

/-- Free bytes of an arena area. -/
def Arena.freeBytes (a : Arena) : Nat := sumNat (a.free.map (fun b => blockBytes b.1))

/-- An element block and a scale block together, or neither. -/
def Arena.takePair? (a : Arena) (mE mS : Nat) : Option (BlockPair × Arena) :=
  match a.take? mE with
  | none => none
  | some (e, a1) =>
    match a1.take? mS with
    | none => none
    | some (c, a2) => some (⟨e, c⟩, a2)

def Arena.givePair (a : Arena) (mE mS : Nat) (b : BlockPair) : Arena := (a.give mE b.elem).give mS b.scale

/-- Sorted without repeats. -/
def distinct (xs : List Nat) : List Nat := (sortBy (fun a b => decide (a < b)) xs).eraseDups

/-! ### Geometry of pages -/

/-- R101: fields of a descriptor. -/
def dKind (d : Desc) : Nat := leAt d 0 1
def dFuse (d : Desc) : Bool := bitOf (leAt d 1 1) 0
def dLayer (d : Desc) : Nat := leAt d 2 2
def dSrc (d : Desc) : Nat := leAt d 4 1
def dSrc2 (d : Desc) : Nat := leAt d 5 1
def dDst (d : Desc) : Nat := leAt d 6 1
def dIn (d : Desc) : Nat := leAt d 8 4
def dOut (d : Desc) : Nat := leAt d 12 4

/-- A KV layer: KV_HEADS, HEAD_DIM, WINDOW, and its descriptor. -/
structure KvLayer where
  heads : Nat
  dim : Nat
  window : Nat
deriving DecidableEq, Repr

/-- R102: the ATTN descriptors of a program in the order of KV_LAYER. -/
def attnDescs (prog : List Desc) : List Desc :=
  sortBy (fun a b => decide (leAt a 22 2 < leAt b 22 2)) (prog.filter (fun d => dKind d == 4))

def kvLayers (prog : List Desc) : List KvLayer :=
  (attnDescs prog).map (fun d => ⟨leAt d 18 2, leAt d 20 2, leAt d 24 4⟩)

/-- The KV layers of the VI's image. -/
def Vi.layers (x : Vi) : List KvLayer :=
  match x.img.image with
  | none => []
  | some im => kvLayers im.program

/-- R131: bytes of an element block and of a scale block. -/
def elemBytes (l : KvLayer) (fmt pos : Nat) : Nat := if fmt = 0 then 2 * l.heads * pos * l.dim else l.heads * pos * l.dim
def scaleGroups (l : KvLayer) (fmt : Nat) : Nat := if fmt = 0 then 1 else ceilDiv l.dim 32
def scaleBytes (l : KvLayer) (fmt pos : Nat) : Nat := 2 * l.heads * pos * scaleGroups l fmt * 2

/-- R139: bytes of one position at one layer. -/
def posBytes (l : KvLayer) (fmt : Nat) : Nat := elemBytes l fmt 1 + scaleBytes l fmt 1

/-- R131: where row 2h + c of slot s lies in the element and the scale block. -/
def elemOfs (l : KvLayer) (fmt pos row slot : Nat) : Nat :=
  let i := (row * pos + slot) * l.dim
  if fmt = 0 then i else i / 2
def scaleOfs (l : KvLayer) (fmt pos row slot : Nat) : Nat := (row * pos + slot) * scaleGroups l fmt * 2

/-- R141 step 2: write one position's rows into the blocks of a page. -/
def writeRows (m : List Host.Cell) (base : Nat) (l : KvLayer) (fmt pos slot : Nat) (b : BlockPair) (r : KvRow) :
    List Host.Cell :=
  (List.range (2 * l.heads)).foldl (fun m row =>
    memWrite (memWrite m (base + b.elem + elemOfs l fmt pos row slot) (r.elems.getD row [])) (base + b.scale +
      scaleOfs l fmt pos row slot) (r.scales.getD row [])) m

/-- The rows of one slot of a page. -/
def readRows (m : List Host.Cell) (base : Nat) (l : KvLayer) (fmt pos slot : Nat) (b : BlockPair) : KvRow :=
  let eb := if fmt = 0 then l.dim else l.dim / 2
  { elems := (List.range (2 * l.heads)).map (fun row => memRead m (base + b.elem + elemOfs l fmt pos row slot) eb),
    scales := (List.range (2 * l.heads)).map (fun row =>
      memRead m (base + b.scale + scaleOfs l fmt pos row slot) (scaleGroups l fmt * 2)) }

end Sys2Proof.Machine
end

