-- ==== Sys2Proof/Machine/Sched.lean ====
section
/-! DEFINITION. Shared operations on pages, steps and sequences: release of pages (R149, R152, R158), the end of a step
without commit (R98, R141), removal from waves, abandonment (R347), shares of the machine (R95, R137), the order of
commands (R93, R309), and the close of a sequence (R156). -/
namespace Sys2Proof.Machine

/-! ### Pages -/

def Vi.modPage (x : Vi) (k : Nat) (f : Page → Page) : Vi := { x with kv := { x.kv with pages := tmod x.kv.pages k f } }

/-- R132, R158: a T1 block pair is zeroed and returned to the allocator. -/
def State.freeT1 (s : State) (v mE mS : Nat) (b : BlockPair) : State :=
  let m := memZero (memZero s.hbm (t1Base v + b.elem) (blockBytes mE)) (t1Base v + b.scale) (blockBytes mS)
  { s with hbm := m }.modVi v (fun x => { x with kv := { x.kv with t1 := x.kv.t1.givePair mE mS b } })

/-- R156: T2 blocks are returned; the device does not write to them (R158). -/
def Vi.freeT2 (x : Vi) (p : Page) : Vi :=
  match p.t2 with
  | none => x
  | some (r, b) =>
    { x with kv := { x.kv with t2 := tmod x.kv.t2 r (fun a => a.givePair p.mElem p.mScale b),
                               t2Bytes := x.kv.t2Bytes - (blockBytes p.mElem + blockBytes p.mScale) } }

/-- R144, R145: whether a transfer is a spill, or a fetch, of a page. -/
def Xfer.spills (t : Xfer) (k : Nat) : Bool :=
  match t.purpose with
  | .spill p _ => p == k
  | _ => false
def Xfer.fetches (t : Xfer) (k : Nat) : Bool :=
  match t.purpose with
  | .fetch p _ => p == k
  | _ => false

/-- Whether a transfer of a page is outstanding (R347 step 3). -/
def Vi.pageBusy (x : Vi) (k : Nat) : Bool := x.conns.any (fun c => c.2.out.any (fun t => t.spills k || t.fetches k))

/-- R152: a page is released when no sequence references it, no step pins it and no transfer uses it. -/
def State.releasePage (s : State) (v k : Nat) : State :=
  match s.vi? v with
  | none => s
  | some x =>
    match tget x.kv.pages k with
    | none => s
    | some p =>
      if p.refs = [] ∧ p.pins = [] ∧ !x.pageBusy k then
        let s := match p.t1 with
          | some b => s.freeT1 v p.mElem p.mScale b
          | none => s
        s.modVi v (fun x => let y := x.freeT2 p; { y with kv := { y.kv with pages := tdel y.kv.pages k } })
      else s

/-- R149: a sequence's reference to a page ends. -/
def State.unref (s : State) (v q k : Nat) : State :=
  (s.modVi v (fun x => x.modPage k (fun p => { p with refs := p.refs.erase q }))).releasePage v k

/-- R152: a step's pin on a page ends. -/
def State.unpin (s : State) (v st k : Nat) : State :=
  (s.modVi v (fun x => x.modPage k (fun p => { p with pins := p.pins.erase st }))).releasePage v k

/-! ### Shares -/

/-- R95: the yelms of a VI, and of all VIs that hold an image. -/
def Vi.yelmCount (x : Vi) : Nat := 16 * x.part.courses.length
def State.yelmsWithImage (s : State) : Nat :=
  sumNat (s.vis.map (fun e => if e.2.img.gen = 0 then 0 else e.2.yelmCount))

/-- R95: Q_vi. -/
def State.quota (s : State) (x : Vi) : Nat := max 8 (512 * x.yelmCount / max 1 s.yelmsWithImage)

/-- R6: the purlin group of a course. -/
def groupOfCourse (c : Nat) : Nat := c / 16

/-- The purlin groups among which a VI holds yelms. -/
def Vi.groups (x : Vi) : List Nat := (List.range 12).filter (fun g => x.part.courses.any (fun c => groupOfCourse c == g))

/-- Yelms of a VI in a group. -/
def Vi.yelmsIn (x : Vi) (g : Nat) : Nat := 16 * (x.part.courses.filter (fun c => groupOfCourse c == g)).length

/-- R137: a VI's share of a group's T0 SRAM, in bytes. Log entry 20 (DEDUCED). -/
def State.t0Share (s : State) (x : Vi) (g : Nat) : Nat :=
  let all := sumNat (s.vis.map (fun e => e.2.yelmsIn g))
  Config.t0GroupMib * 1048576 * x.yelmsIn g / max 1 all

/-- R132, R135, R137: T0 blocks of a VI's share that its steps hold in a group: vectors, tail staging, layer copies.
Log entry 20 (DEDUCED), 102 (DESIGN CHOICE). -/
def State.t0Used (s : State) (v g : Nat) : List (Nat × Nat) :=
  s.steps.flatMap (fun e => if e.2.vi = v ∧ e.2.group = g ∧ e.2.adm.isSome then e.2.t0 ++ e.2.layerCopies.flatMap LayerCopy.blocks else [])

/-- R132, R137: the allocator of a VI's share of a group's T0. Log entry 20 (DEDUCED). -/
def State.t0Arena (s : State) (v : Nat) (x : Vi) (g : Nat) : Arena := Arena.around (s.t0Share x g) (s.t0Used v g)

/-- R97, R137: bytes of a VI's share of a group's T0 that are free. Log entry 20 (DEDUCED). -/
def State.t0Free (s : State) (v : Nat) (x : Vi) (g : Nat) : Nat := (s.t0Arena v x g).freeBytes

/-! ### Order (R93, R309) -/

/-- The place of a command in the order of stamps: stamp, port, VI, queue, distance. -/
structure Place5 where
  stamp : Nat
  lport : Nat
  vi : Nat
  queue : Nat
  dist : Int
deriving DecidableEq, Repr

/-- R309. -/
def orderLt (a b : Place5) : Bool :=
  if a.stamp ≠ b.stamp then decide (a.stamp < b.stamp)
  else if a.lport ≠ b.lport then decide (a.lport < b.lport)
  else if a.vi ≠ b.vi then decide (a.vi < b.vi)
  else if a.queue ≠ b.queue then decide (a.queue < b.queue)
  else decide (a.dist < b.dist)

def stepPlace (t : Step) : Place5 := ⟨t.stamp, t.lport, t.vi, t.queue, t.dist⟩
def entryPlace (v : Nat) (e : Entry) : Place5 := ⟨e.stamp, e.lport, v, e.queue, e.dist⟩

/-- Whether an entry has been accepted and has no outcome yet. -/
def Entry.open_ (e : Entry) : Bool := e.state == .accepted || e.state == .running

/-- R93: the sequences that a command waiting to take effect names, where later commands of the sequence wait for it. -/
def orderSeqs (e : Entry) : List Nat :=
  let pay := pPay e.req
  if [0x0501, 0x0502, 0x0503, 0x0605].contains e.opcode then [leAt pay 0 4]
  else if e.opcode = 0x0403 then [leAt pay 0 4, leAt pay 4 4]
  else if e.opcode = 0x0401 then [leAt pay 0 4, leAt pay 4 4]
  else []

/-- R93: a command that is journaled and has not taken effect: accepted, or an ADP_BWD that runs. -/
def Entry.ahead (e : Entry) : Bool := e.state == .accepted || (e.state == .running && e.opcode == 0x0605)

/-- R316: the sequence of a step whose command waits to be replayed. -/
def replaySeq (e : Entry) : Option Nat := if [0x0402, 0x0604].contains e.opcode then some (leAt (pPay e.req) 0 4) else none

/-- R93, R316: whether an earlier command of the sequence has not yet taken effect, or waits to be replayed. -/
def State.blocked93 (s : State) (v q : Nat) (at_ : Place5) : Bool :=
  s.steps.any (fun e => e.2.vi == v && e.2.seq == q && !e.2.ending && e.2.kind != .recompute && orderLt (stepPlace e.2) at_)
    || (match s.vi? v with
        | none => false
        | some x => x.jrnl.entries.any (fun e => orderLt (entryPlace v e.2) at_ &&
            ((e.2.ahead && (orderSeqs e.2).contains q) || (x.jrnl.replay.contains e.1 && replaySeq e.2 == some q))))

/-- R93: an earlier SEQ_OPEN or SEQ_FORK that will create a sequence has not taken effect. -/
def State.seqComing (s : State) (v q : Nat) (at_ : Place5) : Bool :=
  match s.vi? v with
  | none => false
  | some x => x.jrnl.entries.any (fun e => e.2.state == .accepted && orderLt (entryPlace v e.2) at_ &&
      ((e.2.opcode == 0x0401 && leAt (pPay e.2.req) 0 4 == q) || (e.2.opcode == 0x0403 && leAt (pPay e.2.req) 4 4 == q)))

/-- R165: the adapter set a command names, directly or, for ADP_BWD, through its sequence. -/
def setNamed (x : Vi) (e : Entry) : Option Nat :=
  let pay := pPay e.req
  if [0x0601, 0x0602, 0x0603, 0x0606].contains e.opcode then some (leAt pay 0 2)
  else if e.opcode = 0x0401 then (if leAt pay 20 2 = 0xFFFF then none else some (leAt pay 20 2))
  else if e.opcode = 0x0605 then (tget x.seqs (leAt pay 0 4)).bind Seq.set
  else none

/-- R165: whether an earlier command of the set has not taken effect. -/
def setBlocked (v : Nat) (x : Vi) (n : Nat) (at_ : Place5) : Bool :=
  x.jrnl.entries.any (fun e => e.2.open_ && setNamed x e.2 == some n && orderLt (entryPlace v e.2) at_)

/-- R142: a sequence is idle: no step, and no journaled command that names it and has not completed. -/
def seqNamed (e : Entry) : Option Nat :=
  if e.opcode / 256 = 0x04 ∨ e.opcode / 256 = 0x05 ∨ e.opcode = 0x0604 ∨ e.opcode = 0x0605 then some (leAt (pPay e.req) 0 4)
  else none

def State.seqIdle (s : State) (v q : Nat) : Bool :=
  !s.steps.any (fun e => e.2.vi == v && e.2.seq == q && !e.2.closed) &&
    (match s.vi? v with
     | none => true
     | some x => !x.jrnl.entries.any (fun e => e.2.open_ && (seqNamed e.2 == some q || (orderSeqs e.2).contains q)))

/-! ### Waves -/

/-- A step's tokens leave every wave and band read. -/
def Wave.without (w : Wave) (k : Nat) : Wave :=
  let gone := (w.toks.filter (fun t => t.2.step == k)).map Prod.fst
  { w with toks := w.toks.filter (fun t => t.2.step != k),
           ops := w.ops.filter (fun o => !gone.contains (o.1 / 4096)),
           hops := w.hops.filter (fun h => !gone.contains h.1),
           adp := w.adp.filter (fun a => !gone.contains a.1) }

/-- Whether a band read belongs to a step. -/
def State.readOf (s : State) (r : Read) (k : Nat) : Bool :=
  match tget s.waves r.wave with
  | none => false
  | some w => ((tget w.toks r.slot).map WaveTok.step) == some k

/-- R325: arrays whose read was dropped are idle again. -/
def Yelm.dropReads (y : Yelm) (keep : Read → Bool) : Yelm :=
  let gone := (y.reads.filter (fun r => !keep r.2)).map Prod.fst
  { y with reads := y.reads.filter (fun r => keep r.2),
           arrays := tmapv y.arrays (fun k a =>
             if a.st = .lit ∧ (gone.contains k ∨ gone.contains (k + 1024)) ∧ !y.reads.any (fun r => keep r.2 && r.1 % 1024 == k) then
               { a with st := .idle } else a) }

def State.leaveWaves (s : State) (k : Nat) : State :=
  { s with
    yelms := tmapv s.yelms (fun _ y => y.dropReads (fun r => !s.readOf r k))
    waves := (tmapv s.waves (fun _ w => w.without k)).filter (fun e => !e.2.toks.isEmpty) }

/-! ### Steps that end without commit (R98, R141) -/

/-- A step goes without commit: it leaves the waves, its staging and reservations are freed, its pins end. -/
def State.dropStep (s : State) (k : Nat) : State :=
  match s.step? k with
  | none => s
  | some t =>
    let s := s.leaveWaves k
    let s := t.reserved.foldl (fun s r => s.freeT1 t.vi r.2.2.1 r.2.2.2.1 r.2.2.2.2) s
    let s := t.copies.foldl (fun s r => s.freeT1 t.vi r.2.1 r.2.2.1 r.2.2.2) s
    let s := t.tail.foldl (fun (s : State) b =>
      { s with hbm := memZero s.hbm (t1Base t.vi + b.2) (blockBytes b.1) }.modVi t.vi (fun x =>
          { x with kv := { x.kv with t1 := x.kv.t1.give b.1 b.2 } })) s
    let s := t.pins.foldl (fun s p => s.unpin t.vi k p) s
    { s with steps := tdel s.steps k }

/-- R271: the payload of a SEQ_STEP or ADP_FWD_SAVE answer that commits nothing (R282, R285). Log entry 90 (DEDUCED). -/
def stepReplyAt (op : Nat) (pay : List Byte) (stamp p gen : Nat) : List Byte :=
  let q := leAt pay 0 4
  if op = 0x0402 then
    le 4 q ++ le 2 gen ++ le 2 0 ++ le 8 stamp ++ le 8 0 ++ le 4 p ++ zeros 4
  else
    le 4 q ++ le 2 gen ++ zeros 2 ++ le 4 0 ++ le 4 0 ++ le 4 0 ++ zeros 4 ++ le 8 stamp ++ le 8 0

def bareStepReply (op : Nat) (pay : List Byte) (stamp : Nat) (x : Vi) (gen : Nat) : List Byte :=
  stepReplyAt op pay stamp (((tget x.seqs (leAt pay 0 4)).map Seq.p).getD 0) gen

def emptyStepReply (e : Entry) (x : Vi) (gen : Nat) : List Byte := bareStepReply e.opcode (pPay e.req) e.stamp x gen

/-- R271: the reply layout of an opcode with the request's echoes and zeros, for a command that ends without a result.
Log entry 64 (DEDUCED). -/
def emptyReply (s : State) (v : Nat) (e : Entry) : List Byte :=
  let pay := pPay e.req
  match s.vi? v with
  | none => []
  | some x =>
    if e.opcode = 0x0402 ∨ e.opcode = 0x0604 then emptyStepReply e x x.img.gen
    else match e.opcode with
      | 0x0102 => bytesAt pay 0 2 ++ zeros 10
      | 0x0301 => zeros 16 ++ le 1 (if leAt pay 4 1 = 0 then 16 else min (leAt pay 4 1) 16) ++ zeros 3
      | 0x0302 => zeros 24
      | 0x0303 => zeros 4
      | 0x0304 => zeros 8
      | 0x0401 => openReply pay 0
      | 0x0403 => bytesAt pay 4 4 ++ zeros 4
      | 0x0404 => bytesAt pay 0 4 ++ zeros 4
      | 0x0405 => bytesAt pay 0 4 ++ zeros 32
      | 0x0501 => bytesAt pay 0 4 ++ zeros 4
      | 0x0502 => bytesAt pay 0 4 ++ zeros 4
      | 0x0503 => bytesAt pay 0 4 ++ zeros 4
      | 0x0602 => bytesAt pay 0 2 ++ zeros 14
      | 0x0603 => bytesAt pay 0 2 ++ zeros 2
      | 0x0605 => bytesAt pay 0 4 ++ zeros 20
      | 0x0606 => updateReply pay (adamAt pay) 0 0 0 0
      | 0x0802 => zeros 8
      | 0x0A01 => zeros 8
      | 0x0A02 => zeros 8
      | 0x0A04 => zeros 16
      | 0x0A05 => bytesAt pay 0 1 ++ zeros 1 ++ bytesAt pay 2 2 ++ zeros 4
      | 0x0B01 => bytesAt pay 0 3 ++ zeros 1 ++ bytesAt pay 6 4
      | 0x0B03 => bytesAt pay 0 2 ++ zeros 6
      | 0x0C03 => zeros 4
      | 0x0601 => setCreateReply pay 0 0
      | 0x0701 => tileDesc pay true
      | 0x0702 => tileDesc pay false
      | 0x0A03 => zeros 8
      | 0x0E01 => bytesAt pay 0 4 ++ le 2 (clampN (leAt pay 4 2) 1 64) ++ zeros (2 + 4 * clampN (leAt pay 4 2) 1 64)
      | 0x0E02 => bytesAt pay 0 6 ++ zeros (2 + 4 * leAt pay 4 2)
      | 0x0E03 => pay
      | op => zeros (maxReply op)

/-- R272: a command that teardown ends completes with ABANDONED. -/
def State.abandon (s : State) (v e : Nat) : State :=
  match s.entry? v e with
  | none => s
  | some n => s.outcome v e stAbandoned (emptyReply s v n)

/-- A step ends without commit and its command completes with a status. Log entry 90 (DEDUCED). -/
def State.failStep (s : State) (k status : Nat) : State :=
  match s.step? k with
  | none => s
  | some t =>
    let s := s.dropStep k
    match t.entry.bind (s.entry? t.vi), t.entry, s.vi? t.vi with
    | some n, some e, some x =>
      let pay := if n.opcode = 0x0605 then emptyReply s t.vi n
        else stepReplyAt n.opcode (pPay n.req) n.stamp (((x.seqOf t).map Seq.p).getD t.p0)
          (if t.adm.isSome then t.gen else x.img.gen)
      (s.modVi t.vi (fun x => { x with bwd := tdel x.bwd e })).outcome t.vi e status pay
    | _, _, _ => s

/-- R347 step 2: waiting steps end at once; steps in flight end at their next layer boundary. -/
def State.abandonSteps (s : State) (sel : Nat → Step → Bool) : State × List Nat :=
  let ks := (s.steps.filter (fun e => sel e.1 e.2)).map Prod.fst
  (ks.foldl (fun s k =>
    match s.step? k with
    | none => s
    | some t => if t.adm.isNone then s.failStep k stAbandoned else s.modStep k (fun t => { t with ending := true })) s, ks)

/-- R347: the commands that wait on SEQ_CLOSE, Q_DESTROY for their steps, answered once those have ended. -/
def State.endWaits (s : State) (v : Nat) : State :=
  match s.vi? v with
  | none => s
  | some x =>
    let done := x.ends.filter (fun w => w.steps.all (fun k => !thas s.steps k))
    let s := s.modVi v (fun x => { x with ends := x.ends.filter (fun w => !w.steps.all (fun k => !thas s.steps k)) })
    done.foldl (fun s w =>
      match w.queue, w.seq with
      | some q, _ => ((s.modVi v (fun x => { x with queues := tdel x.queues q })).emit v none false (.queueGone q)).outcome v w.entry
          stOk (le 2 q ++ zeros 2 ++ le 4 w.count)
      | none, some q => s.outcome v w.entry stOk (le 4 q ++ le 4 w.count)
      | none, none => s) s

/-- R156, R186: the pages, drop records, saved area and accumulators of a sequence go at the close stamp; its steps in flight
run on to their layer boundary. Log entry 124 (DEDUCED). -/
def State.freeSeq (s : State) (v q : Nat) : State :=
  match s.vi? v with
  | none => s
  | some x =>
    match tget x.seqs q with
    | none => s
    | some sq =>
      let ks := sq.pages.flatMap tvals
      let s := ks.foldl (fun s k => s.unref v q k) s
      let s := { s with steps := tmapv s.steps (fun _ t =>
        if t.vi = v ∧ t.seq = q then { t with closed := true, kept := some (t.kept.getD sq) } else t) }
      s.modVi v (fun x =>
        { x with seqs := tdel x.seqs q, bwd := x.bwd.filter (fun b => b.2.seq != q),
                 kv := { x.kv with drops := (x.kv.drops.map (fun d => { d with seqs := d.seqs.erase q })).filter (fun d => !d.seqs.isEmpty) } })

/-- R93, R156, R186, R280, R347: SEQ_CLOSE acts at once: the sequence's steps are abandoned and its pages freed, its commands
that have no step in flight abandoned, and an open that waits for it as a source finds none; answers the steps concerned. -/
def State.closeSeq (s : State) (v q : Nat) : State × List Nat :=
  let r := s.abandonSteps (fun _ t => t.vi == v && t.seq == q && !t.ending)
  let ending := (r.1.steps.filter (fun t => t.2.vi == v && t.2.seq == q)).map (fun t => t.2.entry)
  let named := fun (e : Nat × Entry) => e.2.open_ && !([0x0401, 0x0404, 0x0402, 0x0604].contains e.2.opcode) && !ending.contains (some e.1) &&
    (seqNamed e.2 == some q || (orderSeqs e.2).head? == some q)
  let opens := fun (e : Nat × Entry) => e.2.state == .accepted && e.2.opcode == 0x0401 && leAt (pPay e.2.req) 4 4 == q
  let s := match r.1.vi? v with
    | none => r.1
    | some x =>
      let s := (x.jrnl.entries.filter named).foldl (fun (s : State) (e : Nat × Entry) => s.abandon v e.1) r.1
      (x.jrnl.entries.filter opens).foldl (fun (s : State) (e : Nat × Entry) => s.outcome v e.1 stNoObject (openReply (pPay e.2.req) 0)) s
  ((s.freeSeq v q).emit v (some q) true .seqClose, r.2)

end Sys2Proof.Machine
end

