-- ==== Sys2Proof/Machine/Interfaces.lean ====
section
/-! DEFINITION. The commands of groups 0x01 and 0x02 (R277, R278): VIs, partitions, connections, regions and queues
(chapter 10), and the end of a teardown (R347, R348). -/
namespace Sys2Proof.Machine

/-! ### Partitions (R240–R242) -/

/-- HBM of tenant VIs other than one, MiB. -/
def State.hbmTaken (s : State) (but : Nat) : Nat :=
  sumNat (s.vis.map (fun e => if e.1 = 0 ∨ e.1 = but then 0 else e.2.part.hbm))

/-- R241 items 1 to 3. -/
def partFinding (s : State) (v : Nat) (r : PartRec) : Option Nat :=
  if r.courses.any (fun c => decide (191 < c)) then some stNoObject
  else if !r.courses.Nodup then some stNoResource
  else if s.vis.any (fun e => e.1 != v && r.courses.any (fun c => e.2.part.courses.contains c)) then some stNoResource
  else if s.hbmTaken v + r.hbm > Config.tenantHbmMib then some stNoResource
  else none

/-- The record as it comes into force: areas reduced (R241 item 4), COURSE_LIST as the request lists it (R271).
Log entry 40 (DEDUCED). -/
def partEffective (r : PartRec) : PartRec := shrinkAreas r

/-- R243, R269: the tag a VI number's counter holds; the first VI of a number starts at 1, since 0 is never used.
Log entry 14 (DEDUCED). -/
def State.viTag (s : State) (v : Nat) : Nat := tgetD s.store.viTags v 0

/-- R269: a tag advances; after 0xFFFF it advances to 1. -/
def nextTag (g : Nat) : Nat := if g ≥ 0xFFFF then 1 else g + 1

/-- R240, R236, R237, R247: the new VI with its queue 0; its flag windows are those of the device's series (R218). Log entry 14
(DEDUCED). -/
def State.createVi (s : State) (v : Nat) (a : AddrRec) (r : PartRec) : State :=
  let tag := max 1 (s.viTag v)
  let x := Vi.fresh a r 1
  let x := { x with prec := match s.time.series with
    | none => x.prec
    | some n => { x.prec with started := true, beat := n % max 1 x.prec.window } }
  { s with vis := tset s.vis v x, free := tdel s.free v,
           store := { s.store with viTags := tset s.store.viTags v tag, q0Tags := tset s.store.q0Tags v 1 } }

/-- R277: the reply of VI_CREATE. -/
def viCreateReply (v tag q0 : Nat) (a : AddrRec) (r : PartRec) : List Byte :=
  le 2 v ++ le 2 tag ++ le 2 q0 ++ zeros 2 ++ addrBytes a ++ partBytes v r

/-- R237: what forbids an address record; VI 0's record that comes into force at the next boundary (R454) counts too. -/
def addrFinding (s : State) (a : AddrRec) : Bool :=
  notUnicast a.ipv6 || s.vis.any (fun e => addrClash e.2.addr a) || s.pins.vi0Pend.any (fun b => addrClash b a)

/-- VI_CREATE (R240, R241, R237). Log entry 14 (DEDUCED). -/
def effViCreate : Effect := fun s c =>
  let a := addrAt c.pay 0
  let v := partVi c.pay 48
  let r := partEffective (partAt c.pay 48)
  let bad := fun st => (s, some (st, viCreateReply v 0 0 a r))
  if v = 0 ∨ 255 < v then bad stNoObject
  else if thas s.vis v then bad stNotPermitted
  else if addrFinding s a then bad stNotPermitted
  else
    match partFinding s v (partAt c.pay 48) with
    | some st => bad st
    | none => (s.createVi v a r, some (stOk, viCreateReply v (max 1 (s.viTag v)) 1 a r))

def execViCreate (p : Packet) (s : State) : Host.Outcome State Fault Refusal :=
  .next (s.takeAs 0x0101 p noStatic effViCreate)

/-- R412: the digital temperature of a die in °C; 40 °C before its first sample (log entry 17). -/
def State.dieTemp (s : State) (d : Nat) : Rat :=
  match tget s.pwr.dies d with
  | none => 40
  | some b => mkRat b.temp 1000

def State.yelmTemp (s : State) (y : Nat) : Rat := s.dieTemp (dieOfYelm y)

/-- R65: N⁺ and N⁻ as seeded at a die temperature. Log entry 93 (DESIGN CHOICE). -/
def seedOf (temp : Rat) : F32 := fOfRat (16 * (1 - mkRat 18 10000 * (temp - 40)))

/-- R65: seed the monitor state of an array at a die temperature. -/
def seedArr (temp : Rat) (a : Arr) : Arr :=
  { a with o := 0, npos := seedOf temp, nneg := seedOf temp, dpos := 0x41800000#32, dneg := 0x41800000#32 }

/-- R342: the physical yelms of a domain. -/
def domainYelms (domain target : Nat) : Nat → Bool := fun y =>
  match domain with
  | 0 => y == target
  | 1 => y / 64 == target
  | 2 => y / 256 == target
  | 3 => false
  | _ => true

/-- An array that holds nothing (R212): every cell off, monitor state as erased (R65, at 40 °C). -/
def Arr.blank : Arr :=
  { st := .spare, cells := [], o := 0, npos := 0x41800000#32, dpos := 0x41800000#32, nneg := 0x41800000#32,
    dneg := 0x41800000#32, alpha := 0x3F800000#32, v := 0, pg := 0, h := 0, marks := [], due := false, slice := 0,
    prog := none, retire := none, idx := none }

/-- R203, R65: a retired array is erased; its marks stay. -/
def Arr.retired (a : Arr) (temp : Rat) : Arr := seedArr temp { Arr.blank with st := .retired, marks := a.marks }

/-- A yelm as power-up leaves it (R88). -/
def Yelm.fresh : Yelm :=
  { accHold := false, corrBypass := false, arraySel := 0, trimTap := 0, trimConv := 0, trimBank := 0,
    counts := List.replicate 7 0, seen := 0, litNow := 0, input := [], acc := [], output := [], recv := [], cache := [],
    arrays := [], reads := [], trims := [], trimTemp := 0x42200000#32, trimStamp := 0, stored := List.replicate 5 [],
    setId := 0, lastCal := 0, cal := 0, calStart := 0, calTemp := 0x42200000#32, trimDue := false, found := [],
    transposeCycles := 0, tiles := [], resetting := false,
    seed := 0x41800000#32 }

/-- A yelm; one that nothing has touched yet is fresh, under the trims of its die (R379), the seeds of its course (R65) and the
resets that hold it (R342). Log entry 53 (DESIGN CHOICE), 93 (DESIGN CHOICE). -/
def State.yelm (s : State) (y : Nat) : Yelm :=
  let f := tgetD s.cal.dieTrim (dieOfYelm y) (0x42200000#32, 0)
  tgetD s.yelms y { Yelm.fresh with
    trimTemp := f.1, trimStamp := f.2, seed := tgetD s.cal.blankSeed (y / 16) 0x41800000#32,
    resetting := s.err.resets.any (fun r => r.domain != 4 && domainYelms r.domain r.target y) }
def State.setYelm (s : State) (y : Nat) (x : Yelm) : State := { s with yelms := tset s.yelms y x }
def State.modYelm (s : State) (y : Nat) (f : Yelm → Yelm) : State := s.setYelm y (f (s.yelm y))
/-- An array; one that nothing has touched yet has the seed of its yelm (R65). Log entry 93 (DESIGN CHOICE). -/
def Yelm.arr (y : Yelm) (a : Nat) : Arr := tgetD y.arrays a { Arr.blank with npos := y.seed, nneg := y.seed }
def Yelm.setArr (y : Yelm) (a : Nat) (x : Arr) : Yelm := { y with arrays := tset y.arrays a x }
def Yelm.modArr (y : Yelm) (a : Nat) (f : Arr → Arr) : Yelm := y.setArr a (f (y.arr a))

/-- R212, R347 step 4: every array of a course is erased, spares included; marks and retirements stay. -/
def eraseYelm (temp : Rat) (y : Yelm) : Yelm :=
  { y with arrays := tmapv y.arrays (fun _ a =>
             seedArr temp { Arr.blank with marks := a.marks, st := if a.st = .retired then .retired else .spare }),
           seed := seedOf temp, reads := [], input := [], acc := [], output := [], recv := [], cache := [] }

/-- R65: the arrays of courses in which nothing is listed are seeded at their die's temperature.
Log entry 93 (DESIGN CHOICE). -/
def State.seedCourses (s : State) (p : Nat → Bool) : State :=
  let seeds := (List.range 192).foldl (fun t c => if p c then tset t c (seedOf (s.yelmTemp (16 * c))) else t) s.cal.blankSeed
  { s with cal := { s.cal with blankSeed := seeds } }

def State.eraseCourses (s : State) (cs : List Nat) : State :=
  ({ s with yelms := tmapv s.yelms (fun k y => if cs.contains (k / 16) then eraseYelm (s.yelmTemp k) y else y) }).seedCourses
    (fun c => cs.contains c)

/-- R242: what forbids a change of a VI's record. -/
def allocFinding (x : Vi) (r : PartRec) : Bool :=
  let o := x.part
  let noSeq := x.seqs.isEmpty
  (r.ranked != o.ranked && x.img.gen != 0) ||
    ((r.hbm < o.hbm || r.remote < o.remote) && !(x.img.gen == 0 && noSeq)) ||
    ((r.jrnl != o.jrnl || r.digital != o.digital || r.train != o.train) &&
      !(x.img.gen == 0 && noSeq && x.sets.isEmpty && x.jrnl.entries.all (fun e => e.2.state == .retired)))

/-- R132: T1 blocks of a VI in use: those of its pages, and those its steps hold in reserve. -/
def State.t1Used (s : State) (v : Nat) (k : Kv) : List (Nat × Nat) :=
  k.pages.flatMap (fun p => match p.2.t1 with
    | some b => [(p.2.mElem, b.elem), (p.2.mScale, b.scale)]
    | none => []) ++
  s.steps.flatMap (fun e => if e.2.vi ≠ v then [] else
    e.2.reserved.flatMap (fun r => [(r.2.2.1, r.2.2.2.2.elem), (r.2.2.2.1, r.2.2.2.2.scale)]) ++
      e.2.copies.flatMap (fun r => [(r.2.1, r.2.2.2.elem), (r.2.2.1, r.2.2.2.scale)]) ++ e.2.tail)

/-- R242: T1 arenas resized around the blocks in use. -/
def State.resizeT1 (s : State) (v : Nat) (k : Kv) (mib : Nat) : Kv :=
  if mib / 64 * 67108864 = k.t1.size then k else { k with t1 := Arena.around (mib / 64 * 67108864) (s.t1Used v k) }

/-- YELM_ALLOC (R242, R241). -/
def effYelmAlloc : Effect := fun s c =>
  let v := partVi c.pay 0
  let r := partEffective (partAt c.pay 0)
  let bad := fun st => (s, some (st, partBytes v r))
  match s.vi? v with
  | none => bad stNoObject
  | some x =>
    if v = 0 ∨ x.closing.isSome then bad stNotPermitted
    else
      match partFinding s v (partAt c.pay 0) with
      | some st => bad st
      | none =>
        if allocFinding x r then bad stNotPermitted
        else
          let gone := x.part.courses.filter (fun k => !r.courses.contains k)
          let s := s.eraseCourses gone
          let s := s.modVi v (fun x => { x with part := r, kv := s.resizeT1 v x.kv r.t1Mib })
          (s, some (stOk, partBytes v r))

def execYelmAlloc (p : Packet) (s : State) : Host.Outcome State Fault Refusal :=
  .next (s.takeAs 0x0201 p noStatic effYelmAlloc)

/-- PART_READ (R278). -/
def effPartRead : Effect := fun s c =>
  let v := leAt c.pay 0 2
  match s.vi? v with
  | none => (s, some (stNoObject, le 2 v ++ zeros 30))
  | some x => (s, some (stOk, partBytes v x.part))

def execPartRead (p : Packet) (s : State) : Host.Outcome State Fault Refusal :=
  .next (s.takeAs 0x0202 p noStatic effPartRead)

/-! ### Teardown of a VI (R347, R348) -/

/-- R247: the 44 bytes of a queue record in force. -/
def queueBytes (n : Nat) (q : Queue) : List Byte :=
  le 2 n ++ le 1 q.cls ++ le 1 (b2n q.pull + 2 * b2n q.rdma) ++ le 2 q.rc ++ le 1 q.slotLog2 ++ zeros 1 ++
    le 4 q.sqRegion ++ le 4 q.sqSlots ++ le 4 q.cqRegion ++ le 4 q.cqSlots ++ be 16 q.cplAddr.toNat ++ le 2 q.cplPort ++
    zeros 2

/-- R355: QUEUE records of every queue of a home, after a tag advance. -/
def State.emitQueues (s : State) (v : Nat) : State :=
  match s.vi? v with
  | none => s
  | some x => x.queues.foldl (fun s q => s.emit v none true (.queue (queueBytes q.1 q.2) q.2.gen q.2.win.h q.2.win.accepted)) s

/-- R269: the VI's tag and the tag of each of its queues advance; the counters persist. -/
def State.advanceTags (s : State) (v : Nat) : State :=
  let s := s.modVi v (fun x => { x with queues := tmapv x.queues (fun _ q => { q with gen := nextTag q.gen }) })
  let q0 := (((s.vi? v).bind (fun x => tget x.queues 0)).map Queue.gen).getD 1
  let st := { s.store with viTags := tset s.store.viTags v (nextTag (s.viTag v)), q0Tags := tset s.store.q0Tags v q0 }
  { s with store := st }.emitQueues v

/-- Whether a reset that touches a VI is in progress (R343, R344). -/
def State.inReset (s : State) (v : Nat) : Bool := s.err.resets.any (fun r => r.vis.contains v)

/-- R371: what is left of a pair: its counters. -/
def Pair.ended (p : Pair) : Pair :=
  { Pair.none with
    dropped := p.dropped, fences := p.fences, takeovers := p.takeovers, snapshots := p.snapshots,
    splitSeen := p.splitSeen, broken := p.broken, deposedSeen := p.deposedSeen, expired := p.expired }

/-- R368, R369: LEAVE to the other side where it can be reached; the VI is unpaired. -/
def State.leavePair (s : State) (v : Nat) : State :=
  match s.vi? v with
  | none => s
  | some x =>
    if x.pair.role = 0 then s
    else ((if s.pairUp x && x.pair.state != 5 then s.pairSend v x.pair.rc .leave else s)).modPair v Pair.ended

/-- R347 steps 1 and 2 for a VI: tags, refusal, every step abandoned, sequences closed, entries retired (R272). -/
def State.startClose (s : State) (v entry : Nat) : State :=
  let s := (s.leavePair v).advanceTags v
  let n := (s.steps.filter (fun e => e.2.vi == v)).length
  let s := (s.abandonSteps (fun _ t => t.vi == v && !t.ending)).1
  let s := match s.vi? v with
    | none => s
    | some x => (tkeys x.seqs).foldl (fun s q => s.freeSeq v q) s
  s.modVi v (fun x =>
    { x with closing := some ⟨entry, s.now, n, 0⟩, ends := [],
             jrnl := { x.jrnl with entries := [], replay := [] },
             img := { x.img with op := none, refresh := [] } })

/-- VI_CLOSE (R347, R344): during a reset of its VI it begins when that reset ends. -/
def effViClose : Effect := fun s c =>
  let v := leAt c.pay 0 2
  let bad := fun st => (s, some (st, le 2 v ++ zeros 10))
  match s.vi? v with
  | none => bad stNoObject
  | some x =>
    if v = 0 ∨ x.closing.isSome then bad stNotPermitted
    else if s.inReset v then (s, none)
    else (s.startClose v c.entry, none)

def execViClose (p : Packet) (s : State) : Host.Outcome State Fault Refusal :=
  .next (s.takeAs 0x0102 p noStatic effViClose)

/-- R348: the VI is gone: connections, regions, journal, ring and sets with it; its courses and HBM return to VI 0. -/
def State.removeVi (s : State) (v : Nat) : State :=
  match s.vi? v with
  | none => s
  | some x =>
    let s := s.eraseCourses x.part.courses
    { s with
      vis := tdel s.vis v, free := tdel s.free v, net := { s.net with waiting := s.net.waiting.filter (fun w => w.1 != v) }
      hbm := memZero s.hbm (t1Base v) (2 ^ 39)
      cal := { s.cal with requests := s.cal.requests.filter (fun r => r.1 != v || r.2.1.isNone) } }

/-- TEARDOWN_COMPLETE (R348): after the last step has ended and the last transfer has ended or timed out. -/
def execTeardownComplete (ts vi : Nat) (s0 : State) : Host.Outcome State Fault Refusal :=
  let s := s0.upto ts
  .next (match s.vi? vi with
    | none => s
    | some x =>
      match x.closing with
      | none => s
      | some t =>
        if s.steps.any (fun e => e.2.vi == vi) || x.conns.any (fun c => !c.2.out.isEmpty) then s
        else (s.removeVi vi).outcome 0 t.entry stOk (le 2 vi ++ zeros 2 ++ le 4 t.steps ++ le 4 t.xfers))

/-! ### Connections and regions (R245, R246) -/

/-- R233: line rate of a logical port in the mode in force, bit/s. -/
def State.lineRate (s : State) (lp : Nat) : Rat := ((800000000000 / 2 ^ lget s.net.portMode (lp / 4) 0 : Nat) : Rat)

/-- R354, R363, R369: the pair connection carries traffic again: LEAVE where it is due, else the records that have not been
acknowledged. Log entry 68 (DEDUCED). -/
def State.pairReturns (s : State) (v rc : Nat) : State :=
  match s.vi? v with
  | none => s
  | some x =>
    if x.pair.role ≠ 1 ∨ x.pair.rc ≠ rc ∨ x.pair.state = 5 then s
    else if x.pair.leaveDue then (s.pairSend v rc .leave).modPair v (fun p => { p with leaveDue := false })
    else x.pair.unacked.foldl (fun s r => s.pairSend v rc (.record r)) s

/-- RC_CREATE (R245, R277). Log entry 100 (DESIGN CHOICE). -/
def effRcCreate : Effect := fun s c =>
  let lp := leAt c.pay 0 1
  let pm := clampN (leAt c.pay 1 1) 10 12
  let ack := clampN (leAt c.pay 2 1) 10 20
  let rt := min (leAt c.pay 3 1) 7
  let pr := min (leAt c.pay 4 1) 7
  let eff := le 1 lp ++ le 1 pm ++ le 1 ack ++ le 1 rt ++ le 1 pr ++ zeros 3
  let bad := fun st => (s, some (st, zeros 12 ++ eff))
  match s.vi? c.vi with
  | none => bad stNoObject
  | some x =>
    if !(s.portsOf x.addr).contains lp then bad stNoObject
    else if x.conns.length ≥ Config.rcPerVi ∨ sumNat (s.vis.map (fun e => e.2.conns.length)) ≥ Config.rcPerDevice then
      bad stNoResource
    else
      let rc := tpick x.conns (Config.rcStart s.draws) Config.rcPerVi
      let qpn := Config.devQpn s.draws
      let psn := Config.devPsn s.draws
      let conn : Conn :=
        { lport := lp, pmtu := pm, ackExp := ack, retry := rt, prio := pr, hostIp := BitVec.ofNat 128 (beAt c.pay 8 16),
          hostQpn := leAt c.pay 24 4, hostPsn := leAt c.pay 28 4, devQpn := qpn, devPsn := psn, error := false, tries := 0, failSince := none,
          rate := s.lineRate lp, lastCnp := none, lastRaise := s.now, lastCut := none, cnpSent := none, rnr := 0, out := [] }
      let s := { s with draws := s.draws + 1 }.modVi c.vi (fun x => { x with conns := tset x.conns rc conn })
      (s.pairReturns c.vi rc, some (stOk, le 2 rc ++ zeros 2 ++ le 4 qpn.toNat ++ le 4 psn.toNat ++ eff))

def execRcCreate (p : Packet) (s : State) : Host.Outcome State Fault Refusal :=
  .next (s.takeAs 0x0106 p noStatic effRcCreate)

/-- RC_DESTROY (R245). -/
def effRcDestroy : Effect := fun s c =>
  let rc := leAt c.pay 0 2
  let rep := le 2 rc ++ zeros 2
  match s.vi? c.vi with
  | none => (s, some (stNoObject, rep))
  | some x =>
    if !thas x.conns rc then (s, some (stNoObject, rep))
    else if x.regions.any (fun r => r.2.rc == rc) then (s, some (stNotPermitted, rep))
    else (s.modVi c.vi (fun x =>
      { x with conns := tdel x.conns rc,
               pair := { x.pair with former := if x.pair.former = some rc then none else x.pair.former } }), some (stOk, rep))

def execRcDestroy (p : Packet) (s : State) : Host.Outcome State Fault Refusal :=
  .next (s.takeAs 0x0107 p noStatic effRcDestroy)

/-- R246: bytes of USE 1 regions a VI has registered. -/
def Vi.remoteBytes (x : Vi) : Nat := sumNat (x.regions.map (fun r => if r.2.use = 1 then r.2.length else 0))

/-- REGION_ADD (R246). Log entry 100 (DESIGN CHOICE). -/
def effRegionAdd : Effect := fun s c =>
  let rc := leAt c.pay 0 2
  let use := leAt c.pay 2 1
  let grid := if use = 1 then 67108864 else 4096
  let len := leAt c.pay 16 8 / grid * grid
  let bad := fun st => (s, some (st, zeros 8 ++ le 8 len))
  match s.vi? c.vi with
  | none => bad stNoObject
  | some x =>
    if !thas x.conns rc ∨ 4 < use then bad stNoObject
    else if x.regions.length ≥ Config.regionsPerVi then bad stNoResource
    else if use = 1 ∧ x.remoteBytes + len > x.part.remote * 1048576 then bad stNoResource
    else
      let r := tpick x.regions (Config.regionStart s.draws) Config.regionsPerVi
      let reg : Region := ⟨rc, use, leAt c.pay 4 4, leAt c.pay 8 8, len⟩
      let s := { s with draws := s.draws + 1 }.modVi c.vi (fun x =>
        { x with regions := tset x.regions r reg,
                 kv := { x.kv with t2 := if use = 1 then tset x.kv.t2 r (Arena.ofBytes len) else x.kv.t2 } })
      (s, some (stOk, le 4 r ++ zeros 4 ++ le 8 len))

def execRegionAdd (p : Packet) (s : State) : Host.Outcome State Fault Refusal :=
  .next (s.takeAs 0x0108 p noStatic effRegionAdd)

/-- R246: what holds a region: remote-tier blocks, an installed image, a ring. -/
def Vi.regionHeld (x : Vi) (r : Nat) : Bool :=
  x.kv.pages.any (fun p => (p.2.t2.map Prod.fst) == some r) || (x.img.gen != 0 && x.img.source.region == r) ||
    x.queues.any (fun q => (q.2.pull && q.2.sqRegion == r) || (q.2.rdma && q.2.cqRegion == r))

/-- REGION_REMOVE (R246). -/
def effRegionRemove : Effect := fun s c =>
  let r := leAt c.pay 0 4
  match s.vi? c.vi with
  | none => (s, some (stNoObject, le 4 r))
  | some x =>
    if !thas x.regions r then (s, some (stNoObject, le 4 r))
    else if x.regionHeld r then (s, some (stNotPermitted, le 4 r))
    else (s.modVi c.vi (fun x => { x with regions := tdel x.regions r, kv := { x.kv with t2 := tdel x.kv.t2 r } }),
      some (stOk, le 4 r))

def execRegionRemove (p : Packet) (s : State) : Host.Outcome State Fault Refusal :=
  .next (s.takeAs 0x0109 p noStatic effRegionRemove)

/-! ### Queues (R247–R251) -/

/-- R247: slots of a ring: 16–65,536, to a power of two, and within the region. -/
def ringSlots (want slotLog2 len : Nat) : Nat :=
  let n := nearestPow2 (clampN want 16 65536)
  let fit := len / 2 ^ slotLog2
  if n ≤ fit then n else if fit = 0 then 0 else 2 ^ Nat.log2 fit

/-- R247: the queue a record asks for. -/
def queueAt (x : Vi) (b : List Byte) : Queue :=
  let mode := leAt b 3 1
  let sl := clampN (leAt b 6 1) 6 13
  let len := fun r => ((tget x.regions r).map Region.length).getD 0
  let pull := bitOf mode 0
  let rdma := bitOf mode 1
  { Queue.zero 1 with
    cls := min (leAt b 2 1) 7, pull := pull, rdma := rdma, rc := leAt b 4 2, slotLog2 := sl, sqRegion := leAt b 8 4,
    sqSlots := if pull then ringSlots (leAt b 12 4) sl (len (leAt b 8 4)) else nearestPow2 (clampN (leAt b 12 4) 16 65536),
    cqRegion := leAt b 16 4,
    cqSlots := if rdma then ringSlots (leAt b 20 4) sl (len (leAt b 16 4)) else nearestPow2 (clampN (leAt b 20 4) 16 65536),
    cplAddr := BitVec.ofNat 128 (beAt b 24 16), cplPort := leAt b 40 2 }

/-- R247: a connection or region that does not exist, or a region of the wrong USE. -/
def queueRefs (x : Vi) (q : Queue) : Bool :=
  let use := fun r => (tget x.regions r).map Region.use
  (!(q.pull || q.rdma) || thas x.conns q.rc) && (!q.pull || use q.sqRegion == some 2) && (!q.rdma || use q.cqRegion == some 3)

/-- R267, R314: a queue that is created has no PSN window in the checkpoints yet. -/
def Journal.without (j : Journal) (q : Nat) : Journal :=
  { j with ckptA := { j.ckptA with windows := tdel j.ckptA.windows q }, ckptB := { j.ckptB with windows := tdel j.ckptB.windows q } }

/-- Q_CREATE (R247). -/
def effQCreate : Effect := fun s c =>
  let n := leAt c.pay 0 2
  match s.vi? c.vi with
  | none => (s, some (stNoObject, zeros 48))
  | some x =>
    let q := queueAt x c.pay
    let bad := fun st => (s, some (st, le 2 n ++ zeros 2 ++ queueBytes n q))
    if n ≥ x.part.queues ∨ thas x.queues n ∨ x.queues.length ≥ x.part.queues then bad stNotPermitted
    else if !queueRefs x q then bad stNoObject
    else ((s.modVi c.vi (fun x => { x with queues := tset x.queues n q, jrnl := x.jrnl.without n })).emit c.vi none false
      (.queue (queueBytes n q) 1 none []), some (stOk, le 2 n ++ le 2 1 ++ queueBytes n q))

def execQCreate (p : Packet) (s : State) : Host.Outcome State Fault Refusal :=
  .next (s.takeAs 0x0103 p noStatic effQCreate)

/-- Whether an entry of a queue is still in the journal unretired. -/
def Vi.entriesOf (x : Vi) (q : Nat) : List Nat :=
  (x.jrnl.entries.filter (fun e => e.2.queue == q && e.2.state != .retired)).map Prod.fst

/-- Q_DESTROY (R247, R272, R347): the queue's entries are retired, its admitted steps abandoned; it completes once they
have ended. -/
def effQDestroy : Effect := fun s c =>
  let q := leAt c.pay 0 2
  let bad := fun st => (s, some (st, le 2 q ++ zeros 6))
  match s.vi? c.vi with
  | none => bad stNoObject
  | some x =>
    if !thas x.queues q then bad stNoObject
    else if q = 0 ∨ q = c.queue then bad stNotPermitted
    else
      let es := x.entriesOf q
      let r := s.abandonSteps (fun _ t => t.vi == c.vi && t.queue == q && t.entry.isSome && !t.ending)
      let s := es.foldl (fun s e => s.retire c.vi e) r.1
      let s := s.modVi c.vi (fun x =>
        { x.modQueue q (fun u => { u with destroying := true }) with ends := x.ends ++ [⟨c.entry, r.2, none, some q, es.length⟩] })
      (s.endWaits c.vi, none)

def execQDestroy (p : Packet) (s : State) : Host.Outcome State Fault Refusal :=
  .next (s.takeAs 0x0104 p noStatic effQDestroy)

end Sys2Proof.Machine
end

