-- ==== Sys2Proof/Machine/Queues.lean ====
section
/-! DEFINITION. How commands enter queues and completions leave them: doorbells and fetched slots (R248, R249),
completions by packet and by RDMA (R250, R251, R271, R272), their retry, and JRNL_ACK (R289). -/
namespace Sys2Proof.Machine

/-! ### Completions -/

/-- R272, R220: the status a completion carries: REPLAYED where a replayed run ended OK, RECIPE_FLAG where the VI's flag
is set and the opcode is one of steps, else the outcome's own. -/
def finalStatus (x : Vi) (e : Entry) : Nat :=
  if e.status = stOk then
    if e.replayRun then stReplayed
    else if (bitOf x.prec.flagStatus 0 || e.ranOut) && [0x0402, 0x0604, 0x0605].contains e.opcode then stRecipeFlag
    else stOk
  else e.status

/-- R282, R285: a step that completes without having been admitted carries the image generation of its completion stamp. -/
def cplPayload (x : Vi) (e : Entry) : List Byte :=
  if (e.opcode = 0x0402 ∨ e.opcode = 0x0604) ∧ !e.admitted then e.payload.take 4 ++ le 2 x.img.gen ++ e.payload.drop 6 else e.payload

/-- R270, R271, R272: the completion packet of an entry, sent now under the queue's current tag. -/
def completionBytes (v : Nat) (x : Vi) (q : Queue) (e : Entry) (now : Nat) : List Byte :=
  replyBytes (fReply + fFinal + (if e.replayRun then fReplayRun else 0)) v e.queue e.psn e.opcode q.gen now
    (finalStatus x e) (cplPayload x e)

/-- R359, R361: a VI that is fenced, or a home whose peer has not acknowledged the outcome, holds its replies; the record
numbers are in the pair's stream (see Pairs). -/
def pairHolds (x : Vi) (id : Nat) : Bool :=
  (x.pair.role == 1 && x.pair.state == 3) || (x.pair.role == 1 && x.pair.state == 2 && x.pair.unacked.any (fun u =>
    match u.body with
    | .outcome q psn _ _ _ => ((tget x.jrnl.entries id).map (fun e => (e.queue, e.psn))) == some (q, psn)
    | _ => false))

/-- R250, R317: the next entry of a queue whose completion is to be sent. Log entry 15 (DESIGN CHOICE). -/
def Vi.nextToSend (x : Vi) (q : Nat) : Option (Nat × Entry) :=
  x.jrnl.entries.find? (fun e => e.2.queue == q && e.2.state == .recorded && !pairHolds x e.1 &&
    ((tget x.queues q).map Queue.awaitAddr) != some true)

/-- Mark an entry's completion as sent: the stamp of the first sending is its completion stamp (R311). -/
def markSent (now : Nat) (b : List Byte) (e : Entry) : Entry :=
  { e with state := .sent, cplStamp := if e.cplStamp = 0 then now else e.cplStamp, sent := some b, series := 1, beats := 0 }

/-- R251: free slots of a completion ring. -/
def ringRoom (q : Queue) : Nat := q.cqSlots - (q.cqTail + 2 ^ 32 - q.cqHead) % 2 ^ 32

/-- R282, R283: the stamp of the last completion of a sequence's step. Log entry 89 (DEDUCED). -/
def noteSeqCpl (x : Vi) (e : Entry) (now : Nat) : Vi :=
  if e.opcode = 0x0402 ∨ e.opcode = 0x0604 then x.modSeq (leAt (pPay e.req) 0 4) (fun q => if q.opened ≤ e.stamp then { q with lastCpl := now } else q) else x

/-- R293: the association that a MACSEC_KEY names. Log entry 63 (DEDUCED). -/
def macAssoc (pay : List Byte) : Assoc :=
  let pn := clampN (leAt pay 68 8) 1 (2 ^ 64 - 1)
  { an := leAt pay 3 1, sci := leAt pay 4 8, ssci := leAt pay 12 4, salt := bytesAt pay 20 12, key := bytesAt pay 36 32,
    pn := pn, stored := if leAt pay 1 1 = 0 then pn + pnStep else pn }

/-- R438: a transmit association takes over from the first frame queued after the reply, the one before it deleted. -/
def State.sentEffects (s : State) (v : Nat) (e : Entry) : State :=
  let pay := pPay e.req
  if v = 0 ∧ e.opcode = 0x0C02 ∧ e.status = stOk ∧ e.series = 0 ∧ leAt pay 1 1 = 0 ∧ !(bytesAt pay 36 32).all (· == 0) then
    s.modSec (fun b => { b with
      ms := b.ms.set (leAt pay 0 1) { lget b.ms (leAt pay 0 1) .off with tx := some (macAssoc pay), exhausted := false } })
  else s

/-- R251: write a completion into its ring, from CQ_TAIL on, by one WRITE with immediate; one that passes the ring's end goes on
at its start, by a WRITE of the first part before it. Log entry 106 (DESIGN CHOICE). -/
def State.ringWrite (s : State) (v qn id : Nat) (x : Vi) (q : Queue) (b : List Byte) : State :=
  let n := ceilDiv b.length (2 ^ q.slotLog2)
  let last := (q.cqTail + n - 1) % 2 ^ 22
  let base := ((tget x.regions q.cqRegion).map Region.addr).getD 0
  let slot := q.cqTail % max 1 q.cqSlots
  let room := min n (q.cqSlots - slot)
  let s := s.modVi v (fun x => x.modQueue qn (fun q => { q with cqTail := (q.cqTail + n) % 2 ^ 32, held := q.held.erase id }))
  let imm := some (qn * 2 ^ 22 + last)
  let cut := room * 2 ^ q.slotLog2
  let first := bytesAt b 0 cut
  let put := fun (s : State) (at_ : Nat) (data : List Byte) (imm : Option Nat) =>
    s.issue v q.rc (s.xferOf v qn (.ring qn) true (base + at_ * 2 ^ q.slotLog2) data.length data imm)
  if room = n then put s slot (bytesAt b 0 (n * 2 ^ q.slotLog2)) imm
  else put (put s slot first none) 0 (bytesAt b cut ((n - room) * 2 ^ q.slotLog2)) imm

/-- R251: a completion that finds no room is held. -/
def State.holdFor (s : State) (v qn id : Nat) : State :=
  s.modVi v (fun x => x.modQueue qn (fun q => { q with held := if q.held.contains id then q.held else q.held ++ [id] }))

/-- R291, R313: a RESET that has caused its reset is retired by it, as soon as its completion has been sent. Log entry 117
(DEDUCED). -/
def State.retireReset (s : State) (v id : Nat) (e : Entry) : State :=
  if e.opcode = 0x0A05 ∧ e.status = stOk then s.retire v id else s

/-- R250, R251: send one completion of a queue. Log entry 15 (DESIGN CHOICE), 117 (DEDUCED). -/
def State.sendOne (s : State) (v qn id : Nat) (x : Vi) (q : Queue) (e : Entry) : State :=
  let b := completionBytes v x q e s.now
  let sent := fun (s : State) => s.modVi v (fun x => noteSeqCpl (x.modEntry id (markSent s.now b)) e s.now)
  if q.rdma then
    if ringRoom q < ceilDiv b.length (2 ^ q.slotLog2) then s.holdFor v qn id
    else (((sent s).ringWrite v qn id x q b).sentEffects v e).retireReset v id e
  else
    let dest := replyTo (some q) e.req
    (((sent s).send v dest.1 dest.2 (s.prioOf q.cls) b).sentEffects v e).retireReset v id e

/-- COMPLETION_SEND (R250, R251, R271): the oldest outcome of the queue that may leave. -/
def execCompletionSend (ts vi queue : Nat) (s0 : State) : Host.Outcome State Fault Refusal :=
  let s := s0.upto ts
  .next (if !s.serving then s else match s.vi? vi with
    | none => s
    | some x =>
      match tget x.queues queue, x.nextToSend queue with
      | some q, some (id, e) => s.sendOne vi queue id x q e
      | _, _ => s)

/-- R251: after a doorbell, held completions leave in order while the ring has room. -/
def State.sendHeld (s : State) (v qn : Nat) : Nat → State
  | 0 => s
  | fuel + 1 =>
    match s.vi? v with
    | none => s
    | some x =>
      match tget x.queues qn with
      | none => s
      | some q =>
        match q.held with
        | [] => s
        | id :: _ =>
          match tget x.jrnl.entries id with
          | none => s
          | some e =>
            if ringRoom q < ceilDiv (completionBytes v x q e s.now).length (2 ^ q.slotLog2) then s
            else (s.sendOne v qn id x q e).sendHeld v qn fuel

/-- CPL_RETRY (R250): CPL_RETRY beats after a sending, the same packet again; after the eighth, a CPL_UNDELIVERED record. -/
def execCplRetry (ts vi queue psn : Nat) (s0 : State) : Host.Outcome State Fault Refusal :=
  let s := s0.upto ts
  .next (if !s.serving then s else match s.vi? vi with
    | none => s
    | some x =>
      match x.jrnl.entries.find? (fun e => e.2.queue == queue && e.2.psn == psn && e.2.state == .sent),
        tget x.queues queue with
      | some (id, e), some q =>
        if q.rdma ∨ e.beats < s.net.cplRetry ∨ e.series ≥ 9 ∨ e.series = 0 then s
        else if e.series = 8 then
          (s.modEntry vi id (fun n => { n with series := 9 })).report
            { recOf 0x0404 1 vi s.now with queue := queue, psn := psn, detail := le 1 8 }
        else
          match e.sent with
          | none => s
          | some b =>
            let dest := replyTo (some q) e.req
            let s := s.modVi vi (fun x =>
              { x.modEntry id (fun n => { n with series := n.series + 1, beats := 0, retx := min (n.retx + 1) 255 }) with
                ctr := { x.ctr with cplRetx := bump x.ctr.cplRetx } })
            s.send vi dest.1 dest.2 (s.prioOf q.cls) b
      | _, _ => s)

/-! ### JRNL_ACK (R289, R313) -/

/-- R289: whether an acknowledgement covers an entry. -/
def ackCovers (queue upto : Nat) (e : Entry) : Bool :=
  (queue == 0xFFFF || e.queue == queue) && e.state == .sent && decide (e.cplStamp ≤ upto)

/-- JRNL_ACK: retires what it covers; a queue that does not exist drops it. Log entry 66 (DEDUCED). -/
def effJrnlAck (s : State) (c : Cmd) : State :=
  let q := leAt c.pay 0 2
  let upto := leAt c.pay 4 8
  match s.vi? c.vi with
  | none => s
  | some x =>
    if q ≠ 0xFFFF ∧ !thas x.queues q then s
    else ((x.jrnl.entries.filter (fun e => ackCovers q upto e.2)).foldl (fun s (e : Nat × Entry) =>
      s.emit c.vi none true (.retireOne e.2.queue e.2.psn)) s).modVi c.vi (fun x => x.modJrnl (fun j =>
      { j with entries := tmapv j.entries (fun _ e => if ackCovers q upto e then { e with state := .retired } else e) }.reclaim))

def execJrnlAck (p : Packet) (s : State) : Host.Outcome State Fault Refusal :=
  .next (if pOpcode p = 0x0903 then s.takeDirect p effJrnlAck else s.upto p.ts)

/-! ### Doorbells and pulled packets (R248, R249) -/

/-- R249: the later of two free-running indices. -/
def laterIdx (a b : Nat) : Nat :=
  let d := (b + 2 ^ 32 - a) % 2 ^ 32
  if 1 ≤ d ∧ d ≤ 2 ^ 31 - 1 then b else a

/-- R249: the tail after a doorbell: the later of the two, at most one ring ahead of SQ_HEAD. -/
def bellTail (q : Queue) (tail : Nat) : Nat :=
  let t := laterIdx q.sqTail tail
  let ahead := (t + 2 ^ 32 - q.sqHead) % 2 ^ 32
  if ahead ≤ q.sqSlots then t else (q.sqHead + q.sqSlots) % 2 ^ 32

/-- R249: slots of the next read: at most 64, and none past the end of the ring (R248). -/
def Queue.readSlots (q : Queue) (from_ n : Nat) : Nat := min (min n 64) (max 1 (q.sqSlots - from_ % max 1 q.sqSlots))

/-- R249: the reads for n slots from an index on. -/
def State.fetchSlots (s : State) (v qn : Nat) (q : Queue) (base : Nat) (from_ n : Nat) : Nat → State
  | 0 => s
  | fuel + 1 =>
    if n = 0 then s
    else
      let k := q.readSlots from_ n
      let s := s.rdma v q.rc (.pull qn from_ k) false (base + from_ % max 1 q.sqSlots * 2 ^ q.slotLog2) (k * 2 ^ q.slotLog2) qn []
      s.fetchSlots v qn q base ((from_ + k) % 2 ^ 32) (n - k) fuel

/-- Q_DOORBELL: the tail, the fetches it starts, and ring space for held completions; on a connection in error the fetches fail,
and the tail stays for the next doorbell (R245). -/
def effQDoorbell (s : State) (c : Cmd) : State :=
  match s.vi? c.vi with
  | none => s
  | some x =>
    match tget x.queues c.queue with
    | none => s
    | some q =>
      let t := bellTail q (leAt c.pay 0 4)
      let s := s.modVi c.vi (fun x => x.modQueue c.queue (fun q =>
        { q with cqHead := leAt c.pay 4 4, sqTail := if q.pull && s.connOk c.vi q.rc then t else q.sqTail }))
      let s :=
        if q.pull && s.connOk c.vi q.rc then
          let base := ((tget x.regions q.sqRegion).map Region.addr).getD 0
          s.fetchSlots c.vi c.queue q base q.sqTail ((t + 2 ^ 32 - q.sqTail) % 2 ^ 32) 1026
        else s
      s.sendHeld c.vi c.queue 1024

def execQDoorbell (p : Packet) (s : State) : Host.Outcome State Fault Refusal :=
  .next (if pOpcode p = 0x0105 then s.takeDirect p effQDoorbell else s.upto p.ts)

/-- A packet as its bytes, for reading its header. -/
def rawPacket (ts lport v qn : Nat) (b : List Byte) : Packet := ⟨ts, lport, 0, 0, 0, 0, 0, some (v, qn), b, .plain⟩

/-- R249: SQ_HEAD passes n slots of a packet; those that are still to come are passed over when they do. -/
def Queue.consume (q : Queue) (n : Nat) : Queue :=
  { q with fetched := q.fetched.drop n, skip := q.skip + (n - q.fetched.length), sqHead := (q.sqHead + n) % 2 ^ 32 }

/-- R249: a discarded packet and its n slots: PULL_SLOT_BAD and an error record. -/
def State.slotBad (s : State) (v qn n head : Nat) : State :=
  (s.modVi v (fun x =>
    { x.modQueue qn (fun q => q.consume n) with ctr := { x.ctr with slotBad := bump x.ctr.slotBad } })).report
    { recOf 0x0405 1 v s.now with queue := qn, detail := le 4 head }

/-- R249, R265: take whole packets out of the fetched slots: each becomes a ticket with the stamp of its first slot; one that
names another VI or queue, that runs past the tail or is longer than a pull packet may be is discarded, and its slots up to the
tail are consumed. Log entry 10 (DEDUCED). -/
def takeSlots (s : State) (v qn lport : Nat) : Nat → State
  | 0 => s
  | fuel + 1 =>
    match (s.vi? v).bind (fun x => tget x.queues qn) with
    | none => s
    | some q =>
      match q.fetched with
      | [] => s
      | (ts, first) :: _ =>
        let len := 32 + pLength (rawPacket ts lport v qn first)
        let k := ceilDiv len (2 ^ q.slotLog2)
        let left := (q.sqTail + 2 ^ 32 - q.sqHead) % 2 ^ 32
        if left < k ∨ Config.pullMax < len then takeSlots (s.slotBad v qn (min k left) q.sqHead) v qn lport fuel
        else if q.fetched.length < k then s
        else
          let bytes := (((q.fetched.take k).map Prod.snd).flatten).take len
          let p := rawPacket ts lport v qn bytes
          let pass := s.modVi v (fun x => x.modQueue qn (fun q => q.consume k))
          if !headerOk p then takeSlots pass.countOther v qn lport fuel
          else if pVi p ≠ v ∨ pQueue p ≠ qn then takeSlots (s.slotBad v qn k q.sqHead) v qn lport fuel
          else takeSlots (pass.modVi v (fun x => x.modQueue qn (fun q => { q with tickets := q.tickets ++ [⟨ts, lport, bytes⟩] })))
            v qn lport fuel

/-- The first outstanding request of a queue's submission ring, with its connection. -/
def Vi.pullXfer (x : Vi) (rc qn : Nat) : Option Xfer :=
  (tget x.conns rc).bind (fun c => c.out.find? (fun t => t.sent && (match t.purpose with
    | .pull q _ _ => q == qn
    | _ => false)))

/-- R245: a response whose record belongs to an older generation is dropped. -/
def State.xferCurrent (s : State) (v : Nat) (x : Vi) (qn : Nat) (t : Xfer) : Bool :=
  t.viGen == s.viTag v && t.qGen == ((tget x.queues qn).map Queue.gen).getD 0

/-- Remove one request record of a connection, which makes room for a READ that waits (R244); in a teardown the data read is
discarded and counted (R347, R348). -/
def State.popXfer (s : State) (v rc : Nat) (t : Xfer) : State :=
  (s.modVi v (fun x =>
    { x.modConn rc (fun c => { c with out := c.out.erase t, tries := 0, rnr := 0, failSince := none }) with
      closing := x.closing.map (fun k => if t.write then k else { k with xfers := k.xfers + 1 }) })).pumpReads v rc

/-- R249: the slots of a queue's oldest fetch have come. -/
def State.pullArrives (s : State) (vi queue : Nat) (slots : List (List Byte)) : State :=
  match s.vi? vi with
  | none => s
  | some x =>
    match tget x.queues queue with
    | none => s
    | some q =>
      match x.pullXfer q.rc queue with
      | none => s
      | some t =>
        let s1 := s.popXfer vi q.rc t
        if !s.xferCurrent vi x queue t then s1
        else
          let n := t.len / 2 ^ q.slotLog2
          let got := (List.range n).map (fun i => (s.now, bytesAt (slots.getD i []) 0 (2 ^ q.slotLog2)))
          takeSlots (s1.modVi vi (fun x => x.modQueue queue (fun q =>
            { q with fetched := q.fetched ++ got.drop q.skip, skip := q.skip - n }))) vi queue
            (((tget x.conns q.rc).map Conn.lport).getD 0) (n + q.fetched.length + 1)

/-- PULL_FETCH_RESPONSE (R249, R264): on the port of the queue's connection. -/
def execPullFetchResponse (ts vi queue lport : Nat) (slots : List (List Byte)) (s0 : State) :
    Host.Outcome State Fault Refusal :=
  let s := s0.upto ts
  let port := ((s.vi? vi).bind (fun x => (tget x.queues queue).bind (fun q => tget x.conns q.rc))).map Conn.lport
  .next (if port = some lport then s.pullArrives vi queue slots else s)

end Sys2Proof.Machine
end

