-- ==== Sys2Proof/Machine/Time.lean ====
section
/-! DEFINITION. External time (chapter 12): sources, their choice and their loss (R298–R301), corrections (R302), the time
floor (R303), TIME_SET and BEAT_SET (R300, R305), and the latching reads (R319). -/
namespace Sys2Proof.Machine

def srcOf (t : TimeBlk) (i : Nat) : TimeSrc := lget t.srcs i .unlocked
def TimeBlk.modSrc (t : TimeBlk) (i : Nat) (f : TimeSrc → TimeSrc) : TimeBlk := { t with srcs := t.srcs.set i (f (srcOf t i)) }

/-- Whether a source is enabled in SRC_EN and locked; holdover always is (R298). -/
def usable (t : TimeBlk) (i : Nat) : Bool := i == 3 || (bitOf t.srcEn i && (srcOf t i).locked)

/-- R300: the preferred source if locked, else the first locked one in the order 2, 0, 1, else holdover. -/
def chooseSource (t : TimeBlk) : Nat :=
  if usable t t.pref then t.pref else (([2, 0, 1].find? (usable t)).getD 3)

/-- R301: the time of record is traced. -/
def traced (t : TimeBlk) : Bool :=
  t.active != 3 && usable t t.active && decide ((srcOf t t.active).offset.natAbs ≤ 1000)

/-- R318: HOLDOVER_S counts from the stamp at which the time of record was last traced. -/
def State.noteTraced (s : State) : State :=
  if traced s.time then s.modTime (fun t => { t with lastTraced := s.now, everTraced := true }) else s

/-- R302: the correction that an offset of the active source starts; servo noise is a free value. Log entry 12 (DESIGN
CHOICE). -/
def correct (t : TimeBlk) (i : Nat) : TimeBlk :=
  if t.active ≠ i then t
  else
    let o := (srcOf t i).offset
    let noise : Int := Config.servoNoise i
    if o > 1000000 then { t with pendStep := some (o.toNat, false) }
    else { t with slewing := decide (o > noise) || decide (o < -noise), pendStep := none }

/-- R300, R302: a source becomes active and its offset is corrected; in holdover nothing is. -/
def TimeBlk.switchTo (t : TimeBlk) (a : Nat) : TimeBlk :=
  if a = t.active then t
  else
    let t := { t with active := a, slewing := false, pendStep := none }
    if a = 3 then t else correct t a

/-- R300: the choice made when a source locks: from holdover, in the order of the rule; from another locked source, the preferred
one only after 16 s, any other in that order. -/
def rechoose (t : TimeBlk) (i : Nat) : Nat :=
  if t.active = 3 then chooseSource t
  else if t.active = t.pref ∨ i = t.pref then t.active
  else ([2, 0, 1].find? (fun k => k != t.pref && usable t k)).getD t.active

/-- R300: a source locks. -/
def State.sourceLocks (s : State) (i : Nat) : State :=
  s.modTime (fun t =>
    let t := { t.modSrc i (fun r => { r with locked := true, lockStamp := s.now }) with unset := false }
    t.switchTo (rechoose t i))

/-- R298, R300: a source is lost; if it was locked the loss is counted, and an active source is chosen afresh. -/
def State.sourceLost (s : State) (i : Nat) : State :=
  let s := s.noteTraced
  (s.modTime (fun t =>
    let was := (srcOf t i).locked
    let t := t.modSrc i (fun r => { r with locked := false, run := [] })
    let t := if was then { t with sourceLost := true, lossEvents := bump t.lossEvents } else t
    if t.active = i ∧ i ≠ 3 then t.switchTo (chooseSource t) else t)).noteTraced

/-- R298: the links of both ports are gone: the PTP sources that had one are lost. -/
def State.linksGone (s : State) : State :=
  [0, 1].foldl (fun s p => if bitOf s.net.linkUp (4 * p) then s.sourceLost p else s) s

/-- R298: whether the last n offsets are n in number and vary by less than a bound. -/
def steady (xs : List Int) (n : Nat) (bound : Int) : Bool :=
  let w := xs.take n
  decide (w.length = n) && (w.all (fun a => w.all (fun b => decide (a - b < bound))))

/-- R299: whether PTP can run on a port with its transport: over UDP it uses VI 0's addresses, and VI 0 is reachable on p.0. -/
def State.ptpReach (s : State) (port : Nat) : Bool :=
  s.time.transport == 0 ||
    (s.vi? 0).any (fun x => bitOf x.addr.ports (4 * port) && (s.time.transport == 2 || x.addr.ipv4 != 0))

/-- R299: a delay request by the mechanism DELAY_MECH selects, from p.0 at 802.1 priority 7, under MACsec where it is on. Log
entry 108 (DESIGN CHOICE). -/
def State.ptpRequest (s : State) (port : Nat) : State :=
  s.xmit (4 * port) 7 (.ptp port s.time.transport (if s.time.delayMech = 0 then .delayReq else .pdelayReq))

/-- R299: the sync intervals the device accepts, 2⁻⁷ s to 1 s, in ns. -/
def syncInterval (ns : Nat) : Bool := decide (7812500 ≤ ns) && decide (ns ≤ 1000000000)

/-- SYNC (R299): a Sync of the selected master updates the source's offset, may lock it, and corrects the time of record; the
device asks for the path delay. Log entry 108 (DESIGN CHOICE). -/
def execSync (ts port : Nat) (m : SyncMsg) (s0 : State) : Host.Outcome State Fault Refusal :=
  let s := s0.upto ts
  .next (
    let r := srcOf s.time port
    if port ≥ 2 ∨ !bitOf s.time.srcEn port ∨ r.master.isNone ∨ !syncInterval m.intervalNs ∨ !s.ptpReach port then s
    else
      let run := m.offset :: r.run.take 7
      let s := s.modTime (fun t => t.modSrc port (fun r => { r with offset := m.offset, run := run }))
      let s := if !r.locked && steady run 8 1000 then s.sourceLocks port else s
      ((s.modTime (fun t => correct t port)).noteTraced).ptpRequest port)

/-- R299: what the default best master clock algorithm compares, in its order. Log entry 108 (DESIGN CHOICE). -/
def masterRank (a : AnnounceMsg) : List Nat :=
  [a.priority1, a.clockClass, a.accuracy, a.variance, a.priority2, a.clockId, a.stepsRemoved, a.senderId, a.senderPort]

/-- The lexicographic order of lists of numbers. -/
def listLt : List Nat → List Nat → Bool
  | a :: as, b :: bs => decide (a < b) || (a == b && listLt as bs)
  | [], _ :: _ => true
  | _, [] => false

/-- R299: the better of two masters under the best master clock algorithm. -/
def betterMaster (a b : AnnounceMsg) : Bool := listLt (masterRank a) (masterRank b)

/-- The port that sends an Announce. -/
def senderOf (a : AnnounceMsg) : Nat × Nat := (a.senderId, a.senderPort)

/-- ANNOUNCE (R299): masters of PTP_DOMAIN are kept and the best is selected. Log entry 108 (DESIGN CHOICE). -/
def execAnnounce (ts port : Nat) (a : AnnounceMsg) (s0 : State) : Host.Outcome State Fault Refusal :=
  let s := s0.upto ts
  .next (
    if port ≥ 2 ∨ !bitOf s.time.srcEn port ∨ a.domain ≠ s.time.domain ∨ !s.ptpReach port then s
    else s.modTime (fun t =>
      let r := srcOf t port
      let ms := a :: r.masters.filter (fun m => senderOf m != senderOf a)
      let best := bestBy betterMaster ms
      let same := best.map senderOf == r.master.map senderOf
      let t := t.modSrc port (fun r =>
        { r with masters := ms, master := best, run := if same then r.run else [],
                 lastSeen := if best.map senderOf == some (senderOf a) then some s.now else r.lastSeen })
      if t.active = port ∧ best.map senderOf = some (senderOf a) then { t with utcOffset := a.utcOffset } else t))

/-- ANNOUNCE_TIMEOUT (R298): three announce intervals without Announce from the selected master. -/
def execAnnounceTimeout (ts port : Nat) (s0 : State) : Host.Outcome State Fault Refusal :=
  let s := s0.upto ts
  .next (
    match (srcOf s.time port).master, (srcOf s.time port).lastSeen with
    | some m, some t0 =>
      if port ≥ 2 ∨ s.now < t0 + 3 * m.intervalNs then s
      else (s.sourceLost port).modTime (fun t => t.modSrc port (fun r =>
        let ms := r.masters.filter (fun x => senderOf x != senderOf m)
        { r with masters := ms, master := bestBy betterMaster ms, lastSeen := none }))
    | _, _ => s)

/-- PTP_DELAY_RESPONSE (R299): the mean path delay of the source. -/
def execPtpDelayResponse (ts port delay : Nat) (s0 : State) : Host.Outcome State Fault Refusal :=
  let s := s0.upto ts
  .next (if port ≥ 2 ∨ !bitOf s.time.srcEn port then s
    else s.modTime (fun t => t.modSrc port (fun r => { r with pathDelay := delay })))

/-- R300: the TAI stamp a 1PPS edge marks: the second that TIME_SET named for the first edge, then second by second, or
the whole second nearest to the time of record. -/
def edgeStamp (t : TimeBlk) (now : Nat) : Nat :=
  match t.ppsExpected with
  | some sec => sec * 1000000000
  | none => (now + 500000000) / 1000000000 * 1000000000

/-- TREF_PPS (R298, R300, R302): an edge counts toward lock when it lies within 100 ns of a second after the last one and
5–95 ns after a zero crossing of the 10 MHz signal (R459; the phase, in ns). -/
def execTrefPps (ts phase : Nat) (s0 : State) : Host.Outcome State Fault Refusal :=
  let s := s0.upto ts
  .next (
    if !bitOf s.time.srcEn 2 then s.modTime (fun t => t.modSrc 2 (fun r => { r with lastSeen := some s.now }))
    else
      let r := srcOf s.time 2
      let near := match r.lastSeen with
        | some l => decide (s.now ≤ l + 1000000100) && decide (l + 1000000000 ≤ s.now + 100)
        | none => false
      let off : Int := (edgeStamp s.time s.now : Int) - s.now
      let run := if near && decide (5 ≤ phase) && decide (phase ≤ 95) then off :: r.run.take 3 else []
      let s := s.modTime (fun t =>
        { t.modSrc 2 (fun r => { r with offset := off, run := run, lastSeen := some s.now }) with
          ppsExpected := t.ppsExpected.map (· + 1) })
      let s := if !r.locked && s.time.tenMhz && decide (4 ≤ run.length) then s.sourceLocks 2 else s
      (s.modTime (fun t => correct t 2)).noteTraced)

/-- PPS_TIMEOUT (R298): no edge for 1.5 s. -/
def execPpsTimeout (ts : Nat) (s0 : State) : Host.Outcome State Fault Refusal :=
  let s := s0.upto ts
  .next (match (srcOf s.time 2).lastSeen with
    | some l => if s.now < l + 1500000000 then s else s.sourceLost 2
    | none => s.sourceLost 2)

/-- TEN_MHZ_LOSS (R298). -/
def execTenMhzLoss (ts : Nat) (s0 : State) : Host.Outcome State Fault Refusal :=
  let s := s0.upto ts
  .next ((s.sourceLost 2).modTime (fun t => { t with tenMhz := false }))

/-- TEN_MHZ_LOCK (R298). -/
def execTenMhzLock (ts : Nat) (s0 : State) : Host.Outcome State Fault Refusal :=
  let s := (s0.upto ts).modTime (fun t => { t with tenMhz := true })
  let r := srcOf s.time 2
  .next (if !r.locked && bitOf s.time.srcEn 2 && decide (4 ≤ r.run.length) then
      ((s.sourceLocks 2).modTime (fun t => correct t 2)).noteTraced
    else s)

/-- SOURCE_RETURN_TIMER (R300): the preferred source has stayed locked for 16 s. -/
def execSourceReturnTimer (ts : Nat) (s0 : State) : Host.Outcome State Fault Refusal :=
  let s := s0.upto ts
  .next (
    let t := s.time
    if t.active ≠ t.pref ∧ t.pref < 3 ∧ usable t t.pref ∧ (srcOf t t.pref).lockStamp + 16000000000 ≤ s.now then
      (s.modTime (fun t => t.switchTo t.pref)).noteTraced
    else s)

/-- FLOOR_WRITE (R303): every 64 s, or before a pending step: the value, or the stepped value at the boundary that comes, plus
128 s. Log entry 84 (DEDUCED). -/
def execFloorWrite (ts : Nat) (s0 : State) : Host.Outcome State Fault Refusal :=
  let s := s0.upto ts
  .next (match s.time.pendStep with
    | some (o, false) => s.modTime (fun t =>
        { t with floor := s.comingBoundary + o + Config.floorLeadNs, lastFloor := s.now, pendStep := some (o, true) })
    | _ =>
      if s.time.lastFloor + Config.floorEveryNs ≤ s.now then
        s.modTime (fun t => { t with floor := s.now + Config.floorLeadNs, lastFloor := s.now })
      else s)

/-- TIME_SET (R300, R289). -/
def effTimeSet : Effect := fun s c =>
  let src := leAt c.pay 0 1
  if src > 3 then (s, some (stNoObject, le 1 src ++ zeros 11))
  else
    let from_ := s.nextBoundary
    let r := srcOf s.time src
    let tr := src != 3 && r.locked && decide (r.offset.natAbs ≤ 1000)
    let sec := leAt c.pay 4 8
    let s := s.modTime (fun t =>
      { t with srcEn := if src = 3 then t.srcEn else t.srcEn ||| 2 ^ src, pendPref := some (src, from_),
               ppsExpected := if src = 2 then (if sec = 0 then none else some sec) else t.ppsExpected })
    (s, some (stOk, le 1 src ++ le 1 (b2n tr) ++ zeros 2 ++ le 8 from_))

def execTimeSet (p : Packet) (s : State) : Host.Outcome State Fault Refusal := .next (s.takeAs 0x0901 p noStatic effTimeSet)

/-- R305: the stamp from which a new period holds: strictly after now, at or after pending changes, a multiple of both
periods. -/
def beatFrom (s : State) (log2 : Nat) : Nat :=
  let old := (s.time.pendBeat.getLast?.map Prod.snd).getD s.time.beatLog2
  let after := (s.time.pendBeat.getLast?.map Prod.fst).getD 0
  let step := 125000 * 2 ^ max old log2
  max ((s.now / step + 1) * step) (ceilDiv after step * step)

/-- BEAT_SET (R305, R289). -/
def effBeatSet : Effect := fun s c =>
  let n := min (leAt c.pay 0 1) 10
  let from_ := beatFrom s n
  (s.modTime (fun t => { t with pendBeat := t.pendBeat ++ [(from_, n)] }), some (stOk, le 1 n ++ zeros 3 ++ le 8 from_))

def execBeatSet (p : Packet) (s : State) : Host.Outcome State Fault Refusal := .next (s.takeAs 0x0902 p noStatic effBeatSet)

/-! ### Latching reads (R319) -/

/-- R420: whether a block's register access is gated off. -/
def State.gated (s : State) (block : Nat) : Bool := decide (block ≤ 10) && !bitOf s.clk.clkEn block

/-- R319: the read of STAMP_LO latches STAMP_HI for the VI that reads. -/
def State.readStampLo (s : State) (v : Nat) : State :=
  s.modVi v (fun x => { x with sel := { x.sel with stampHi := some (hi32 s.now) } })

def State.readBeatLo (s : State) (v : Nat) : State :=
  s.modVi v (fun x => { x with sel := { x.sel with beatHi := some (hi32 (s.beatOf s.now)) } })

/-- STAMP_LO_READ (R319). -/
def execStampLoRead (ts vi : Nat) (s0 : State) : Host.Outcome State Fault Refusal :=
  let s := s0.upto ts
  .next (if s.gated 2 then s else s.readStampLo vi)

/-- BEAT_NUM_LO_READ (R319). -/
def execBeatNumLoRead (ts vi : Nat) (s0 : State) : Host.Outcome State Fault Refusal :=
  let s := s0.upto ts
  .next (if s.gated 2 then s else s.readBeatLo vi)

end Sys2Proof.Machine
end

