-- ==== Sys2Proof/Machine/Link.lean ====
section
/-! DEFINITION. The link layer (chapter 10): received frames (R238, R239, R244), flow and congestion control (R254, R255), the
neighbour table (R239) and links (R233). -/
namespace Sys2Proof.Machine

/-- R255: as receiver, at most one CNP per 50 µs of a connection that receives CE-marked packets. -/
def State.markCe (s : State) (ce : Option (Nat × Nat)) : State :=
  match ce with
  | none => s
  | some (v, rc) =>
    match (s.vi? v).bind (fun x => tget x.conns rc) with
    | none => s
    | some c =>
      if (match c.cnpSent with
          | some t => decide (s.now < t + 50000)
          | none => false) then s
      else
        let s := (s.modVi v (fun x => x.modConn rc (fun c => { c with cnpSent := some s.now }))).modNet
          (fun n => { n with cnpTx := bump n.cnpTx })
        s.rcSend v c (.cnp v rc)

/-- R239: whether the answer of a neighbour on a port serves a VI that waits for it: in the VI's VLAN, on a port of its PORTS. -/
def State.answersFor (s : State) (vlan lport : Nat) (v : Nat) : Bool :=
  (s.vi? v).any (fun x => x.addr.vlan == vlan && (s.portsOf x.addr).contains lport)

/-- R239: a neighbour answers: its entry lives 30 s; frames that waited for it leave. -/
def State.learn (s : State) (vlan lport : Nat) (addr : BitVec 128) : State :=
  let s := s.modNet (fun n =>
    let rest := n.neighbours.filter (fun e => !(e.1 == vlan && e.2.1 == addr && e.2.2.1 == lport))
    { n with neighbours := if rest.length < Config.neighbourMax then rest ++ [(vlan, addr, lport, s.now)] else rest })
  let serves := fun (w : Nat × BitVec 128 × Option Nat × Nat × Out) => w.2.1 == addr && s.answersFor vlan lport w.1
  let mine := s.net.waiting.filter serves
  let s := s.modNet (fun n => { n with waiting := n.waiting.filter (fun w => !serves w) })
  mine.foldl (fun s w => s.xmit (w.2.2.1.getD lport) w.2.2.2.1 w.2.2.2.2) s

/-- R238: a frame that has passed the gate, on the VI it selects. Log entry 104 (DESIGN CHOICE). -/
def State.rxOn (s : State) (f : Frame) (v : Nat) (x : Vi) : State :=
  if f.fragment then s.modNet (fun n => { n with rxFrag := bump n.rxFrag })
  else
    match f.body with
    | .resolveRequest t =>
      if isAddrOf x.addr t then s.xmit f.lport 0 (.answer v f.srcIp f.body) else s.countOther
    | .resolveReply a => s.learn f.vlan f.lport a
    | .echo => s.route v f.srcIp none 0 (.answer v f.srcIp f.body)
    | .roceRequest q =>
      match x.conns.find? (fun c => c.2.devQpn.toNat == q) with
      | none => s.modNet (fun n => { n with rxMismatch := bump n.rxMismatch })
      | some (rc, c) =>
        if x.pair.role ≠ 0 ∧ x.pair.rc = rc then s
        else (s.modNet (fun n => { n with rdmaReject := bump n.rdmaReject })).rcSend v c (.nak v q)
    | .other _ => s.countOther

/-- RX_FRAME (R238). -/
def execRxFrame (f : Frame) (s0 : State) : Host.Outcome State Fault Refusal :=
  let s := s0.upto f.ts
  .next (match s.rxGate f.lport f.rx with
    | (false, s) => s
    | (true, s) =>
      let s := s.markCe f.ce
      match f.body with
      | .resolveRequest t =>
        match s.vis.find? (fun e => e.2.addr.vlan == f.vlan && bitOf e.2.addr.ports f.lport && s.portExists f.lport && isAddrOf e.2.addr t) with
        | none => s.modNet (fun n => { n with rxNoVi := bump n.rxNoVi })
        | some (v, x) => s.rxOn f v x
      | _ =>
        match s.steer f.lport f.vlan f.dstIp with
        | none => s.modNet (fun n => { n with rxNoVi := bump n.rxNoVi })
        | some v =>
          match s.vi? v with
          | none => s
          | some x => s.rxOn f v x)

/-- R254: a transmit priority's held frames leave when it is resumed. -/
def State.resume (s : State) (lp prio : Nat) : State :=
  let mine := s.net.blocked.filter (fun b => b.1 == lp && b.2.1 == prio)
  let s := s.modNet (fun n =>
    { n with paused := n.paused.filter (fun e => !(e.1 == lp && e.2.1 == prio)),
             blocked := n.blocked.filter (fun b => !(b.1 == lp && b.2.1 == prio)) })
  mine.foldl (fun s b => s.xmit lp prio b.2.2) s

/-- PFC_FRAME (R254): XOFF pauses an enabled priority, XON resumes it. -/
def execPfcFrame (ts lp prio : Nat) (xoff : Bool) (s0 : State) : Host.Outcome State Fault Refusal :=
  let s := s0.upto ts
  .next (
    if !s.portExists lp ∨ !bitOf s.net.pfcEn prio then s
    else if xoff then
      (if s.net.paused.any (fun e => e.1 == lp && e.2.1 == prio) then s
       else s.modNet (fun n => { n with paused := n.paused ++ [(lp, prio, s.now, false)] }))
    else s.resume lp prio)

/-- R255: the least send rate, bit/s. -/
def minRate : Rat := 1000000000

/-- CNP (R255): the rate is cut to 7/8, at most once per 50 µs. -/
def execCnp (ts vi rc : Nat) (s0 : State) : Host.Outcome State Fault Refusal :=
  let s := s0.upto ts
  .next (match (s.vi? vi).bind (fun x => tget x.conns rc) with
    | none => s
    | some c =>
      let soon := match c.lastCut with
        | some t => decide (s.now < t + 50000)
        | none => false
      let s := s.modNet (fun n => { n with cnpRx := bump n.cnpRx })
      s.modVi vi (fun x => x.modConn rc (fun c =>
        { c with lastCnp := some s.now, lastRaise := s.now, lastCut := if soon then c.lastCut else some s.now,
                 rate := if soon then c.rate else max minRate (c.rate * 7 / 8) })))

/-- CC_RATE_INCREASE (R255): after each 100 µs without a CNP, 1/64 of line rate more, up to line rate. -/
def execCcRateIncrease (ts vi rc : Nat) (s0 : State) : Host.Outcome State Fault Refusal :=
  let s := s0.upto ts
  .next (match (s.vi? vi).bind (fun x => tget x.conns rc) with
    | none => s
    | some c =>
      if s.now < c.lastRaise + 100000 then s
      else
        let line := s.lineRate c.lport
        s.modVi vi (fun x => x.modConn rc (fun c => { c with lastRaise := s.now, rate := min line (c.rate + line / 64) })))

/-- PFC_WATCHDOG (R254): a priority paused longer than PFC_WD is counted, recorded, and discards until XON. -/
def execPfcWatchdog (ts lp prio : Nat) (s0 : State) : Host.Outcome State Fault Refusal :=
  let s := s0.upto ts
  .next (match s.net.paused.find? (fun e => e.1 == lp && e.2.1 == prio) with
    | none => s
    | some (_, _, since, discarding) =>
      if discarding ∨ s.net.pfcWd = 0 ∨ s.now ≤ since + s.net.pfcWd * 1000000 then s
      else
        (s.modNet (fun n =>
          { n with pfcWdEvents := bump n.pfcWdEvents,
                   paused := n.paused.map (fun e => if e.1 = lp ∧ e.2.1 = prio then (lp, prio, since, true) else e),
                   blocked := n.blocked.filter (fun b => !(b.1 == lp && b.2.1 == prio)) })).report
          { recOf 0x0402 1 0xFFFF s.now with die := 61 + lp / 4, detail := le 1 lp ++ le 1 prio })

/-- NEIGHBOUR_EXPIRY (R239). -/
def execNeighbourExpiry (ts : Nat) (addr : BitVec 128) (s0 : State) : Host.Outcome State Fault Refusal :=
  let s := s0.upto ts
  .next (s.modNet (fun n =>
    { n with neighbours := n.neighbours.filter (fun e => !(e.2.1 == addr && decide (e.2.2.2 + Config.neighbourLifeNs ≤ s.now))) }))

/-- LINK_UP (R233). -/
def execLinkUp (ts lp : Nat) (s0 : State) : Host.Outcome State Fault Refusal :=
  let s := s0.upto ts
  .next (if s.portExists lp then s.modNet (fun n => { n with linkUp := n.linkUp ||| 2 ^ lp }) else s)

/-- R233, R298: a link goes down: LINK_UP clears, a LINK_DOWN record, and PTP on p.0 loses its source.
Log entry 97 (DESIGN CHOICE). -/
def State.dropLink (s : State) (lp : Nat) : State :=
  if !bitOf s.net.linkUp lp then s
  else
    let s := (s.modNet (fun n => { n with linkUp := n.linkUp - 2 ^ lp })).report
      { recOf 0x0401 3 0xFFFF s.now with die := 61 + lp / 4, detail := le 1 lp }
    if lp % 4 = 0 then s.sourceLost (lp / 4) else s

/-- LINK_DOWN (R233). -/
def execLinkDown (ts lp : Nat) (s0 : State) : Host.Outcome State Fault Refusal := .next ((s0.upto ts).dropLink lp)

end Sys2Proof.Machine
end

