-- ==== Sys2Proof/Machine/Seq.lean ====
section
/-! DEFINITION. Sequences and the residency of their pages (chapter 06, R280, R283, R284): opening, forking, closing,
querying; spill, fetch, drop and recompute (R142–R147); KV_PIN, KV_EVICT and KV_PREFETCH (R153–R155). -/
namespace Sys2Proof.Machine

/-! ### Residency -/

/-- Pages of a sequence, over all KV layers. -/
def Vi.seqPages (x : Vi) (q : Nat) : List (Nat × Page) :=
  match tget x.seqs q with
  | none => []
  | some sq => (sq.pages.flatMap tvals).filterMap (fun k => (tget x.kv.pages k).map (fun p => (k, p)))

/-- Whether every page of a sequence is RESIDENT. -/
def Vi.allResident (x : Vi) (q : Nat) : Bool := (x.seqPages q).all (fun p => p.2.state == .resident)

/-- R144: the outcome of a page's spill transfers will be ignored. -/
def Vi.ignoreSpill (x : Vi) (k : Nat) : Vi :=
  { x with conns := tmapv x.conns (fun _ c =>
      { c with out := c.out.map (fun t => if t.spills k then { t with viGen := noTag } else t) }) }

/-- R144: cancel a spill: the page is RESIDENT again, its T2 blocks are freed, the transfer's outcome is ignored. -/
def State.cancelSpill (s : State) (v k : Nat) : State :=
  s.modVi v (fun x =>
    match tget x.kv.pages k with
    | none => x
    | some p =>
      if p.state = .spilling then ((x.freeT2 p).modPage k (fun p => { p with state := .resident, t2 := none })).ignoreSpill k else x)

/-- The connection of a region. -/
def Vi.regionConn (x : Vi) (r : Nat) : Nat := ((tget x.regions r).map Region.rc).getD 0

/-- R145: start fetching a SPILLED page, element block and scale block, into newly allocated T1 blocks, where there is room. -/
def State.startFetch (s : State) (v k : Nat) : State :=
  match s.vi? v with
  | none => s
  | some x =>
    match tget x.kv.pages k with
    | none => s
    | some p =>
      match p.state, p.t2, x.kv.t1.takePair? p.mElem p.mScale with
      | .spilled, some (r, b), some (t1, a) =>
        let s := s.modVi v (fun x => { x.modPage k (fun p => { p with state := .fetching, t1 := some t1 }) with
          kv := { (x.modPage k (fun p => { p with state := .fetching, t1 := some t1 })).kv with t1 := a } })
        let base := ((tget x.regions r).map Region.addr).getD 0
        (s.rdma v (x.regionConn r) (.fetch k false) false (base + b.elem) (blockBytes p.mElem) 0 []).rdma v (x.regionConn r)
          (.fetch k true) false (base + b.scale) (blockBytes p.mScale) 0 []
      | _, _, _ => s

/-- The drop records that concern a sequence, lowest page index first. -/
def Vi.dropsOf (x : Vi) (q : Nat) : List Drop :=
  sortBy (fun a b => decide (a.index < b.index)) (x.kv.drops.filter (fun d => d.seqs.contains q))

/-- Whether a layer holds RESIDENT pages of a sequence for every position of a range. -/
def Vi.holdsRange (x : Vi) (sq : Seq) (layer lo hi : Nat) : Bool :=
  let t := sq.pages.getD layer []
  decide (hi ≤ lo) || (List.range (hi / sq.pagePos + 1)).all (fun i =>
    decide (i < lo / sq.pagePos) || decide (hi ≤ i * sq.pagePos) ||
      (match tget t i with
       | none => false
       | some k => ((tget x.kv.pages k).map Page.state) == some .resident))

/-- R147: the positions a layer needs before a position: from max(0, a − W + 1), or all. -/
def windowStart (w a : Nat) : Nat := if w = 0 then 0 else a + 1 - w

/-- R147: where the recompute of positions from a on starts: the lowest position for which every layer holds what it reads.
Log entry 16 (DEDUCED). -/
def Vi.recomputeStart (x : Vi) (sq : Seq) (a : Nat) : Nat :=
  ((List.range (a + 1)).find? (fun a0 =>
    (List.range x.layers.length).all (fun l =>
      x.holdsRange sq l (windowStart (x.layers.getD l ⟨0, 0, 0⟩).window a0) a0))).getD 0

/-- A step as it is created: waiting, nothing bound (R94). -/
def Step.waiting (v q : Nat) (kind : StepKind) (entry : Option Nat) (place : Place5) (tokens : List Nat) : Step :=
  { vi := v, seq := q, kind := kind, entry := entry, stamp := place.stamp, lport := place.lport, queue := place.queue,
    dist := place.dist, failIfHeld := false, tokens := tokens, targets := [], lossScale := 0, sample := false,
    samp := none, adm := none, gen := 0, adp := none, group := 0, p0 := 0, keepFrom := 0, keepTo := 0, t0 := [],
    layerCopies := [], train := 0, toks := [], staged := [], pins := [], reserved := [], copies := [], tail := [], ending := false,
    crossed := false, closed := false, kept := none, ranOut := false,
    loss := .zero, saved := [], grads := [], dkv := [], restarts := [] }

/-- A new step in the table. -/
def State.addStep (s : State) (t : Step) : State :=
  { s with steps := tset s.steps s.nextStep t, nextStep := s.nextStep + 1 }

/-- R146, R147: where the positions of a drop record end that some holder's token log still has. Log entry 16 (DEDUCED). -/
def Vi.dropEnd (x : Vi) (d : Drop) : Nat := min (d.last + 1) (d.seqs.foldl (fun m q => max m (((tget x.seqs q).map Seq.p).getD 0)) 0)

/-- R147: where a recompute ends: past the first drop record, and past each that follows it without a gap.
Log entry 16 (DEDUCED). -/
def Vi.recomputeEnd (x : Vi) (d : Drop) (ds : List Drop) : Nat := ds.foldl (fun e n => if n.first = e then x.dropEnd n else e) (x.dropEnd d)

/-- R147: the part of a recompute that starts at a position: an internal step of 8,192 positions at most, with what earlier parts
staged. Log entry 16 (DEDUCED). -/
def recomputePart (v q : Nat) (sq : Seq) (place : Place5) (p0 lo hi : Nat) (staged : List (Nat × Nat × KvRow)) : Step :=
  { Step.waiting v q .recompute none place ((sq.tokens.drop p0).take (min 8192 (hi - p0))) with
    p0 := p0, keepFrom := lo, keepTo := hi, staged := staged }

/-- R147: the sequence whose token log a recompute of a record reads: the one that waits where its log reaches to the end, else
the first holder whose log does. Log entry 16 (DEDUCED). -/
def Vi.logOf (x : Vi) (q : Nat) (d : Drop) : Nat :=
  ((q :: d.seqs).find? (fun o => decide (x.dropEnd d ≤ ((tget x.seqs o).map Seq.p).getD 0))).getD q

/-- R147: start the recompute of the lowest dropped positions of a sequence, unless one runs. Log entry 16 (DEDUCED). -/
def State.spawnRecompute (s : State) (v q : Nat) (place : Place5) : State :=
  match s.vi? v with
  | none => s
  | some x =>
    match x.dropsOf q with
    | [] => s
    | d :: ds =>
      if s.steps.any (fun e => e.2.vi == v && d.seqs.contains e.2.seq && e.2.kind == .recompute && !e.2.ending) then s
      else
        let r := x.logOf q d
        match tget x.seqs r with
        | none => s
        | some sq => s.addStep (recomputePart v r sq place (x.recomputeStart sq d.first) d.first
            (x.recomputeEnd d (ds.filter (fun e => e.seqs.contains r && decide (x.dropEnd e ≤ sq.p)))) [])

/-- R144: a command for a sequence arrives: its spills are cancelled. -/
def State.cancelSpills (s : State) (v q : Nat) : State :=
  match s.vi? v with
  | none => s
  | some x => (x.seqPages q).foldl (fun s p => s.cancelSpill v p.1) s

/-- R144, R145, R147: a command that needs a sequence's pages arrives: spills are cancelled, fetches and recompute start. -/
def State.touchSeq (s : State) (v q : Nat) (place : Place5) : State :=
  match s.vi? v with
  | none => s
  | some x =>
    let s := (x.seqPages q).foldl (fun s p => if p.2.state = .spilled then s.startFetch v p.1 else s) (s.cancelSpills v q)
    s.spawnRecompute v q place

def Cmd.place (s : State) (c : Cmd) : Place5 :=
  ((s.entry? c.vi c.entry).map (entryPlace c.vi)).getD ⟨c.ts, c.lport, c.vi, c.queue, 0⟩

/-! ### SEQ_OPEN (R280, R118, R130, R148, R167) -/

/-- R161, R240: bytes of DIGITAL_MIB that an adapter set takes. -/
def AdpSet.bytes (a : AdpSet) : Nat := sumNat (a.tensors.map (fun t => 20 * t.rows * t.cols))
/-- R240, R280: bytes of DIGITAL_MIB in use: resident sections, adapter sets, sequence records and token logs. Log entry 13
(DESIGN CHOICE). -/
def Vi.digitalUsed (x : Vi) : Nat :=
  (((x.img.image.map Image.residentMib).getD 0) + (((x.img.op.bind ImgOp.image).map Image.residentMib).getD 0)) * 1048576 +
    sumNat (x.sets.map (fun a => a.2.bytes)) +
    sumNat (x.seqs.map (fun q => Config.seqBytes q.2.tokens.length)) + (if x.pair.role = 0 then 0 else 65 * 1048576)

/-- R148: share the first n positions of a source with a new sequence; it joins the drop records that the source holds of them. -/
def State.sharePages (s : State) (v src child : Nat) (sq : Seq) (n : Nat) : State :=
  let tables := sq.pages.map (fun t => t.filter (fun e => decide (e.1 * sq.pagePos < n)))
  let ks := tables.flatMap tvals
  let s := ks.foldl (fun s k => s.modVi v (fun x => x.modPage k (fun p => { p with refs := p.refs ++ [child] }))) s
  s.modVi v (fun x =>
    { x with seqs := tmod x.seqs child (fun c => { c with pages := tables, p := n, tokens := sq.tokens.take n, last := (sq.tokens.take n).getLast? }),
             kv := { x.kv with drops := x.kv.drops.map (fun d =>
               if d.first < n ∧ d.seqs.contains src then { d with seqs := d.seqs ++ [child] } else d) } })

/-- R355: the effective record of a sequence, in the layout of SEQ_OPEN's request. -/
def seqOpenBytes (q src n : Nat) (sq : Seq) : List Byte :=
  le 4 q ++ le 4 src ++ le 4 n ++ le 4 sq.ctx ++ le 2 sq.pagePos ++ le 1 sq.fmt ++ le 1 (b2n sq.train) ++ le 2 (sq.set.getD 0xFFFF) ++
    le 2 sq.samp.topK ++ le 4 sq.samp.temperature.toNat ++ le 4 sq.samp.topP.toNat ++ le 4 sq.samp.minP.toNat

/-- SEQ_OPEN takes effect: the findings of R280 in their order, or the new sequence. -/
def doSeqOpen (s : State) (c : Cmd) (x : Vi) : State × Option (Nat × List Byte) :=
  let q := leAt c.pay 0 4
  let src := leAt c.pay 4 4
  let ctx := openCtx c.pay
  let pos := openPos c.pay
  let fmt := openFmt c.pay
  let train := bitOf (leAt c.pay 19 1) 0
  let set := leAt c.pay 20 2
  let m := samplingAt c.pay 22 24
  let n := match tget x.seqs src with
    | none => 0
    | some o => min (leAt c.pay 8 4) (min o.p ctx)
  let bad := fun st => (s, some (st, openReply c.pay 0))
  let setOpt := if set = 0xFFFF then none else some set
  if q = 0xFFFFFFFF ∨ 1 < fmt ∨ (src ≠ 0xFFFFFFFF ∧ !thas x.seqs src) ∨
      (set ≠ 0xFFFF ∧ ((tget x.sets set).map AdpSet.damaged) != some false) then bad stNoObject
  else if thas x.seqs q || (train && set == 0xFFFF) || x.img.gen == 0 ||
      (match tget x.seqs src with
       | none => false
       | some o => o.train || o.pagePos != pos || o.fmt != fmt || o.set != setOpt) then bad stNotPermitted
  else if sumNat (s.vis.map (fun e => e.2.seqs.length)) ≥ Config.maxSequences ∨
      x.digitalUsed + Config.seqBytes n > x.part.digital * 1048576 then bad stNoResource
  else
    let sq : Seq :=
      { p := 0, ctx := ctx, pagePos := pos, fmt := fmt, train := train, set := setOpt, samp := m, tokens := [], last := none,
        pinned := false, lastCpl := 0, opened := c.ts, pages := x.layers.map (fun _ => []), saved := none }
    let s := s.modVi c.vi (fun x => { x with seqs := tset x.seqs q sq })
    let s := match tget x.seqs src with
      | none => s
      | some o => s.sharePages c.vi src q o n
    (s.emit c.vi (some q) false (.seqOpen (seqOpenBytes q (if thas x.seqs src then src else 0xFFFFFFFF) n sq)),
      some (stOk, openReply c.pay n))

/-- SEQ_OPEN (R280): with a prefix, after the source's earlier commands (R148, R93), and after those of its adapter set (R165);
else at its stamp. Log entry 13 (DESIGN CHOICE). -/
def effSeqOpen : Effect := fun s c =>
  match s.vi? c.vi with
  | none => (s, none)
  | some x =>
    let src := leAt c.pay 4 4
    let set := leAt c.pay 20 2
    let s := s.cancelSpills c.vi src
    if src ≠ 0xFFFFFFFF ∧ (thas x.seqs src ∨ s.seqComing c.vi src (c.place s)) ∧ s.blocked93 c.vi src (c.place s) then (s, none)
    else if set ≠ 0xFFFF ∧ setBlocked c.vi x set (c.place s) then (s, none)
    else doSeqOpen s c ((s.vi? c.vi).getD x)

def execSeqOpen (p : Packet) (s : State) : Host.Outcome State Fault Refusal := .next (s.takeAs 0x0401 p noStatic effSeqOpen)

/-! ### SEQ_FORK, SEQ_CLOSE, SEQ_QUERY (R148, R156, R283) -/

/-- SEQ_FORK (R148, R93): waits for the parent's earlier commands, then shares every committed page.
Log entry 13 (DESIGN CHOICE). -/
def effSeqFork : Effect := fun s c =>
  let q := leAt c.pay 0 4
  let child := leAt c.pay 4 4
  let s := s.cancelSpills c.vi q
  let bad := fun st => (s, some (st, le 4 child ++ zeros 4))
  match s.vi? c.vi with
  | none => (s, none)
  | some x =>
    if s.blocked93 c.vi q (c.place s) then (s, none)
    else match tget x.seqs q with
    | none => bad stNoObject
    | some sq =>
      if child = 0xFFFFFFFF then bad stNoObject
      else if thas x.seqs child ∨ sq.train then bad stNotPermitted
      else if sumNat (s.vis.map (fun e => e.2.seqs.length)) ≥ Config.maxSequences ∨
          x.digitalUsed + Config.seqBytes sq.tokens.length > x.part.digital * 1048576 then bad stNoResource
      else
        let s := s.modVi c.vi (fun x => { x with seqs := tset x.seqs child { sq with pinned := false, lastCpl := 0, opened := c.ts, saved := none } })
        ((s.sharePages c.vi q child sq sq.p).emit c.vi (some q) false (.seqFork child), some (stOk, le 4 child ++ le 4 sq.p))

def execSeqFork (p : Packet) (s : State) : Host.Outcome State Fault Refusal := .next (s.takeAs 0x0403 p noStatic effSeqFork)

/-- SEQ_CLOSE (R156, R347, R348): acts at once and completes when its steps have ended. -/
def effSeqClose : Effect := fun s c =>
  let q := leAt c.pay 0 4
  match s.vi? c.vi with
  | none => (s, none)
  | some x =>
    if !thas x.seqs q then (s, some (stNoObject, le 4 q ++ zeros 4))
    else
      let r := s.closeSeq c.vi q
      let s := r.1.modVi c.vi (fun x => { x with ends := x.ends ++ [⟨c.entry, r.2, some q, none, r.2.length⟩] })
      (s.endWaits c.vi, none)

def execSeqClose (p : Packet) (s : State) : Host.Outcome State Fault Refusal := .next (s.takeAs 0x0404 p noStatic effSeqClose)

/-- R283: pages of a sequence in given states; a page in transfer counts in the state it is leaving. -/
def Vi.countPages (x : Vi) (q : Nat) (ps : List PageState) : Nat := ((x.seqPages q).filter (fun p => ps.contains p.2.state)).length

/-- SEQ_QUERY (R283). -/
def effSeqQuery : Effect := fun s c =>
  let q := leAt c.pay 0 4
  let s := s.cancelSpills c.vi q
  match s.vi? c.vi with
  | none => (s, none)
  | some x =>
    match tget x.seqs q with
    | none => (s, some (stNoObject, le 4 q ++ zeros 32))
    | some sq =>
      let inFlight := s.steps.any (fun e => e.2.vi == c.vi && e.2.seq == q && e.2.adm.isSome && !e.2.closed)
      (s, some (stOk, le 4 q ++ le 4 sq.p ++ le 1 (b2n inFlight) ++ le 1 (b2n sq.pinned) ++ le 1 (b2n sq.train) ++ zeros 1 ++
        le 4 (x.countPages q [.resident, .spilling]) ++ le 4 (x.countPages q [.spilled, .fetching]) ++
        le 4 (x.countPages q [.dropped]) ++ le 2 (sq.set.getD 0xFFFF) ++ zeros 2 ++ le 8 sq.lastCpl))

def execSeqQuery (p : Packet) (s : State) : Host.Outcome State Fault Refusal := .next (s.takeAs 0x0405 p noStatic effSeqQuery)

/-! ### Making room (R143, R144, R146) -/

/-- R144: start the spill of a RESIDENT page's two blocks into T2 blocks, where the quota and the arenas have room and the
region's connection is not in error. -/
def State.startSpill (s : State) (v k : Nat) : State :=
  match s.vi? v with
  | none => s
  | some x =>
    match tget x.kv.pages k with
    | none => s
    | some p =>
      let n := blockBytes p.mElem + blockBytes p.mScale
      let found := x.kv.t2.findSome? (fun a =>
        if s.connOk v (x.regionConn a.1) then (a.2.takePair? p.mElem p.mScale).map (fun r => (a.1, r.1, r.2)) else none)
      match p.state, p.t1, found with
      | .resident, some b, some (r, t2, a) =>
        if p.pins ≠ [] ∨ x.kv.t2Bytes + n > x.part.remote * 1048576 then s
        else
          let s := s.modVi v (fun x =>
            let y := x.modPage k (fun p => { p with state := .spilling, t2 := some (r, t2) })
            { y with kv := { y.kv with t2 := tset y.kv.t2 r a, t2Bytes := y.kv.t2Bytes + n } })
          let base := ((tget x.regions r).map Region.addr).getD 0
          (s.rdma v (x.regionConn r) (.spill k false) true (base + t2.elem) (blockBytes p.mElem) 0
            (memRead s.hbm (t1Base v + b.elem) (blockBytes p.mElem))).rdma v (x.regionConn r) (.spill k true) true (base + t2.scale)
            (blockBytes p.mScale) 0 (memRead s.hbm (t1Base v + b.scale) (blockBytes p.mScale))
      | _, _, _ => s

/-- Whether a page has a transfer of the present tag outstanding. -/
def State.moving (s : State) (v : Nat) (x : Vi) (which : Xfer → Bool) : Bool :=
  x.conns.any (fun c => c.2.out.any (fun t => which t && t.viGen == s.viTag v))

/-- R144, R245: a spill transfer of a page has ended and its record is gone; `current` tells whether its outcome counts. Once both
blocks are written the page is SPILLED and its T1 blocks are freed, and a page that nothing references any more goes. -/
def State.spillDone (s : State) (v k : Nat) (current : Bool) : State :=
  match s.vi? v with
  | none => s
  | some x =>
    match tget x.kv.pages k with
    | none => s
    | some p =>
      if p.state ≠ .spilling ∨ p.refs = [] then s.releasePage v k
      else if s.moving v x (fun t => t.spills k) then s
      else if !current then s.cancelSpill v k
      else match p.t1 with
        | some b => (s.freeT1 v p.mElem p.mScale b).modVi v (fun x => x.modPage k (fun p => { p with state := .spilled, t1 := none }))
        | none => s

/-- R145: data of one block of a page that is being fetched. -/
def State.fetchBlock (s : State) (v k : Nat) (scale : Bool) (data : List Byte) : State :=
  match (s.vi? v).bind (fun x => tget x.kv.pages k) with
  | none => s
  | some p =>
    match p.state, p.t1 with
    | .fetching, some b =>
      { s with hbm := memWrite s.hbm (t1Base v + if scale then b.scale else b.elem)
                 (bytesAt data 0 (blockBytes (if scale then p.mScale else p.mElem))) }
    | _, _ => s

/-- R145, R156, R245: a fetch transfer of a page has ended and its record is gone: once both blocks are read the page is
RESIDENT; a page that nothing references goes, and one whose reads carry an older tag is SPILLED again. -/
def State.fetchDone (s : State) (v k : Nat) (current : Bool) : State :=
  match s.vi? v with
  | none => s
  | some x =>
    match tget x.kv.pages k with
    | none => s
    | some p =>
      if p.state ≠ .fetching ∨ p.refs = [] then s.releasePage v k
      else if s.moving v x (fun t => t.fetches k) then s
      else if current then s.modVi v (fun x => (x.freeT2 p).modPage k (fun p => { p with state := .resident, t2 := none }))
      else match p.t1 with
        | some b => (s.freeT1 v p.mElem p.mScale b).modVi v (fun x => x.modPage k (fun p => { p with state := .spilled, t1 := none }))
        | none => s

/-- The requests on the wire that a condition names, with their connections. -/
def Vi.xfersOf (x : Vi) (which : Xfer → Bool) : List (Nat × Xfer) :=
  x.conns.flatMap (fun c => (c.2.out.filter (fun t => t.sent && which t)).map (fun t => (c.1, t)))

/-- SPILL_COMPLETE: the transfers of a page's spill have ended. -/
def State.spillEnds (s : State) (v k : Nat) : State :=
  match s.vi? v with
  | none => s
  | some x => (x.xfersOf (fun t => t.spills k)).foldl (fun s e =>
      (s.popXfer v e.1 e.2).spillDone v k (e.2.viGen == s.viTag v)) s

/-- FETCH_COMPLETE: the transfers of a page's fetch have ended, with the bytes of both blocks, elements first. -/
def State.fetchEnds (s : State) (v k : Nat) (data : List Byte) : State :=
  match s.vi? v with
  | none => s
  | some x =>
    let n := ((tget x.kv.pages k).map (fun p => blockBytes p.mElem)).getD 0
    (x.xfersOf (fun t => t.fetches k)).foldl (fun s e =>
      let scale := e.2.purpose == .fetch k true
      let current := e.2.viGen == s.viTag v
      let s := s.popXfer v e.1 e.2
      (if current then s.fetchBlock v k scale (if scale then data.drop n else data) else s).fetchDone v k current) s

/-- R143, R167: whether a sequence is held against spill and drop. -/
def Seq.held (q : Seq) : Bool := q.pinned || q.saved.isSome

/-- R143 item 1: private RESIDENT pages of idle sequences, the sequence whose last step completed earliest first. -/
def State.spillCandidates (s : State) (v : Nat) (x : Vi) : List Nat :=
  let idle := x.seqs.filter (fun q => s.seqIdle v q.1 && !q.2.held)
  (sortBy (fun a b => decide (a.2.lastCpl < b.2.lastCpl)) idle).flatMap (fun q =>
    ((x.seqPages q.1).filter (fun p => p.2.refs.length == 1 && p.2.state == .resident && p.2.pins.isEmpty)).map Prod.fst)

/-- R146: the pages that a drop takes: every one at an index, in every layer, that the dropping sequences reference. -/
def Vi.dropSet (x : Vi) (index : Nat) (seqs : List Nat) : List (Nat × Page) :=
  x.kv.pages.filter (fun e => e.2.index == index && e.2.state != .dropped && e.2.refs.any seqs.contains)

/-- R143 item 2: a page that may go: at rest, without a step pin, its sequences idle and none of them held.
Log entry 121 (DEDUCED). -/
def State.mayDrop (s : State) (v : Nat) (x : Vi) (p : Page) : Bool :=
  (p.state == .resident || p.state == .spilled) && p.pins.isEmpty &&
    p.refs.all (fun q => s.seqIdle v q && ((tget x.seqs q).map Seq.held) == some false)

/-- R143 item 2, R146: shared RESIDENT pages that may go with all that a drop takes, highest index first within a prefix. Log
entry 121 (DEDUCED). -/
def State.dropCandidates (s : State) (v : Nat) (x : Vi) : List (Nat × Page) :=
  let ok := x.kv.pages.filter (fun p => decide (2 ≤ p.2.refs.length) && p.2.state == .resident &&
    (x.dropSet p.2.index p.2.refs).all (fun e => s.mayDrop v x e.2))
  let newest := fun (p : Page) => p.refs.foldl (fun m q => max m (((tget x.seqs q).map Seq.lastCpl).getD 0)) 0
  sortBy (fun a b => decide (newest a.2 < newest b.2) || (newest a.2 == newest b.2 && decide (b.2.index < a.2.index))) ok

/-- R146: a page is dropped: its blocks are freed. -/
def State.dropPage (s : State) (v k : Nat) (p : Page) : State :=
  let s := match p.t1 with
    | some b => s.freeT1 v p.mElem p.mScale b
    | none => s
  s.modVi v (fun x => (x.freeT2 p).modPage k (fun p => { p with state := .dropped, t1 := none, t2 := none }))

/-- R146: drop the pages of an index, with one drop record for every sequence that references any of it. -/
def State.dropIndex (s : State) (v index : Nat) (dropping : List Nat) : State :=
  match s.vi? v with
  | none => s
  | some x =>
    let gone := x.dropSet index dropping
    let seqs := distinct (gone.flatMap (fun e => e.2.refs))
    let pos := ((seqs.head?.bind (fun q => tget x.seqs q)).map Seq.pagePos).getD 16
    let fill := gone.foldl (fun m e => max m e.2.fill) 0
    let s := gone.foldl (fun s e => s.dropPage v e.1 e.2) s
    s.modVi v (fun x => { x with kv := { x.kv with drops := x.kv.drops ++
      [⟨index, index * pos, index * pos + fill - 1, seqs⟩] } })

/-- R143: a spill of the next private page of an idle sequence, else the drop of a shared page, else nothing. -/
def State.reclaimT1 (s : State) (v : Nat) : State :=
  match s.vi? v with
  | none => s
  | some x =>
    let spill := (s.spillCandidates v x).find? (fun k => ((((s.startSpill v k).vi? v).bind (fun y => tget y.kv.pages k)).map Page.state) == some .spilling)
    match spill, s.dropCandidates v x with
    | some k, _ => s.startSpill v k
    | none, p :: _ => s.dropIndex v p.2.index p.2.refs
    | none, [] => s

/-! ### Host control of residency (R153–R155) -/

/-- R153: bytes of the pages pinned in a VI, those of one more sequence included; a page that several share counts once. -/
def Vi.pinnedBytes (x : Vi) (q : Nat) : Nat :=
  let mine := x.kv.pages.filter (fun p => p.2.refs.any (fun o => o == q || ((tget x.seqs o).map Seq.held) == some true))
  sumNat (mine.map (fun p => blockBytes p.2.mElem + blockBytes p.2.mScale))

/-- Pages of a sequence that are not RESIDENT. -/
def Vi.awayPages (x : Vi) (q : Nat) : Nat := ((x.seqPages q).filter (fun p => p.2.state != .resident)).length

/-- KV_PIN (R93, R153). The pages counted are those that were away when the command took effect. -/
def effKvPin : Effect := fun s c =>
  let q := leAt c.pay 0 4
  let on := bitOf (leAt c.pay 4 1) 0
  let s := s.cancelSpills c.vi q
  match s.vi? c.vi with
  | none => (s, none)
  | some x =>
    if s.blocked93 c.vi q (c.place s) then (s, none)
    else match tget x.seqs q with
    | none => (s, some (stNoObject, le 4 q ++ zeros 4))
    | some sq =>
      if !on then
        ((s.modVi c.vi (fun x => x.modSeq q (fun sq => { sq with pinned := false }))).emit c.vi (some q) false (.kvPin false),
          some (stOk, le 4 q ++ zeros 4))
      else if !sq.held ∧ 2 * x.pinnedBytes q > x.kv.t1.size then (s, some (stNoResource, le 4 q ++ zeros 4))
      else
        let away := x.awayPages q
        let s := ((s.modVi c.vi (fun x => x.modSeq q (fun sq => { sq with pinned := true }))).emit c.vi (some q) (decide (away ≠ 0))
          (.kvPin true)).touchSeq c.vi q (c.place s)
        if away = 0 then (s, some (stOk, le 4 q ++ le 4 0))
        else (s.modEntry c.vi c.entry (fun e => { e with state := .running, payload := le 4 q ++ le 4 away }), none)

def execKvPin (p : Packet) (s : State) : Host.Outcome State Fault Refusal := .next (s.takeAs 0x0501 p noStatic effKvPin)

/-- R154: private pages of a sequence that are RESIDENT. -/
def Vi.privateResident (x : Vi) (q : Nat) : List Nat :=
  ((x.seqPages q).filter (fun p => p.2.refs.length == 1 && p.2.state == .resident)).map Prod.fst

/-- KV_EVICT (R154): waits for earlier commands of the sequence, then spills every private page at once; it completes when
their transfers have. -/
def effKvEvict : Effect := fun s c =>
  let q := leAt c.pay 0 4
  let s := s.cancelSpills c.vi q
  let bad := fun st => (s, some (st, le 4 q ++ zeros 4))
  match s.vi? c.vi with
  | none => (s, none)
  | some x =>
    if s.blocked93 c.vi q (c.place s) then (s, none)
    else match tget x.seqs q with
    | none => bad stNoObject
    | some sq =>
      if sq.held then bad stNotPermitted
      else
        let ks := x.privateResident q
        let need := sumNat (ks.map (fun k => ((tget x.kv.pages k).map (fun p => blockBytes p.mElem + blockBytes p.mScale)).getD 0))
        if x.part.remote = 0 ∨ x.kv.t2Bytes + need > x.part.remote * 1048576 then bad stNoResource
        else
          let t := ks.foldl (fun s k => s.startSpill c.vi k) s
          let all := ks.all (fun k => (((t.vi? c.vi).bind (fun y => tget y.kv.pages k)).map Page.state) == some .spilling)
          if !all then bad stNoResource
          else if ks = [] then (s, some (stOk, le 4 q ++ le 4 0))
          else (t.modEntry c.vi c.entry (fun e => { e with state := .running, payload := le 4 q ++ le 4 ks.length }), none)

def execKvEvict (p : Packet) (s : State) : Host.Outcome State Fault Refusal := .next (s.takeAs 0x0502 p noStatic effKvEvict)

/-- KV_PREFETCH (R93, R155): the fetches and the recompute start; OK follows when every page is RESIDENT. -/
def effKvPrefetch : Effect := fun s c =>
  let q := leAt c.pay 0 4
  let s := s.cancelSpills c.vi q
  match s.vi? c.vi with
  | none => (s, none)
  | some x =>
    if s.blocked93 c.vi q (c.place s) then (s, none)
    else if !thas x.seqs q then (s, some (stNoObject, le 4 q ++ zeros 4))
    else
      let away := x.awayPages q
      let s := s.touchSeq c.vi q (c.place s)
      if away = 0 then (s, some (stOk, le 4 q ++ le 4 0))
      else (s.modEntry c.vi c.entry (fun e => { e with state := .running, payload := le 4 q ++ le 4 away }), none)

def execKvPrefetch (p : Packet) (s : State) : Host.Outcome State Fault Refusal :=
  .next (s.takeAs 0x0503 p noStatic effKvPrefetch)

end Sys2Proof.Machine
end

