-- ==== Sys2Proof/Machine/Admit.lean ====
section
/-! DEFINITION. Steps on their way into the pipeline: SEQ_STEP (R90, R91, R281), eligibility and its failures (R92, R94,
R139, R172, R185), the shares of the repeat budget (R227), and STEP_ADMIT (R96, R97). -/
namespace Sys2Proof.Machine

/-! ### SEQ_STEP (R90, R91, R281) -/

/-- R208, R212: the VI is held at a barrier. -/
def ImgState.held (m : ImgState) : Bool :=
  (m.op.map (fun o => o.kind != .load && (o.kept || [Phase.barrier, Phase.restore, Phase.erase, Phase.lift].contains o.phase))).getD false

/-- The vocabulary of the VI's image; without an image, no token is too large. -/
def Vi.vocab (x : Vi) : Nat := ((x.img.image.map Image.vocab)).getD (2 ^ 32)

/-- The tokens of a payload: n identifiers from an offset on. -/
def tokensAt (pay : List Byte) (off n : Nat) : List Nat := (List.range n).map (fun i => leAt pay (off + 4 * i) 4)

/-- R91: whether a token count fits its kind. -/
def kindCount (kind n : Nat) : Bool :=
  if kind = 0 then n == 1 else if kind = 1 then decide (1 ≤ n) && decide (n ≤ 8192) else decide (2 ≤ n) && decide (n ≤ 16)

/-- R93: a sequence that is open, or that an earlier command will open. -/
def State.seqOpen (s : State) (v : Nat) (x : Vi) (q : Nat) (at_ : Place5) : Bool := thas x.seqs q || s.seqComing v q at_

/-- R91, R93, R281: the findings that reject a SEQ_STEP. Log entry 88 (DEDUCED). -/
def staticSeqStep : StaticCheck := fun s c =>
  match s.vi? c.vi with
  | none => none
  | some x =>
    let kind := leAt c.pay 4 1
    let n := leAt c.pay 6 2
    let rep := bareStepReply 0x0402 c.pay c.ts x x.img.gen
    if kind > 2 then some (stNoObject, rep)
    else if !kindCount kind n then some (stBadLength, rep)
    else if (tokensAt c.pay 24 n).any (fun t => decide (x.vocab ≤ t)) ∨ !s.seqOpen c.vi x (leAt c.pay 0 4) (c.place s) then
      some (stNoObject, rep)
    else none

/-- R208: a step-class command with FAIL_IF_HELD that meets a barrier. -/
def Cmd.failIfHeld (c : Cmd) : Bool := bitOf c.flags 3

/-- SEQ_STEP (R281): the step waits for admission; what its sequence needs starts to come (R144, R145, R147). -/
def effSeqStep : Effect := fun s c =>
  match s.vi? c.vi with
  | none => (s, none)
  | some x =>
    if x.img.held ∧ c.failIfHeld then (s, some (stHeld, bareStepReply 0x0402 c.pay c.ts x x.img.gen))
    else
      let kind := leAt c.pay 4 1
      let fl := leAt c.pay 5 1
      let place := c.place s
      let s := s.touchSeq c.vi (leAt c.pay 0 4) place
      let k : StepKind := if kind = 0 then .decode else if kind = 1 then .prefill else .verify
      let t := Step.waiting c.vi (leAt c.pay 0 4) k (some c.entry) place (tokensAt c.pay 24 (leAt c.pay 6 2))
      (s.addStep { t with failIfHeld := c.failIfHeld, sample := bitOf fl 0,
                          samp := if bitOf fl 1 then some (samplingAt c.pay 8 12) else none }, none)

def execSeqStep (p : Packet) (s : State) : Host.Outcome State Fault Refusal :=
  .next (s.takeAs 0x0402 p staticSeqStep effSeqStep)

/-! ### Classes and limits (R90, R94–R96, R122) -/

/-- R90: the decode class. -/
def StepKind.decodeClass : StepKind → Bool
  | .decode => true
  | .verify => true
  | _ => false

def Step.inFlight (t : Step) : Bool := t.adm.isSome

/-- Steps in flight: of the device, of a VI, of a VI's prefill class. -/
def State.inFlight (s : State) : Nat := (s.steps.filter (fun e => e.2.inFlight)).length
def State.viInFlight (s : State) (v : Nat) : Nat := (s.steps.filter (fun e => e.2.inFlight && e.2.vi == v)).length
def State.viPrefill (s : State) (v : Nat) : Nat :=
  (s.steps.filter (fun e => e.2.inFlight && e.2.vi == v && !e.2.kind.decodeClass)).length

/-- R408: ADMIT_LIMIT in force. -/
def PwrBlk.admitLimit (p : PwrBlk) : Option Nat :=
  match p.govAdmit, p.thermAdmit with
  | some a, some b => some (min a b)
  | some a, none => some a
  | none, b => b

/-- R94 item 6: room under the admission limit in this beat. -/
def PwrBlk.admitRoom (p : PwrBlk) : Bool :=
  match p.admitLimit with
  | none => true
  | some n => decide (lget p.admitted 0 0 < n)

/-- R403, R343: the device admits steps at all: in Run or Trim, not draining, not out of service. -/
def State.admitting (s : State) : Bool := decide (s.pwr.state ≤ 1) && s.pwr.want.isNone && s.pins.mainUp && !s.err.outOfService

/-- R96, R306: the priority class a step counts as: 7 once 16 beat boundaries have passed since its command's stamp. -/
def State.classOf (s : State) (t : Step) : Nat :=
  if 16 ≤ ((t.entry.bind (s.entry? t.vi)).map Entry.beats).getD 0 then 7
  else (((s.vi? t.vi).bind (fun x => tget x.queues t.queue)).map Queue.cls).getD 0

/-- R96, R122: whether a step goes before another. -/
def State.admitLt (s : State) (a b : Step) : Bool :=
  if s.pwr.admitLimit.isSome ∧ a.kind.decodeClass ≠ b.kind.decodeClass then a.kind.decodeClass
  else if s.classOf a ≠ s.classOf b then decide (s.classOf b < s.classOf a)
  else orderLt (stepPlace a) (stepPlace b)

/-! ### Reservation (R139) -/

/-- What a step takes with it at admission. -/
structure Plan where
  arena : Arena
  reserved : List (Nat × Nat × Nat × Nat × BlockPair)
  copies : List (Nat × Nat × Nat × BlockPair)
  tail : List (Nat × Nat)
  t0 : List (Nat × Nat)
  group : Nat
  train : Nat
deriving DecidableEq, Repr

/-- What becomes of a waiting step now. -/
inductive Admission where
  | wait
  | fail (status : Nat)
  | go (p : Plan)
deriving DecidableEq, Repr

/-- Block orders of a page of a layer. -/
def pageOrders (l : KvLayer) (fmt pos : Nat) : Nat × Nat :=
  (blockOrder (elemBytes l fmt pos), blockOrder (scaleBytes l fmt pos))

/-- Page indices that a step from P with n positions opens anew. -/
def newPages (pos p n : Nat) : List Nat := (List.range (ceilDiv (p + n) pos)).filter (fun i => decide (ceilDiv p pos ≤ i))

/-- R139: a block pair per layer and new page index. -/
def reservePages (a : Arena) (fmt pos : Nat) (pages : List ((Nat × KvLayer) × Nat)) :
    Option (Arena × List (Nat × Nat × Nat × Nat × BlockPair)) :=
  pages.foldl (fun acc li =>
    match acc with
    | none => none
    | some (a, got) =>
      let o := pageOrders li.1.2 fmt pos
      match a.takePair? o.1 o.2 with
      | none => none
      | some (b, a') => some (a', got ++ [(li.1.1, li.2, o.1, o.2, b)])) (some (a, []))

/-- R139: a block pair per layer whose tail page is shared. -/
def reserveCopies (a : Arena) (ls : List (Nat × KvLayer)) (fmt pos : Nat) (shared : Nat → Bool) :
    Option (Arena × List (Nat × Nat × Nat × BlockPair)) :=
  ls.foldl (fun acc l =>
    match acc with
    | none => none
    | some (a, got) =>
      if !shared l.1 then some (a, got)
      else
        let o := pageOrders l.2 fmt pos
        match a.takePair? o.1 o.2 with
        | none => none
        | some (b, a') => some (a', got ++ [(l.1, o.1, o.2, b)])) (some (a, []))

/-- R97, R137: the home group: the most free T0 in the VI's shares, the lowest number among equals. Log entry 20 (DEDUCED). -/
def State.homeGroup (s : State) (v : Nat) (x : Vi) : Nat :=
  (bestBy (fun a b => decide (s.t0Free v x b < s.t0Free v x a)) x.groups).getD 0

/-- R139: the pages a step reads at a layer: those of its window, or all. -/
def readPages (sq : Seq) (layer window p : Nat) : List Nat :=
  ((sq.pages.getD layer []).filter (fun e => decide (windowStart window p < (e.1 + 1) * sq.pagePos) &&
    decide (e.1 * sq.pagePos < p))).map Prod.snd

/-- Pages a step pins, over all layers. -/
def Vi.pinSet (x : Vi) (sq : Seq) (p : Nat) : List Nat :=
  (List.range x.layers.length).flatMap (fun l => readPages sq l (x.layers.getD l ⟨0, 0, 0⟩).window p)

/-- R172: bytes per token that ADP_FWD_SAVE saves (R171). -/
def savedBytes (prog : List Desc) : Nat :=
  sumNat (prog.map (fun d =>
    match dKind d with
    | 2 => 4 * dIn d + (if leAt d 36 1 = 1 then 8 else 4)
    | 4 => 4 * (leAt d 16 2 * leAt d 20 2) + 8 * leAt d 16 2
    | 7 => 6 * leAt d 34 1
    | 9 => 2 * dIn d
    | _ => 0))

/-- R177: bytes of the key and value gradient accumulators of one position. Log entry 21 (DEDUCED). -/
def dkvBytes (ls : List KvLayer) : Nat := sumNat (ls.map (fun l => 8 * l.heads * l.dim))

/-- R180: bytes of the FP32 staging of gradients: for ADP_BWD every trainable tensor of the set, for ADP_FWD_SAVE its head bias.
Log entry 21 (DEDUCED). -/
def AdpSet.stageBytes (a : AdpSet) (biasOnly : Bool) : Nat :=
  sumNat (a.tensors.map (fun n => if biasOnly ∧ n.kind ≠ .bias then 0 else 4 * n.rows * n.cols))
def Vi.stageBytes (x : Vi) (set : Option Nat) (biasOnly : Bool) : Nat :=
  ((set.bind (fun a => tget x.sets a)).map (fun a => a.stageBytes biasOnly)).getD 0

/-- R172, R177, R180: bytes of the training area in use: saved areas, the accumulators and staging of each ADP_BWD that runs,
what steps in flight claim and stage. Log entry 21 (DEDUCED). -/
def State.trainUsed (s : State) (v : Nat) (x : Vi) : Nat :=
  sumNat (x.seqs.map (fun q => (q.2.saved.map SavedArea.bytes).getD 0)) +
    sumNat (x.bwd.map (fun b => b.2.total * dkvBytes x.layers + 4 * sumNat (b.2.grads.map List.length))) +
    sumNat (s.steps.map (fun t => if t.2.vi = v ∧ t.2.inFlight ∧ t.2.kind = .fwdSave then t.2.train + x.stageBytes (t.2.adp.map Prod.fst) true
      else 0))

/-- R171, R172: bytes that a step saves. -/
def savesBytes (x : Vi) (t : Step) : Nat :=
  if t.kind = .fwdSave then t.tokens.length * savedBytes ((x.img.image.map Image.program).getD []) else 0

/-- R172, R177, R180: what a step claims in the training area; the accumulators and the staging of an ADP_BWD are claimed with
its first chunk. Log entry 21 (DEDUCED). -/
def trainClaim (x : Vi) (sq : Seq) (t : Step) : Nat :=
  match t.kind with
  | .fwdSave => savesBytes x t + x.stageBytes sq.set true
  | .backward => if (t.entry.bind (fun e => tget x.bwd e)).isSome then 0
      else ((sq.saved.map (fun a => sq.p - a.first)).getD 0) * dkvBytes x.layers + x.stageBytes sq.set false
  | _ => 0

/-- R172: beyond the whole training area, or beyond 65,536 positions. -/
def trainFails (x : Vi) (sq : Seq) (t : Step) : Bool :=
  let held := (sq.saved.map SavedArea.bytes).getD 0
  let window := (sq.saved.map (fun a => sq.p - a.first)).getD 0
  (t.kind == .fwdSave && decide (window + t.tokens.length > 65536)) ||
    decide (0 < trainClaim x sq t ∧ held + trainClaim x sq t > x.part.train * 1048576)

/-- R172: room lacking for now. -/
def State.trainWaits (s : State) (x : Vi) (sq : Seq) (t : Step) : Bool :=
  decide (0 < trainClaim x sq t ∧ s.trainUsed t.vi x + trainClaim x sq t > x.part.train * 1048576)

/-- R92, R172, R185, R212, R327: what ends a step at its admission instead of admitting it. Log entry 26 (DEDUCED). -/
def admitFailure (x : Vi) (sq : Seq) (t : Step) : Option Nat :=
  let set := sq.set.bind (fun a => tget x.sets a)
  if x.img.gen = 0 then some stNoObject
  else if (set.map AdpSet.damaged) = some true then some stNoObject
  else if (set.map AdpSet.stale) = some true then some stStale
  else match t.kind with
    | .decode | .prefill | .verify =>
      if sq.saved.isSome then some stNotPermitted
      else if sq.p + t.tokens.length > sq.ctx then some stNoResource else none
    | .fwdSave => if !sq.train then some stNotPermitted else if sq.p + t.tokens.length > sq.ctx then some stNoResource else none
    | .backward => match sq.saved with
      | none => some stNoObject
      | some a => if a.gen ≠ x.img.gen then some stStale else none
    | .recompute => none

/-- R173, R177: the record of an ADP_BWD that runs, made with its first chunk. -/
def Bwd.start (x : Vi) (sq : Seq) (q : Nat) : Bwd :=
  let first := (sq.saved.map SavedArea.first).getD sq.p
  let set := sq.set.bind (fun a => tget x.sets a)
  { seq := q, first := first, upto := sq.p, total := sq.p - first,
    grads := ((set.map AdpSet.tensors).getD []).map (fun n => List.replicate (n.rows * n.cols) 0), dkv := [] }

/-- R173: the chunk a backward step takes: the last positions still to be processed, 8,192 at most. -/
def Bwd.chunk (b : Bwd) : Nat × Nat := (max b.first (b.upto - 8192), b.upto)

/-- T1 bytes of a pair of orders. -/
def pairBytes (o : Nat × Nat) : Nat := blockBytes o.1 + blockBytes o.2

/-- R101: T0 bytes of a token's residual stream, compensated FP32, and of the vector slots its program writes, bfloat16. Log
entry 20 (DEDUCED). -/
def vectorBytes (prog : List Desc) : Nat :=
  let widest := fun (slot : Nat) => prog.foldl (fun m d =>
    if ([2, 4, 5].contains (dKind d) ∨ (dKind d = 3 ∧ !dFuse d)) ∧ dDst d = slot then max m (dOut d) else m) 0
  8 * ((prog.find? (fun d => dKind d == 1)).map dOut).getD 0 + 2 * sumNat ((List.range 15).map (fun i => widest (i + 1)))

/-- Where a step starts, and how many positions it has. -/
def Step.start (t : Step) (sq : Seq) : Nat := if t.kind = .recompute then t.p0 else sq.p
def Step.count (t : Step) (x : Vi) (sq : Seq) : Nat :=
  if t.kind = .backward then
    let c := ((t.entry.bind (fun e => tget x.bwd e)).getD (Bwd.start x sq t.seq)).chunk
    c.2 - c.1
  else t.tokens.length

/-- R139: whether the tail page of a layer is shared where a step appends to it. -/
def Vi.tailShared (x : Vi) (sq : Seq) (t : Step) (l : Nat) : Bool :=
  t.kind != .recompute && t.kind != .backward && sq.p % sq.pagePos != 0 &&
    (match (tget (sq.pages.getD l []) (sq.p / sq.pagePos)).bind (fun k => tget x.kv.pages k) with
     | some pg => decide (2 ≤ pg.refs.length)
     | none => false)

/-- R139, R147: the pages, by KV layer and index, for which a step reserves blocks: those it opens, or the dropped ones it
restores. -/
def Vi.pagesFor (x : Vi) (sq : Seq) (t : Step) : List ((Nat × KvLayer) × Nat) :=
  let ls := (List.range x.layers.length).zip x.layers
  if t.kind = .backward then []
  else if t.kind = .recompute then
    let ds := (x.dropsOf t.seq).filter (fun d => decide (max t.keepFrom t.p0 ≤ d.first) && decide (d.first < t.p0 + t.tokens.length))
    ls.flatMap (fun l => (ds.filter (fun d => ((tget (sq.pages.getD l.1 []) d.index).bind (fun k => tget x.kv.pages k)).map Page.state ==
      some .dropped)).map (fun d => (l, d.index)))
  else ls.flatMap (fun l => (newPages sq.pagePos sq.p t.tokens.length).map (fun i => (l, i)))

/-- R139: bytes of tail staging. -/
def Vi.tailBytes (x : Vi) (sq : Seq) (t : Step) : Nat :=
  let part := sq.p % sq.pagePos
  if part = 0 ∨ t.kind = .recompute ∨ t.kind = .backward then 0
  else min t.tokens.length (sq.pagePos - part) * sumNat (x.layers.map (fun l => posBytes l sq.fmt))

/-- R137, R139: tail staging that could never fit the VI's share of T0 in the home group goes to T1.
Log entry 20 (DEDUCED). -/
def State.tailInT1 (s : State) (x : Vi) (sq : Seq) (t : Step) (group : Nat) : Bool :=
  ((Arena.around (s.t0Share x group) []).takeAll? (ordersFor (x.tailBytes sq t))).isNone

/-- R139: T1 bytes of the pages of a sequence that have a home copy. -/
def Vi.heldBytes (x : Vi) (q : Nat) : Nat :=
  sumNat ((x.seqPages q).map (fun p => if p.2.state = .dropped then 0 else pairBytes (p.2.mElem, p.2.mScale)))

/-- R139: bytes of T1 that a reservation takes. -/
def Vi.needT1 (x : Vi) (sq : Seq) (t : Step) (inT1 : Bool) : Nat :=
  sumNat ((x.pagesFor sq t).map (fun p => pairBytes (pageOrders p.1.2 sq.fmt sq.pagePos))) +
    sumNat (((List.range x.layers.length).zip x.layers).map (fun l =>
      if x.tailShared sq t l.1 then pairBytes (pageOrders l.2 sq.fmt sq.pagePos) else 0)) +
    (if inT1 then sumNat ((ordersFor (x.tailBytes sq t)).map blockBytes) else 0)

/-- R139: what a step takes from an arena of T1: new pages, copies of tail pages, tail staging. -/
def Vi.takeT1 (x : Vi) (sq : Seq) (t : Step) (inT1 : Bool) (a : Arena) :
    Option (Arena × List (Nat × Nat × Nat × Nat × BlockPair) × List (Nat × Nat × Nat × BlockPair) × List (Nat × Nat)) :=
  (reservePages a sq.fmt sq.pagePos (x.pagesFor sq t)).bind (fun (a, res) =>
    (reserveCopies a ((List.range x.layers.length).zip x.layers) sq.fmt sq.pagePos (x.tailShared sq t)).bind (fun (a, cps) =>
      (a.takeAll? (if inT1 then ordersFor (x.tailBytes sq t) else [])).map (fun (tl, a) => (a, res, cps, tl))))

/-- R97: T0 blocks for the vectors of a step, where they fit; else they stay in the VI's HBM. Log entry 20 (DEDUCED). -/
def takeVectors (a : Arena) (bytes : Nat) : List (Nat × Nat) := ((a.takeAll? (ordersFor bytes)).map Prod.fst).getD []

/-- R97, R139: the reservation of a step, or why it waits or fails. Log entry 20 (DEDUCED). -/
def State.reservation (s : State) (v : Nat) (x : Vi) (sq : Seq) (t : Step) : Admission :=
  let group := s.homeGroup v x
  let inT1 := s.tailInT1 x sq t group
  if x.needT1 sq t inT1 + x.heldBytes t.seq > x.kv.t1.size then .fail stNoResource
  else
    match (s.t0Arena v x group).takeAll? (if inT1 then [] else ordersFor (x.tailBytes sq t)), x.takeT1 sq t inT1 x.kv.t1 with
    | some (tl0, a0), some (a, res, cps, tl) =>
      .go ⟨a, res, cps, tl, tl0 ++ takeVectors a0 (t.count x sq * vectorBytes ((x.img.image.map Image.program).getD [])), group, 0⟩
    | _, _ => .wait

/-- R139, R145, R147: whether the pages a step needs are RESIDENT; a recompute reads none but what its own parts staged. -/
def Vi.pagesReady (x : Vi) (t : Step) : Bool :=
  if t.kind = .recompute then true
  else x.allResident t.seq && (x.dropsOf t.seq).isEmpty

/-- R94: what becomes of a waiting step now. Log entry 26 (DEDUCED). -/
def State.admission (s : State) (k : Nat) (t : Step) : Admission :=
  match s.vi? t.vi with
  | none => .wait
  | some x =>
    match tget x.seqs t.seq with
    | none => if t.ending ∨ s.seqComing t.vi t.seq (stepPlace t) then .wait else .fail stNoObject
    | some sq =>
      if !s.admitting ∨ x.img.held ∨ s.inReset t.vi ∨ t.ending then .wait
      else if t.kind ≠ .recompute ∧ s.blocked93 t.vi t.seq (stepPlace t) then .wait
      else if s.steps.any (fun e => e.1 != k && e.2.inFlight && !e.2.closed && e.2.vi == t.vi && e.2.seq == t.seq) then .wait
      else
        match admitFailure x sq t with
        | some st => .fail st
        | none =>
          let q := s.quota x
          if !x.pagesReady t then .wait
          else if s.inFlight ≥ Config.maxSteps ∨ s.viInFlight t.vi ≥ q then .wait
          else if !t.kind.decodeClass ∧ s.viPrefill t.vi ≥ 3 * q / 4 then .wait
          else
            if trainFails x sq t then .fail stNoResource
            else if s.trainWaits x sq t then .wait
            else
              match s.reservation t.vi x sq t with
              | .go p => if s.pwr.admitRoom then .go { p with train := savesBytes x t }
                else .wait
              | r => r

/-! ### Budget shares (R227) -/

/-- R223: the driven band of a projection under a recipe. -/
def bandOf (r : Recipe) (p : Proj) : Nat := min r.rowBand (max 1 p.span)

/-- R227: trit cycles of an array at a projection. -/
def arrayCost (im : Image) (p : Proj) (r : Recipe) (pl : Place) : Nat :=
  let rows := ((im.arrays.find? (fun a => a.yelm == pl.yelm && a.array == pl.array)).map ArrayIdx.rows).getD 0
  ceilDiv rows (max 1 (bandOf r p)) * r.actTrits

def projCost (im : Image) (r : Recipe) (p : Proj) : Nat := sumNat (p.places.map (arrayCost im p r))

def recipeAt (rs : List Recipe) (i : Nat) : Recipe := rs.getD i ⟨256, 3, 0, 16, 8, 0x40800000#32, 0x41000000#32, 0⟩

def projAt (im : Image) (i : Nat) : Proj := im.projs.getD i ⟨0, 0, 0, 256, [], 0, 0x40000000#32, 0, 0, []⟩

/-- R103: the recipe index of a PROJ, EXPERTS or HEAD descriptor. -/
def dRecipe (d : Desc) : Nat :=
  match dKind d with
  | 3 => leAt d 20 2
  | 8 => leAt d 28 2
  | 9 => leAt d 24 2
  | _ => 0

/-- R102: the ROUTE whose list an EXPERTS at an index reads: the last before it with its LAYER. Log entry 120 (DEDUCED). -/
def routeOf? (prog : List Desc) (i : Nat) : Option Nat :=
  (List.range i).reverse.find? (fun w => dKind (prog.getD w []) == 7 && dLayer (prog.getD w []) == dLayer (prog.getD i []))

/-- R227: c_d of the descriptor at an index. -/
def descCost (im : Image) (rs : List Recipe) (i : Nat) : Rat :=
  let d := im.program.getD i []
  let r := recipeAt rs (dRecipe d)
  match dKind d with
  | 3 => projCost im r (projAt im (leAt d 16 4))
  | 9 => projCost im r (projAt im (leAt d 16 4))
  | 8 =>
    let n := leAt d 20 2
    let es := (im.experts.drop (leAt d 16 4)).take n
    let costs := es.map (fun e => e.replicas.foldl (fun m g =>
      max m (projCost im r (projAt im g.1) + projCost im r (projAt im g.2))) 0)
    let k := ((routeOf? im.program i).map (fun w => leAt (im.program.getD w []) 34 1)).getD 1
    if n = 0 then 0 else mkRat ((k * sumNat costs : Nat) : Int) n
  | _ => 0

/-- R227: a token's share. -/
def tokenShare (im : Image) (rs : List Recipe) (sampled : Bool) : Rat :=
  (List.range im.program.length).foldl (fun acc i =>
    let d := im.program.getD i []
    if dKind d = 9 ∧ !sampled then acc
    else acc + mkRat ((recipeAt rs (dRecipe d)).budgetQ : Int) 4 * descCost im rs i) 0

/-- R90, R168: whether the token at a place of a step is sampled (runs HEAD). -/
def Step.samples (t : Step) (i : Nat) : Bool :=
  match t.kind with
  | .decode => true
  | .verify => true
  | .prefill => t.sample && i + 1 == t.tokens.length
  | .fwdSave => (t.targets.getD i none).isSome
  | .recompute => false
  | .backward => false

/-! ### STEP_ADMIT (R96, R97) -/

/-- R171: the saved item of a position and descriptor. -/
def savedAt (items : List (Nat × Nat × Saved)) (pos d : Nat) : Option Saved :=
  (items.find? (fun e => e.1 == pos && e.2.1 == d)).map (fun e => e.2.2)

/-- R174: a backward token that comes to an EXPERTS takes the saved choices of its layer's ROUTE; gate-and-up is read again
on any replica, here the first. -/
def arriveBack (im : Image) (items : List (Nat × Nat × Saved)) (c : Tok) : Tok :=
  let d := im.program.getD c.desc []
  if dKind d ≠ 8 then c
  else
    match (routeOf? im.program c.desc).bind (savedAt items c.pos) with
    | some (.route ch) => { c with routes := ch.map (fun e => ⟨e.1, e.2, 0, none, none, none, none, none⟩) }
    | _ => { c with routes := [] }

/-- The saved items of the sequence that a step reads. -/
def savedItems (x : Vi) (t : Step) : List (Nat × Nat × Saved) := (((x.seqOf t).bind Seq.saved).map SavedArea.items).getD []

/-- The tokens of an admitted step, before their first descriptor. -/
def startToks (im : Image) (rs : List Recipe) (items : List (Nat × Nat × Saved)) (t : Step) (p0 : Nat) : List Tok :=
  (List.range t.tokens.length).map (fun i => (fun c => if t.kind = .backward then arriveBack im items c else c)
    { pos := p0 + i, token := t.tokens.getD i 0,
      desc := if t.kind = .backward then im.program.length - 2 else 0, done := false, slot0 := [], slots := [], routes := [], lists := [],
      logits := [], sampled := none, grad := [], grad0 := [], partials := [], share := tokenShare im rs (t.samples i) })

/-- R97: bind an admitted step. -/
def State.admitStep (s : State) (k : Nat) (t : Step) (p : Plan) : State :=
  match s.vi? t.vi with
  | none => s
  | some x =>
    match tget x.seqs t.seq, x.img.image with
    | some sq, some im =>
      let bw := (t.entry.bind (fun e => tget x.bwd e)).getD (Bwd.start x sq t.seq)
      let back := decide (t.kind = .backward)
      let p0 := if back then bw.chunk.1 else if t.kind = .recompute then t.p0 else sq.p
      let t := if back then { t with tokens := (sq.tokens.drop p0).take (bw.chunk.2 - p0) } else t
      let adp := sq.set.bind (fun a => (tget x.sets a).map (fun d =>
        (a, if back then (sq.saved.map SavedArea.version).getD d.version else d.version)))
      let pins := if t.kind = .recompute then [] else x.pinSet sq (if back then sq.p else p0)
      let s := s.modVi t.vi (fun x =>
        { x with kv := { x.kv with t1 := p.arena, pages := tmapv x.kv.pages (fun n g =>
            if pins.contains n then { g with pins := g.pins ++ [k] } else g) },
                 bwd := if back then tset x.bwd (t.entry.getD 0) bw else x.bwd })
      let s := s.modStep k (fun _ =>
        { t with grads := if back then bw.grads else t.grads, dkv := if back then bw.dkv else t.dkv,
                 adm := some (max s.now t.stamp), gen := x.img.gen, adp := adp, group := p.group, p0 := p0, t0 := p.t0,
                 train := p.train, toks := startToks im x.img.recipes (savedItems x t) t p0, pins := pins, reserved := p.reserved,
                 copies := p.copies, tail := p.tail })
      let s := match t.entry with
        | none => s
        | some e => s.modEntry t.vi e (fun n => { n with state := .running, admitted := true })
      s.modPwr (fun b => { b with admitted := [lget b.admitted 0 0 + 1, lget b.admitted 1 0] })
    | _, _ => s

/-- R185: an ADP_BWD that meets another image generation frees the saved area. -/
def State.dropSaved (s : State) (t : Step) : State :=
  if t.kind ≠ .backward then s
  else s.modVi t.vi (fun x => x.modSeq t.seq (fun q =>
    if (q.saved.map SavedArea.gen) = some x.img.gen then q else { q with saved := none }))

/-- STEP_ADMIT (R94, R96, R97): the steps whose admission fails are answered; of the others the first in order that is
eligible is admitted. R208: a step with FAIL_IF_HELD behind a barrier is answered with HELD. -/
def State.admitNext (s : State) : State :=
  let waiting := s.steps.filter (fun e => !e.2.inFlight)
  let held := waiting.filter (fun e => e.2.failIfHeld && ((s.vi? e.2.vi).map (fun x => x.img.held)) == some true)
  let s := held.foldl (fun s e => s.failStep e.1 stHeld) s
  let waiting := sortBy (fun (a b : Nat × Step) => s.admitLt a.2 b.2) (s.steps.filter (fun e => !e.2.inFlight))
  match waiting.find? (fun e => s.admission e.1 e.2 != .wait) with
  | none => s
  | some (k, t) =>
    match s.admission k t with
    | .wait => s
    | .fail st => (s.dropSaved t).failStep k st
    | .go p => s.admitStep k t p

/-- STEP_ADMIT: R94. -/
def execStepAdmit (ts : Nat) (s0 : State) : Host.Outcome State Fault Refusal := .next (s0.upto ts).admitNext

/-! ### T1_RECLAIM (R143) -/

/-- R143: the allocator of a VI's T1 arenas once the spills under way have ended. Log entry 121 (DEDUCED). -/
def Vi.afterSpills (x : Vi) : Arena :=
  x.kv.pages.foldl (fun a p => match p.2.state, p.2.t1 with
    | .spilling, some b => a.givePair p.2.mElem p.2.mScale b
    | _, _ => a) x.kv.t1

/-- R143: whether room is to be made in a VI's T1 arenas: free space below 3 % of their size, a reservation that they cannot
meet, or a fetch for which they lack blocks. Log entry 121 (DEDUCED). -/
def State.needsRoom (s : State) (v : Nat) (x : Vi) : Bool :=
  let a := x.afterSpills
  decide (100 * a.freeBytes < 3 * a.size) ||
    s.steps.any (fun e => e.2.vi == v && !e.2.inFlight && (match tget x.seqs e.2.seq with
      | none => false
      | some sq => x.pagesReady e.2 && (x.takeT1 sq e.2 (s.tailInT1 x sq e.2 (s.homeGroup v x)) a).isNone)) ||
    x.kv.pages.any (fun p => p.2.state == .spilled && p.2.refs.any (fun q => !s.seqIdle v q) && (a.takePair? p.2.mElem p.2.mScale).isNone)

/-- T1_RECLAIM (R143). Log entry 121 (DEDUCED). -/
def execT1Reclaim (ts vi : Nat) (s0 : State) : Host.Outcome State Fault Refusal :=
  let s := s0.upto ts
  .next (match s.vi? vi with
    | none => s
    | some x => if x.pair.role = 2 ∨ !s.needsRoom vi x then s else s.reclaimT1 vi)

end Sys2Proof.Machine
end

