-- ==== Sys2Proof/Machine/Reset.lean ====
section
/-! DEFINITION. What begins a reset of a domain (R342–R344) and what reruns a step (R326), as every family that finds a fault
calls them; how a reset ends is with RESET_END. -/
namespace Sys2Proof.Machine

/-! ### Dies and yelms -/

/-- R410, R416, R418: array pulses are stopped: by the brake, or while the array pulse clock coasts. -/
def State.pulsesOff (s : State) : Bool := s.pwr.brakeOn || lget s.clk.pllState 1 0 == 3

/-- R342: what a yelm loses in a reset of a domain that holds it: band reads, buffers, accumulators, outlier cache,
CORR_BYPASS, ACC_HOLD, calibration and programming in progress; its monitor state is seeded afresh.
Log entry 94 (DEDUCED). -/
def resetYelm (temp : Rat) (y : Yelm) : Yelm :=
  { y with
    accHold := false, corrBypass := false, input := [], acc := [], output := [], recv := [], cache := [], reads := [],
    litNow := 0, resetting := true, seed := seedOf temp, cal := if y.cal = 2 then 1 else y.cal, found := [],
    arrays := tmapv y.arrays (fun _ a =>
      let a := seedArr temp a
      let st := if a.st = .lit ∨ a.st = .transpose then .idle else a.st
      match a.prog.map Prog.job with
      | some (.refresh _) => { a with st := .idle, prog := none }
      | _ => { a with st := st, prog := a.prog.map (fun g => { g with row := 0, erased := false }) }) }

/-- R343: the VIs whose work a reset touches. Log entry 38 (DEDUCED). -/
def State.domainVis (s : State) (domain target : Nat) : List Nat :=
  match domain with
  | 3 => [target]
  | 0 | 1 | 2 => (s.vis.filter (fun e =>
      e.2.part.courses.any (fun c => (List.range 16).any (fun i => domainYelms domain target (16 * c + i))) ||
      (domain == 2 && s.steps.any (fun t => t.2.vi == e.1 && t.2.inFlight && t.2.group == target)))).map Prod.fst
  | _ => s.vis.map Prod.fst

/-- R344: whether one domain contains another. -/
def domainIn (d t d' t' : Nat) : Bool :=
  if d' = 5 then true
  else if d' = 4 then d == 4
  else if d' = 3 then d == 3 && t == t'
  else if d' = 2 then (d == 0 && t / 256 == t') || (d == 1 && t / 4 == t') || (d == 2 && t == t')
  else if d' = 1 then (d == 0 && t / 64 == t') || (d == 1 && t == t')
  else d == 0 && t == t'

/-- R6, R331: the purlin group of a thatch or purlin die. -/
def groupOfDie (d : Nat) : Option Nat := if d < 48 then some (d / 4) else if d < 60 then some (d - 48) else none

/-- R408, R414: the thermal lit limit of a purlin group: the lowest of those that its dies set. Log entry 58 (DEDUCED). -/
def State.groupLit (s : State) (g : Nat) : Nat :=
  s.pwr.dies.foldl (fun n d => if groupOfDie d.1 = some g then min n d.2.lit else n) 16

/-- R418: HBM is in self-refresh while its reference is lost, and work that needs HBM waits. -/
def State.hbmHeld (s : State) : Bool := lget s.clk.pllState 6 0 == 3

/-! ### Steps that run again -/

/-- A step as it waits again (R147, R315, R326): its tokens are computed afresh; a recompute keeps what earlier parts staged. -/
def Step.again (t : Step) : Step :=
  { t with adm := none, toks := [], staged := t.staged.filter (fun e => decide (e.2.1 < t.p0)), layerCopies := [],
           crossed := false, closed := false, kept := none, pins := [], reserved := [], copies := [], tail := [], ending := false,
           ranOut := false, loss := .zero, saved := [], grads := [], dkv := [], restarts := [], train := 0, t0 := [] }

/-- End a step without commit and let it wait again in its place. -/
def State.requeue (s : State) (k : Nat) : State :=
  match s.step? k with
  | none => s
  | some t => (s.dropStep k).addStep t.again

/-- R343: every step in flight of the VIs concerned ends at once; those of commands wait for the replay, internal ones wait
again. Answers the entries. Log entry 75 (DEDUCED). -/
def State.endForReset (s : State) (vis : List Nat) (all : Bool) : State × List (Nat × Nat) :=
  let gone := s.steps.filter (fun e => vis.contains e.2.vi && (all || e.2.inFlight))
  let s := gone.foldl (fun s e =>
    if e.2.entry.isSome ∨ all then s.dropStep e.1 else s.requeue e.1) s
  let es := gone.filterMap (fun e => e.2.entry.map (fun n => (e.2.vi, n)))
  (es.foldl (fun s e => s.modVi e.1 (fun x => { x with bwd := tdel x.bwd e.2 })) s, es)

/-- R211, R315: programming and erases of the VIs' operations are cut short; their commands run again. A spare fill whose record
has not come begins afresh at a boundary (R203). -/
def State.stopOps (s : State) (vis : List Nat) : State :=
  let mine := fun (g : Prog) => match g.job with
    | .program v => vis.contains v
    | .erase v => vis.contains v
    | .spareFill v _ => vis.contains v && !g.loaded
    | _ => false
  let s := { s with yelms := tmapv s.yelms (fun _ y => { y with arrays := tmapv y.arrays (fun _ a =>
    if (a.prog.map mine) = some true then { a with st := .spare, prog := none } else a) }) }
  vis.foldl (fun s v => s.modVi v (fun x =>
    let stop := fun (o : ImgOp) => { o with phase := .stopped, kept := x.img.held, todo := [], toErase := [] }
    { x with img := { x.img with op := x.img.op.map stop } })) s

/-- R245, R270, R343: after a reset of domain 0, 1 or 2 the responses to requests of the older tag are dropped, so what goes on
asks again, under the new tags. Log entry 38 (DEDUCED). -/
def State.askAgain (s : State) (v old : Nat) : State :=
  match s.vi? v with
  | none => s
  | some x =>
    x.conns.foldl (fun s c =>
      (c.2.out.filter (fun t => t.viGen == old && t.qGen != noTag)).foldl (fun s t =>
        match t.purpose with
        | .ring _ => s
        | .pull q _ _ => s.issue v c.1 { t with viGen := s.viTag v, qGen := (((s.vi? v).bind (fun x => tget x.queues q)).map Queue.gen).getD 0 }
        | _ => s.issue v c.1 { t with viGen := s.viTag v }) s) s

/-- R342: a reset of domain 4 or 5 ends the transfers of a VI: pages return to the tier they were in, and slots that were being
fetched are fetched again. Log entry 38 (DEDUCED). -/
def State.loseXfers (s : State) (v : Nat) : State :=
  let s := s.modVi v (fun x => { x with
    conns := tmapv x.conns (fun _ c => { c with out := [], tries := 0, rnr := 0, failSince := none }),
    queues := tmapv x.queues (fun _ q => { q with tickets := [], fetched := [], skip := 0, sqTail := q.sqHead }) })
  match s.vi? v with
  | none => s
  | some x => x.kv.pages.foldl (fun s p =>
      match p.2.state, p.2.t1 with
      | .spilling, _ => s.cancelSpill v p.1
      | .fetching, some b =>
        (s.freeT1 v p.2.mElem p.2.mScale b).modVi v (fun x => x.modPage p.1 (fun p => { p with state := .spilled, t1 := none }))
      | _, _ => s) s

/-- R345: device resets that count, whose start lies in the last 900 s. -/
def recentStarts (now : Nat) (xs : List Nat) : List Nat := xs.filter (fun t => decide (now < t + Config.resetWindowNs))

/-- R343, R347: the steps of a domain end; domain 3 ends those of its VI at their next layer boundary. Answers the commands
to be run again. -/
def State.endDomain (s : State) (domain target : Nat) (vis : List Nat) : State × List (Nat × Nat) :=
  if domain = 3 then
    ({ s with steps := tmapv s.steps (fun _ t => if t.vi = target ∧ t.inFlight then { t with ending := true } else t) }, [])
  else s.endForReset vis (decide (4 ≤ domain))

/-- R343: a VI that a reset touches takes new tags; its transfers go on under them, or are lost with the ridge.
Log entry 38 (DEDUCED). -/
def State.retagVi (s : State) (domain v : Nat) : State :=
  if domain < 3 then (s.advanceTags v).askAgain v (s.viTag v)
  else if domain = 3 then s.advanceTags v
  else (s.advanceTags v).loseXfers v

/-- R342: the yelms of a domain. Log entry 93 (DESIGN CHOICE). -/
def State.resetYelms (s : State) (domain target : Nat) : State :=
  if domain = 0 then s.modYelm target (resetYelm (s.yelmTemp target))
  else if domain = 3 ∨ domain = 4 then s
  else ({ s with yelms := tmapv s.yelms (fun k y => if domainYelms domain target k then resetYelm (s.yelmTemp k) y else y) }).seedCourses
    (fun c => domainYelms domain target (16 * c))

/-- R157, R159, R186, R315, R343: image operations stop from domain 3 on, and a VI reset drops its saved areas and keeps its
sets and arenas. Log entry 42 (DEDUCED). -/
def State.dropWork (s : State) (domain target : Nat) (vis : List Nat) : State :=
  let s := if 3 ≤ domain then s.stopOps vis else s
  if domain = 3 then
    ({ s with steps := tmapv s.steps (fun _ (t : Step) =>
        if t.vi = target ∧ t.kind = StepKind.backward then { t with kept := (s.vi? target).bind (fun x => x.seqOf t) }
        else t) }).modVi target (fun x => { x with seqs := tmapv x.seqs (fun _ q => { q with saved := none }), bwd := [] })
  else s

/-- R331, R332: the DOMAIN_RESET record of a reset: the yelm, die or VI it covers, with the VI that holds the yelm.
Log entry 39 (DEDUCED). -/
def State.resetRecord (s : State) (domain target cause : Nat) : Rec :=
  let r := { recOf 0x0502 2 0xFFFF s.now with domain := domain, detail := le 1 cause ++ le 2 target }
  match domain with
  | 0 => { r with vi := ((s.vis.find? (fun e => e.2.part.courses.contains (target / 16))).map Prod.fst).getD 0xFFFF,
                  yelm := target, die := dieOfYelm target }
  | 1 => { r with die := target }
  | 2 => { r with die := 48 + target }
  | 3 => { r with vi := target }
  | 4 => { r with die := 60 }
  | _ => r

/-- R342–R344: start a reset of a domain; the tags of every VI it touches advance (R269). `cause` is the code of R332; `answer`
the RESET it answers. Log entry 79 (DEDUCED). -/
def State.startReset (s : State) (domain target cause : Nat) (answer : List (Nat × Nat)) : State :=
  match s.err.resets.find? (fun r => domainIn domain target r.domain r.target) with
  | some r =>
    s.modErr (fun b => { b with resets := b.resets.map (fun q => if q = r then { q with answer := q.answer ++ answer } else q) })
  | none =>
    let inner := s.err.resets.filter (fun r => domainIn r.domain r.target domain target)
    let vis := s.domainVis domain target
    let s := s.report (s.resetRecord domain target cause)
    let r := s.endDomain domain target vis
    let s := (vis.foldl (fun s v => s.retagVi domain v) r.1).resetYelms domain target
    let op : ResetOp :=
      ⟨domain, target, s.now, cause, (inner.flatMap ResetOp.answer) ++ answer, vis, (inner.flatMap ResetOp.entries) ++ r.2⟩
    let s := s.dropWork domain target vis
    let s := s.modErr (fun b =>
      { b with resets := b.resets.filter (fun q => !inner.contains q) ++ [op], lastDomain := domain, lastReset := s.now,
               devResets := if domain = 5 then bump b.devResets else b.devResets,
               starts := if domain = 5 ∧ cause ≠ 5 then recentStarts s.now b.starts ++ [s.now] else b.starts,
               sinceRidge := if domain ≥ 4 then none else b.sinceRidge })
    if domain = 5 then
      s.linksGone.modNet (fun n => { n with linkUp := 0, neighbours := [], waiting := [], paused := [], blocked := [], xoffSent := [] })
    else s

/-- R326: a fault that is handled by rerunning the step: it ends without commit and its command runs again; the third run
of a command ended in succession resets the purlin group or the ridge firmware, the fourth the device. -/
def State.rerunStep (s : State) (k cause group : Nat) (ridge : Bool) : State :=
  match s.step? k with
  | none => s
  | some t =>
    let e := t.entry.bind (s.entry? t.vi)
    let n := ((e.map Entry.ended).getD 0) + 1
    let s := s.report { recOf 0x0206 1 t.vi s.now with
      queue := (e.map Entry.queue).getD 0xFFFF, psn := (e.map Entry.psn).getD 0, detail := le 1 n ++ le 2 cause, seq := t.seq }
    let s := s.modErr (fun b => { b with stepReruns := bump b.stepReruns })
    let s := match t.entry with
      | none => s
      | some i => (s.modVi t.vi (fun x => x.modJrnl (fun j => { j with replayCount := bump j.replayCount }))).modEntry t.vi i
          (fun e => { e with ended := n, replays := e.replays + 1, replayRun := true, ranOut := false, admitted := false, state := .accepted })
    let s := s.requeue k
    if n = 3 then (if ridge then s.startReset 4 0 3 [] else s.startReset 2 group 3 [])
    else if n = 4 then s.startReset 5 0 3 [] else s

end Sys2Proof.Machine
end

