-- ==== Sys2Proof/Machine/Trit.lean ====
section
/-! DEFINITION. Balanced ternary (R14), weight formats and redundancy profiles (R15–R18, R193), trit packing (R32),
activation formats (R19–R21), key and value quantization (R31), tap and bank numbering (R37, R38, R57) and the
expansion of an array record into cells (R18, R50, R194). -/
namespace Sys2Proof.Machine

/-- R14: the low trit of an integer, in −1 … +1. -/
def lowTrit (v : Int) : Int := (v + 1) % 3 - 1

/-- R14: the n trits of an integer, least significant first. -/
def trits : Nat → Int → List Int
  | 0, _ => []
  | n + 1, v => lowTrit v :: trits n ((v - lowTrit v) / 3)

/-- R14: the value of trits, least significant first. -/
def tritVal : List Int → Int
  | [] => 0
  | t :: ts => t + 3 * tritVal ts

/-- R14: the largest value of n trits, (3^n − 1) / 2. -/
def tritMax (n : Nat) : Nat := (3 ^ n - 1) / 2

/-- R32: five trits in a byte. -/
def packByte (u : List Int) : Nat :=
  ((List.range 5).foldl (fun acc i => acc + (u.getD i 0) * (3 ^ i : Nat)) (121 : Int)).toNat

/-- R32: the trits of a byte, first in stream order first; 243 … 255 are invalid. -/
def unpackByte (b : Nat) : Option (List Int) :=
  if b ≥ 243 then none else some ((List.range 5).map (fun i => ((b / 3 ^ i % 3 : Nat) : Int) - 1))

/-- R17: a redundancy profile: format trits and copies, most significant first. -/
structure Profile where
  copies : List Nat
deriving DecidableEq, Repr

/-- R193: the profile codes; any other code is unknown. -/
def profileOf (fmt code : Nat) : Option Profile :=
  match fmt, code with
  | 1, 0x10 => some ⟨[1]⟩
  | 1, 0x11 => some ⟨[2]⟩
  | 1, 0x12 => some ⟨[3]⟩
  | 2, 0x20 => some ⟨[1, 1]⟩
  | 2, 0x21 => some ⟨[2, 1]⟩
  | 2, 0x22 => some ⟨[3, 1]⟩
  | 2, 0x23 => some ⟨[2, 2]⟩
  | 3, 0x30 => some ⟨[1, 1, 1]⟩
  | 3, 0x31 => some ⟨[2, 1, 1]⟩
  | 3, 0x32 => some ⟨[2, 2, 1]⟩
  | 3, 0x33 => some ⟨[3, 2, 1]⟩
  | _, _ => none

/-- R17: trit-columns per weight. -/
def Profile.width (p : Profile) : Nat := sumNat p.copies
/-- R17: the least common multiple of the copy counts. -/
def Profile.lcm (p : Profile) : Nat := p.copies.foldl Nat.lcm 1
/-- R17: output channels an array holds. -/
def Profile.outputs (p : Profile) : Nat := 1024 / p.width
/-- Trits of the format. -/
def Profile.n (p : Profile) : Nat := p.copies.length
/-- Copy weights, most significant first. -/
def Profile.weights (p : Profile) : List Nat := p.copies.map (fun c => p.lcm / c)

/-- R18: where the copies of the trits of channel j lie: for each trit, most significant first, its columns. -/
def Profile.columns (p : Profile) (j : Nat) : List (List Nat) :=
  let starts := (List.range p.n).map (fun i => j * p.width + sumNat (p.copies.take i))
  (starts.zip p.copies).map (fun sc => (List.range sc.2).map (fun c => sc.1 + c))

/-- R37: the converter and tap of a trit-column. -/
def tapOf (col : Nat) : Nat × Nat := (col / 8, col % 8)
/-- R38: the converter bank of an array. -/
def bankOf (a : Nat) : Nat := a % 16
/-- R57: the row-sensing bank of an array. -/
def rowBankOf (a : Nat) : Nat := a % 4
/-- R57: the row converter and tap of a row. -/
def rowTapOf (row : Nat) : Nat × Nat := (row / 8, row % 8)

/-- R50: the monitor pattern of a row, columns M0 … M3. -/
def monitorRow (i : Nat) : List Int :=
  match i % 4 with
  | 0 => [1, 0, 0, 0]
  | 1 => [0, 0, 1, 0]
  | 2 => [0, -1, 0, 0]
  | _ => [0, 0, -1, 0]

/-- R41: the code gain G in quarters of a row per code. -/
def gainQ (band : Nat) : Nat := if band = 64 then 1 else if band = 128 then 2 else if band = 1024 then 8 else 4

/-- R19: the largest magnitude of an activation format. -/
def actMax (n : Nat) : Nat := tritMax n

/-- R20: the activation scale of a band from its largest magnitude. -/
def bandScale (xs : List Bf16) (n : Nat) : Bf16 :=
  let amax := xs.foldl (fun m x => let v := dAbs (bVal x); if dLt m v then v else m) ⟨0, 0⟩
  bfRoundUpQuot amax (actMax n)

/-- Round a quotient of two dyadic numbers to the nearest integer, halves away from zero. -/
def quotRoundAway (x s : Dyadic) : Int :=
  if s.m = 0 then 0
  else
    let e := x.e - s.e
    let num := x.m.natAbs * 2 ^ e.toNat
    let den := s.m.natAbs * 2 ^ (-e).toNat
    let q : Int := ((2 * num + den) / (2 * den) : Nat)
    if decide (x.m < 0) != decide (s.m < 0) then -q else q

/-- R20: the integer of one activation under a scale. -/
def quantAct (x sa : Bf16) (n : Nat) : Int :=
  clampI (quotRoundAway (bVal x) (bVal sa)) (-(actMax n : Int)) (actMax n)

/-- R21: the plane p of integers. -/
def planeOf (qs : List Int) (n p : Nat) : List Int := qs.map (fun q => (trits n q).getD p 0)

/-- R31: largest code of a key-value format (0 K8V8, 1 K4V4) and elements per scale group of a head of D elements. -/
def kvMax (fmt : Nat) : Nat := if fmt = 0 then 127 else 7
def kvGroup (fmt d : Nat) : Nat := if fmt = 0 then max d 1 else 32

/-- R31: one group quantized: its scale and its codes. -/
def quantGroup (fmt : Nat) (xs : List Bf16) : Bf16 × List Int :=
  let amax := xs.foldl (fun m x => let v := dAbs (bVal x); if dLt m v then v else m) ⟨0, 0⟩
  let s := bfRoundUpQuot amax (kvMax fmt)
  let q := fun x => if amax.m = 0 then 0
    else clampI (quotRoundAway (bVal x) (bVal s)) (-(kvMax fmt : Int)) (kvMax fmt)
  (s, xs.map q)

/-- R194: the trits of a packed row: `none` where a byte is invalid (R32). -/
def unpackRow (bs : List Byte) : Option (List Int) :=
  bs.foldr (fun b acc => match unpackByte b.toNat, acc with
    | some u, some r => some (u ++ r)
    | _, _ => none) (some [])

/-- R18, R50, R194: the 1,040 trit-columns of array row i from its record row: every trit goes to every copy column. -/
def expandRow (p : Profile) (c i : Nat) (ts : List Int) : List Int :=
  let data := (List.range c).flatMap (fun j =>
    (List.range p.n).flatMap (fun k => List.replicate (p.copies.getD k 1) (ts.getD (j * p.n + k) 0)))
  let pad := List.replicate (1024 - c * p.width) (0 : Int)
  let ck := (List.range 12).map (fun m => ts.getD (c * p.n + m) 0)
  (data ++ pad).take 1024 ++ ck ++ monitorRow i

/-- R15: the integer weights of a record row. -/
def rowWeights (p : Profile) (c : Nat) (ts : List Int) : List Int :=
  (List.range c).map (fun j => tritVal ((List.range p.n).map (fun k => ts.getD (j * p.n + k) 0)).reverse)

/-- R48: whether a record row meets the checksum relation of every group. -/
def rowChecks (p : Profile) (c : Nat) (eg : List Nat) (ts : List Int) : Bool :=
  (List.range 4).all (fun g =>
    let w := rowWeights p c ts
    let s := sumInt ((List.range c).filterMap (fun j => if j % 4 = g then some (w.getD j 0) else none))
    let cg := tritVal ((List.range 3).map (fun m => ts.getD (c * p.n + 3 * g + m) 0)).reverse
    s == (3 ^ (eg.getD g 0) : Nat) * cg)

end Sys2Proof.Machine
end

