-- ==== Sys2Proof/Machine/Kernels.lean ====
section
/-! DEFINITION. What the score engines compute, as functions of values: norms (R115, R175), activation functions (R116),
rotary positions (R125), scores and attention (R127–R129), routing (R110, R111), sampling (R119), the loss (R169), adapters
(R166) and the E4M3 encoding. FP32 expressions are evaluated as they are written, each operation rounded (log entry 18). -/
namespace Sys2Proof.Machine

/-! ### Tables in the image's digital section (R103, R188) -/

/-- A bfloat16 at a byte offset. -/
def bfAt (bs : List Byte) (ofs : Nat) : Bf16 := BitVec.ofNat 16 (leAt bs ofs 2)
/-- n bfloat16 values from a byte offset on. -/
def bfVec (bs : List Byte) (ofs n : Nat) : List Bf16 := (List.range n).map (fun i => bfAt bs (ofs + 2 * i))
/-- A table that may be absent: offset 0 (R103). -/
def bfTable (bs : List Byte) (ofs n : Nat) : Option (List Bf16) := if ofs = 0 then none else some (bfVec bs ofs n)
/-- An FP32 field of a descriptor. -/
def dF32 (d : Desc) (ofs : Nat) : F32 := BitVec.ofNat 32 (leAt d ofs 4)

def bMul (a b : Bf16) : F32 := fMul (ofBf a) (ofBf b)
def zipF (f : F32 → F32 → F32) (a b : List F32) : List F32 := (a.zip b).map (fun p => f p.1 p.2)
/-- Element i of a vector, +0 beyond its end. -/
def vGet (v : List F32) (i : Nat) : F32 := v.getD i 0
def bGet (v : List Bf16) (i : Nat) : Bf16 := v.getD i 0
/-- R78: a compensated sum rounded to FP32. -/
def fSum (xs : List F32) : F32 := cToF (cSum xs)

/-! ### Norms (R115, R175) -/

/-- R115: inverse root and mean of slot 0. -/
def normStats (mode : Nat) (eps : F32) (x : List F32) : F32 × F32 :=
  let d := fOfInt x.length
  if mode = 0 then (fDiv fOne (fSqrt (fAdd (fDiv (fSum (x.map (fun a => fMul a a))) d) eps)), 0)
  else
    let mu := fDiv (fSum x) d
    let v := fDiv (fSum (x.map (fun a => fMul (fSub a mu) (fSub a mu)))) d
    (fDiv fOne (fSqrt (fAdd v eps)), mu)

/-- R115: the output of NORM from its saved statistics. -/
def normOut (mode : Nat) (x : List F32) (r mu : F32) (g : List Bf16) (b : Option (List Bf16)) : List Bf16 :=
  (List.range x.length).map (fun i =>
    let y := fMul (fMul (fSub (vGet x i) mu) r) (ofBf (bGet g i))
    toBf (if mode = 0 then y else fAdd y ((b.map (fun b => ofBf (bGet b i))).getD 0)))

/-- R175: the normalised input, the input gradient, and the gain gradient of one position. -/
def normBack (mode : Nat) (x : List F32) (r mu : F32) (g : List Bf16) (dy : List F32) : List F32 × List F32 :=
  let n := fOfInt x.length
  let xh := x.map (fun a => fMul (fSub a mu) r)
  let gh := (List.range x.length).map (fun i => fMul (ofBf (bGet g i)) (vGet dy i))
  let mgx := fDiv (fSum (zipF fMul gh xh)) n
  let mg := if mode = 0 then 0 else fDiv (fSum gh) n
  ((List.range x.length).map (fun i => fMul r (fSub (fSub (vGet gh i) mg) (fMul (vGet xh i) mgx))),
    zipF fMul dy xh)

/-! ### Activation functions (R116, R174) -/

def sigmoid (z : F32) : F32 := fDiv fOne (fAdd fOne (fExpE (fNegate z)))
def silu (z : F32) : F32 := fDiv z (fAdd fOne (fExpE (fNegate z)))
/-- 0.7978846 and 0.044715. -/
def geluInner (z : F32) : F32 := fMul 0x3F4C422A#32 (fAdd z (fMul 0x3D372713#32 (fMul z (fMul z z))))
def gelu (z : F32) : F32 := fMul (fMul fHalf z) (fAdd fOne (fTanh (geluInner z)))
def relu2 (z : F32) : F32 := let m := fMax 0 z; fMul m m

/-- R103, R116: the function a FUNC code applies to SRC. -/
def actFn (func : Nat) (z : F32) : F32 :=
  match func with
  | 0 => silu z
  | 1 => gelu z
  | 2 => gelu z
  | 3 => silu z
  | _ => relu2 z

/-- Whether a FUNC code is gated. -/
def gated (func : Nat) : Bool := decide (func ≤ 1)

/-- R116: ACT on a vector. -/
def actOut (func : Nat) (a b : List Bf16) : List Bf16 :=
  (List.range a.length).map (fun i =>
    let y := actFn func (ofBf (bGet a i))
    toBf (if gated func then fMul y (ofBf (bGet b i)) else y))

/-- R174: the FP32 derivative of a FUNC at an input. -/
def actDeriv (func : Nat) (z : F32) : F32 :=
  let dsilu := let s := sigmoid z; fMul s (fAdd fOne (fMul z (fSub fOne s)))
  let dgelu :=
    let t := fTanh (geluInner z)
    let inner := fMul 0x3F4C422A#32 (fAdd fOne (fMul 0x3E095D4F#32 (fMul z z)))
    fAdd (fMul fHalf (fAdd fOne t)) (fMul (fMul (fMul fHalf z) (fSub fOne (fMul t t))) inner)
  match func with
  | 0 => dsilu
  | 1 => dgelu
  | 2 => dgelu
  | 3 => dsilu
  | _ => fMul 0x40000000#32 (fMax 0 z)

/-- R174: the gradients of SRC and SRC2 under ACT. -/
def actBack (func : Nat) (a b : List Bf16) (dy : List F32) : List F32 × List F32 :=
  ((List.range a.length).map (fun i =>
      let d := fMul (vGet dy i) (actDeriv func (ofBf (bGet a i)))
      if gated func then fMul d (ofBf (bGet b i)) else d),
    (List.range b.length).map (fun i => fMul (vGet dy i) (actFn func (ofBf (bGet a i)))))

/-! ### E4M3 (R128, R129) -/

/-- The nearest E4M3 value, ties to even, at most 448 in magnitude. -/
def toE4M3 (x : F32) : F32 :=
  let d := fVal x
  if d.m = 0 then 0
  else
    let k : Int := (Nat.log2 d.m.natAbs : Int) + d.e
    let st : Int := max k (-6) - 3
    let sh := d.e - st
    let num := d.m.natAbs * 2 ^ sh.toNat
    let den := 2 ^ (-sh).toNat
    let q := num / den
    let r := 2 * (num % den)
    let q1 := if decide (den < r) || (r == den && q % 2 == 1) then q + 1 else q
    let v : Dyadic := ⟨if d.m < 0 then -(q1 : Int) else q1, st⟩
    if dLt ⟨448, 0⟩ (dAbs v) then fOf ⟨if d.m < 0 then -448 else 448, 0⟩ else fOf v

/-! ### Attention (R125–R129, R176) -/

/-- The fields of an ATTN descriptor. -/
structure AttnDesc where
  qHeads : Nat
  heads : Nat
  dim : Nat
  layer : Nat
  window : Nat
  theta : F32
  scale : F32
  dims : Nat
  fp8 : Bool
  sm : F32
  cap : F32
deriving DecidableEq, Repr

def attnDesc (d : Desc) : AttnDesc :=
  ⟨leAt d 16 2, leAt d 18 2, leAt d 20 2, leAt d 22 2, leAt d 24 4, dF32 d 28, dF32 d 32, leAt d 36 2, leAt d 38 1 == 1,
    dF32 d 40, dF32 d 44⟩

/-- R125: the angle of a rotated pair at a position. Log entry 47 (DESIGN CHOICE). -/
def ropeAngle (a : AttnDesc) (t i : Nat) : F32 :=
  fMul (fMul (fOfInt t) a.scale) (fPow a.theta (fDiv (fNegate (fOfInt (2 * i : Nat))) (fOfInt a.dims)))

/-- R125: one head rotated by the angles times a sign; elements beyond ROPE_DIMS stay. -/
def rotate (a : AttnDesc) (t : Nat) (inverse : Bool) (v : List F32) : List F32 :=
  let half := a.dims / 2
  (List.range a.dim).map (fun e =>
    if a.dims ≤ e then vGet v e
    else
      let i := e % max 1 half
      let φ := ropeAngle a t i
      let s := if inverse then fNegate (fClean (Config.fsin φ)) else fClean (Config.fsin φ)
      let c := fClean (Config.fcos φ)
      if e < half then fSub (fMul (vGet v i) c) (fMul (vGet v (i + half)) s)
      else fAdd (fMul (vGet v i) s) (fMul (vGet v (i + half)) c))

/-- R125: a head of bfloat16 elements rotated and rounded. -/
def rotateBf (a : AttnDesc) (t : Nat) (v : List Bf16) : List Bf16 :=
  if a.dims = 0 then v
  else
    let r := rotate a t false (v.map ofBf)
    (List.range a.dim).map (fun e => if e < a.dims then toBf (vGet r e) else bGet v e)

/-- One head of a vector. -/
def headOf {α : Type} (v : List α) (h dim : Nat) : List α := (v.drop (h * dim)).take dim

/-- R31: two's complement codes of a row as bytes: one per element, or two to a byte. -/
def codeBytes (fmt : Nat) (cs : List Int) : List Byte :=
  if fmt = 0 then cs.map (fun c => BitVec.ofInt 8 c)
  else (List.range (cs.length / 2)).map (fun i =>
    BitVec.ofNat 8 (twos 4 (cs.getD (2 * i) 0) + 16 * twos 4 (cs.getD (2 * i + 1) 0)))

/-- R31: the codes of stored bytes; −128 and −8 count as −127 and −7. -/
def bytesCodes (fmt : Nat) (bs : List Byte) : List Int :=
  if fmt = 0 then bs.map (fun b => max (-127) (signed 8 b.toNat))
  else bs.flatMap (fun b => [max (-7) (signed 4 (b.toNat % 16)), max (-7) (signed 4 (b.toNat / 16))])

/-- R31: one head quantized: element bytes and scale bytes. -/
def quantHead (fmt dim : Nat) (v : List Bf16) : List Byte × List Byte :=
  let g := kvGroup fmt dim
  let gs := (chunks g (ceilDiv dim g) v).map (quantGroup fmt)
  (codeBytes fmt (gs.flatMap Prod.snd), gs.flatMap (fun p => le 2 p.1.toNat))

/-- R126: the staged row of a position: key and value of every key-value head. -/
def kvRowOf (a : AttnDesc) (fmt : Nat) (ks vs : List (List Bf16)) : KvRow :=
  let rows := (List.range a.heads).flatMap (fun h => [quantHead fmt a.dim (ks.getD h []), quantHead fmt a.dim (vs.getD h [])])
  ⟨rows.map Prod.fst, rows.map Prod.snd⟩

/-- A stored row's codes and group scales. -/
def rowCodes (fmt : Nat) (r : KvRow) (row : Nat) : List Int := bytesCodes fmt (r.elems.getD row [])
def rowScale (fmt dim : Nat) (r : KvRow) (row e : Nat) : Bf16 := bfAt (r.scales.getD row []) (2 * (e / kvGroup fmt dim))

/-- R31: the dequantized element of a stored row. -/
def rowValue (fmt dim : Nat) (r : KvRow) (row e : Nat) : F32 :=
  fMul (ofBf (rowScale fmt dim r row e)) (fOfInt ((rowCodes fmt r row).getD e 0))

/-- R128: the score of one key. -/
def score (a : AttnDesc) (fmt : Nat) (q : List Bf16) (r : KvRow) (g : Nat) : F32 :=
  let cs := rowCodes fmt r (2 * g)
  let amax := q.foldl (fun m x => fMax m (fAbs (ofBf x))) 0
  let qs := if a.fp8 then fDiv amax 0x43E00000#32 else fOne
  let qv := fun i => if a.fp8 then toE4M3 (fDiv (ofBf (bGet q i)) qs) else ofBf (bGet q i)
  let grp := kvGroup fmt a.dim
  let sum := (List.range (ceilDiv a.dim grp)).foldl (fun acc u =>
    let inner := (List.range grp).foldl (fun t i =>
      let e := u * grp + i
      if e < a.dim then fAdd t (fMul (qv e) (fOfInt (cs.getD e 0))) else t) 0
    fAdd acc (fMul (ofBf (rowScale fmt a.dim r (2 * g) (u * grp))) inner)) 0
  let s := fMul (if a.fp8 then fMul sum qs else sum) a.sm
  if fLt 0 a.cap then fMul a.cap (fTanh (fDiv s a.cap)) else s

/-- R129: the streaming softmax of one head over the positions it attends: running maximum, running sum, partial output. -/
def attend (a : AttnDesc) (fmt : Nat) (q : List Bf16) (rows : List KvRow) (g : Nat) : F32 × F32 × List F32 :=
  rows.foldl (fun acc r =>
    let s := score a fmt q r g
    let m := if acc.2.1 = 0 ∧ acc.2.2 = [] then s else fMax acc.1 s
    let k := if acc.2.2 = [] then 0 else fExpE (fSub acc.1 m)
    let p0 := fExpE (fSub s m)
    let p := if a.fp8 then toE4M3 p0 else ofBf (toBf p0)
    (m, fAdd (fMul acc.2.1 k) p, (List.range a.dim).map (fun e =>
      fAdd (fMul (vGet acc.2.2 e) k) (fMul (fMul p (ofBf (rowScale fmt a.dim r (2 * g + 1) e)))
        (fOfInt ((rowCodes fmt r (2 * g + 1)).getD e 0)))))) (0, 0, [])

/-- R127: the first position a query attends. -/
def attendFrom (a : AttnDesc) (t : Nat) : Nat := if a.window = 0 then 0 else t + 1 - a.window

/-- R176: the gradients of one head at one position: dq, and per attended row dk and dv; the Bool says lse < m. -/
def attendBack (a : AttnDesc) (fmt : Nat) (q : List Bf16) (o dO : List F32) (m lse : F32) (rows : List KvRow) (g : Nat) :
    List F32 × List (List F32 × List F32) × Bool :=
  let bad := fLt lse m
  let lse := if bad then m else lse
  let dd := (List.range a.dim).foldl (fun t e => fAdd t (fMul (vGet dO e) (vGet o e))) 0
  let one := fun (r : KvRow) =>
    let s := score a fmt q r g
    let p := fExpE (fSub s lse)
    let dp := (List.range a.dim).foldl (fun t e => fAdd t (fMul (vGet dO e) (rowValue fmt a.dim r (2 * g + 1) e))) 0
    let ds0 := fMul p (fSub dp dd)
    let ds := if fLt 0 a.cap then fMul ds0 (fSub fOne (fMul (fDiv s a.cap) (fDiv s a.cap))) else ds0
    let k := fMul a.sm ds
    ((List.range a.dim).map (fun e => fMul k (rowValue fmt a.dim r (2 * g) e)),
      (List.range a.dim).map (fun e => fMul k (ofBf (bGet q e))), dO.map (fMul p))
  let per := rows.map one
  (per.foldl (fun acc r => zipF fAdd acc r.1) (List.replicate a.dim 0), per.map Prod.snd, bad)

/-! ### Routing (R110, R111) -/

/-- R110: router logits. -/
def routerLogits (x : List Bf16) (u : List Bf16) (experts : Nat) : List F32 :=
  (List.range experts).map (fun e => fSum ((List.range x.length).map (fun i => bMul (bGet x i) (bGet u (i * experts + e)))))

/-- Indices by falling value, the lower index first among equals. -/
def byValue (xs : List F32) : List Nat :=
  (sortBy (fun (a b : Nat × F32) => fLt b.2 a.2) ((List.range xs.length).zip xs)).map Prod.fst

/-- Largest of a list. -/
def fMaxL (xs : List F32) : F32 :=
  match xs with
  | [] => 0
  | y :: ys => ys.foldl fMax y

/-- R110, R111: the chosen experts in ascending order, each with its gate weight. -/
def routeOf (l : List F32) (bias : Option (List Bf16)) (k mode : Nat) (scale : F32) : List (Nat × F32) :=
  let sel := (List.range l.length).map (fun e => match bias with
    | none => vGet l e
    | some b => fAdd (vGet l e) (ofBf (bGet b e)))
  let chosen := sortBy (fun a b => decide (a < b)) ((byValue sel).take k)
  let w : Nat → F32 :=
    if mode = 0 then
      let mx := fMaxL l
      let z := fSum (l.map (fun a => fExpE (fSub a mx)))
      fun e => fDiv (fExpE (fSub (vGet l e) mx)) z
    else if mode = 1 then
      let mx := fMaxL (chosen.map (vGet l))
      fun e => fExpE (fSub (vGet l e) mx)
    else fun e => sigmoid (vGet l e)
  let tot := fSum (chosen.map w)
  chosen.map (fun e => (e, fMul (fDiv (w e) tot) scale))

/-! ### The head: caps, sampling, loss (R117, R119, R169) -/

/-- R117: a logit under SOFTCAP. -/
def capLogit (c z : F32) : F32 := if fLt 0 c then fMul c (fTanh (fDiv z c)) else z

/-- R119: a uniform draw in [0, 1): the high 24 bits of a draw of the internal source. -/
def uniform (d : F32) : F32 := fOf ⟨((d.toNat / 256 : Nat) : Int), -24⟩

/-- R119: cut to the shortest prefix whose sum is at least top_p. -/
def cutTopP (topP : F32) : F32 → List (Nat × F32) → List (Nat × F32)
  | _, [] => []
  | run, x :: xs =>
    let r := fAdd run x.2
    if fLe topP r then [x] else x :: cutTopP topP r xs

/-- R119: walk the kept tokens to the draw. -/
def pick (u : F32) : F32 → List (Nat × F32) → Nat × F32 → Nat × F32
  | _, [], last => last
  | run, x :: xs, _ =>
    let r := fAdd run x.2
    if fLt u r then x else pick u r xs x

/-- R119: the token drawn from logits, and its log-probability. -/
def sampleToken (z : List F32) (p : Sampling) (u : F32) : Nat × F32 :=
  if fIsZero p.temperature then ((byValue z).headD 0, 0)
  else
    let z := z.map (fun a => fDiv a p.temperature)
    let order := byValue z
    let keep := if p.topK = 0 then order else order.take p.topK
    let mx := fMaxL (keep.map (vGet z))
    let e := keep.map (fun i => (i, fExpE (fSub (vGet z i) mx)))
    let tot := e.foldl (fun t x => fAdd t x.2) 0
    let pr := e.map (fun x => (x.1, fDiv x.2 tot))
    let pm := fMaxL (pr.map Prod.snd)
    let kept := pr.filter (fun x => !fLt x.2 (fMul p.minP pm))
    let sorted := sortBy (fun (a b : Nat × F32) => fLt b.2 a.2 || (!fLt a.2 b.2 && decide (a.1 < b.1))) kept
    let cut := cutTopP p.topP 0 sorted
    let tot2 := cut.foldl (fun t x => fAdd t x.2) 0
    let fin := cut.map (fun x => (x.1, fDiv x.2 tot2))
    let got := pick u 0 fin (fin.headD (0, fOne))
    (got.1, fLn got.2)

/-- R169: loss and dz of a target. -/
def lossOf (z : List F32) (y : Nat) (scale cap : F32) : F32 × List F32 :=
  let mx := fMaxL z
  let lse := fAdd (fLn (fSum (z.map (fun a => fExpE (fSub a mx))))) mx
  (fSub lse (vGet z y), (List.range z.length).map (fun v =>
    let d := fMul scale (fSub (fExpE (fSub (vGet z v) lse)) (if v = y then fOne else 0))
    if fLt 0 cap then fMul d (fSub fOne (fMul (fDiv (vGet z v) cap) (fDiv (vGet z v) cap))) else d))

/-! ### Adapters (R160, R163, R166) -/

/-- R163: the working copy of a tensor at a version. -/
def Tensor.work (t : Tensor) (version : Nat) : List Bf16 := if version % 2 = 0 then t.work0 else t.work1

/-- The tensor of a kind in a bound set, with its number. -/
def boundTensor (x : Vi) (adp : Option (Nat × Nat)) (ok : TensorKind → Bool) : Option (Nat × Tensor) :=
  adp.bind (fun a => (tget x.sets a.1).bind (fun s =>
    ((List.range s.tensors.length).zip s.tensors).find? (fun t => ok t.2.kind)))

/-- R161: the scale of a hook in a bound set. -/
def hookScale (x : Vi) (adp : Option (Nat × Nat)) (hook : Nat) : F32 :=
  (adp.bind (fun a => (tget x.sets a.1).bind (fun s => (s.hooks.find? (fun h => h.1 == hook)).map (fun h => h.2.2.1)))).getD 0

/-- A filled hook of the bound version: rank, scale, A and B with their tensor numbers. -/
structure Hook where
  rank : Nat
  scale : F32
  a : List Bf16
  b : List Bf16
  aNo : Nat
  bNo : Nat
deriving DecidableEq, Repr

def boundHook (x : Vi) (adp : Option (Nat × Nat)) (hook : Nat) : Option Hook :=
  let isA := fun k => match k with
    | .hookA h _ => h == hook
    | _ => false
  let isB := fun k => match k with
    | .hookB h _ => h == hook
    | _ => false
  match boundTensor x adp isA, boundTensor x adp isB, adp with
  | some (i, ta), some (j, tb), some (_, v) => some ⟨ta.rows, hookScale x adp hook, ta.work v, tb.work v, i, j⟩
  | _, _, _ => none

/-- R166: h(k). -/
def hookH (h : Hook) (xs : List Bf16) : List F32 :=
  (List.range h.rank).map (fun k => fSum ((List.range xs.length).map (fun i => bMul (bGet h.a (k * xs.length + i)) (bGet xs i))))

/-- R166: u(j) for the DIM_OUT outputs. -/
def hookU (h : Hook) (xs : List Bf16) (dimOut : Nat) : List F32 :=
  let hk := hookH h xs
  (List.range dimOut).map (fun j =>
    fMul h.scale (fSum ((List.range h.rank).map (fun k => fMul (ofBf (bGet h.b (j * h.rank + k))) (vGet hk k)))))

/-- R179: the gradients of B and A, and what the hook adds to dx, for an output gradient. -/
def hookBack (h : Hook) (xs : List Bf16) (dy : List F32) : List F32 × List F32 × List F32 :=
  let hk := hookH h xs
  let gv := (List.range h.rank).map (fun k => fSum ((List.range dy.length).map (fun j =>
    fMul (ofBf (bGet h.b (j * h.rank + k))) (vGet dy j))))
  let gB := (List.range dy.length).flatMap (fun j => (List.range h.rank).map (fun k =>
    fMul (fMul h.scale (vGet dy j)) (vGet hk k)))
  let gA := (List.range h.rank).flatMap (fun k => (List.range xs.length).map (fun i =>
    fMul (fMul h.scale (vGet gv k)) (ofBf (bGet xs i))))
  let dx := (List.range xs.length).map (fun i =>
    fMul h.scale (fSum ((List.range h.rank).map (fun k => fMul (ofBf (bGet h.a (k * xs.length + i))) (vGet gv k)))))
  (gB, gA, dx)

end Sys2Proof.Machine
end

