-- ==== Sys2Proof/Machine/Waves.lean ====
section
/-! DEFINITION. How tokens meet the yelms: tokens and their descriptors (R105), wave queues and waves (R107–R109), places,
bands and outlier rows of a projection (R24, R25, R76, R189), the ligger chain (R79–R82), and the precision counters
(R216–R219). -/
namespace Sys2Proof.Machine

/-! ### Precision counters (R216–R219) -/

def UnitPrec.zero : UnitPrec := ⟨List.replicate 12 0, 0, List.replicate 13 0⟩

/-- Counter numbers of R216, in its order. -/
def cBands : Nat := 0
def cOvr : Nat := 1
def cSat : Nat := 2
def cZero : Nat := 3
def cSoft : Nat := 4
def cHard : Nat := 5
def cRepeat : Nat := 6
def cTokens : Nat := 7
def cOutl : Nat := 8
def cTbands : Nat := 9
def cTovr : Nat := 10
def cBudget : Nat := 11

def addAt (xs : List Nat) (i n : Nat) : List Nat := xs.set i (satAdd (lget xs i 0) n)

/-- R216, R218: n events in a unit of a VI: its counter, the VI total, the window's count. -/
def State.count (s : State) (v unit i n : Nat) : State :=
  if n = 0 then s
  else s.modVi v (fun x =>
    let u := tgetD x.prec.units unit .zero
    let w := if i = cBands then addAt (addAt u.window i n) 12 n else addAt u.window i n
    let u := { u with counts := addAt u.counts i n, window := if x.prec.started then w else u.window }
    { x with prec := { x.prec with units := tset x.prec.units unit u, totals := addAt x.prec.totals i n } })

/-- R219: a unit is flagged for a cause, by its bit in FLAG_STATUS. -/
def State.raiseFlag (s : State) (v unit cause : Nat) : State :=
  s.modVi v (fun x =>
    let u := tgetD x.prec.units unit .zero
    let clear := !bitOf x.prec.flagStatus 0
    { x with prec := { x.prec with
        units := tset x.prec.units unit { u with flags := u.flags ||| 2 ^ (cause - 1) },
        flagStatus := x.prec.flagStatus ||| (1 + 2 ^ cause),
        flagEvents := min (x.prec.flagEvents + 1) 0xFFFF,
        firstUnit := if clear then unit else x.prec.firstUnit,
        flagStamp := if clear then s.now else x.prec.flagStamp } })

/-! ### Tokens and descriptors (R105, R106) -/

def State.imageOf (s : State) (v : Nat) : Option Image := (s.vi? v).bind (fun x => x.img.image)
def descAt (im : Image) (i : Nat) : Desc := im.program.getD i []
def Step.tok? (t : Step) (i : Nat) : Option Tok := t.toks[i]?
def Step.modTok (t : Step) (i : Nat) (f : Tok → Tok) : Step :=
  match t.toks[i]? with
  | none => t
  | some k => { t with toks := t.toks.set i (f k) }
def State.modTok (s : State) (k i : Nat) (f : Tok → Tok) : State := s.modStep k (fun t => t.modTok i f)

/-- R105, R173: a token has finished its descriptor: it goes on to the next, or is done. -/
def Step.finish (im : Image) (items : List (Nat × Nat × Saved)) (t : Step) (i : Nat) (k : Tok) : Tok :=
  if t.kind = .backward then
    (if k.desc = 0 then { k with done := true } else arriveBack im items { k with desc := k.desc - 1 })
  else
    let d := descAt im (k.desc + 1)
    if dKind d = 0 ∨ (dKind d = 9 ∧ !t.samples i) then { k with desc := k.desc + 1, done := true }
    else if dKind d = 8 then { k with desc := k.desc + 1, routes := tgetD k.lists (dLayer d) [] }
    else { k with desc := k.desc + 1 }

/-- R106: whether a step has passed a descriptor, in its own direction. -/
def Step.passed (t : Step) (d : Nat) : Bool :=
  t.toks.all (fun c => c.done || (if t.kind = .backward then decide (c.desc < d) else decide (d < c.desc)))

/-- R106: the last descriptor, in a step's direction, with the LAYER of a descriptor; outside layers the descriptor itself. -/
def layerEnd (im : Image) (back : Bool) (d : Nat) : Nat :=
  let l := dLayer (descAt im d)
  if l = 0xFFFF then d
  else
    let mine := (List.range im.program.length).filter (fun i => dLayer (descAt im i) == l)
    ((if back then mine.head? else mine.getLast?)).getD d

/-- R102: the ATTN of a KV layer. -/
def attnIdx (im : Image) (layer : Nat) : Nat := im.program.findIdx (fun d => dKind d == 4 && leAt d 22 2 == layer)

/-- R106: whether finishing a descriptor made a step pass a layer, the end of all its positions included. -/
def Step.boundary (im : Image) (t : Step) (d : Nat) : Bool :=
  t.toks.all Tok.done ||
    (dLayer (descAt im d) != 0xFFFF && layerEnd im (t.kind == .backward) d == d && t.passed d)

/-- R106, R136: what follows for a step when a token has finished a descriptor: layer copies of passed layers are freed, and a
step that is to end may have come to its boundary. -/
def Step.settle (im : Image) (t : Step) (d : Nat) : Step :=
  { t with layerCopies := t.layerCopies.filter (fun c => !t.passed (layerEnd im (t.kind == .backward) (attnIdx im c.layer))),
           crossed := t.crossed || (t.ending && t.boundary im d) }

/-- Change a token and finish its descriptor. -/
def State.finishDesc (s : State) (im : Image) (k i : Nat) (f : Tok → Tok) : State :=
  s.modStep k (fun t => (t.modTok i (fun c =>
    t.finish im (((s.vi? t.vi).map (fun x => savedItems x t)).getD []) i (f c))).settle im (((t.tok? i).map Tok.desc).getD 0))

/-- A token that may run its descriptor of a kind: image, step, token, descriptor. -/
def State.ready (s : State) (k i kind : Nat) : Option (Image × Step × Tok × Desc) :=
  match s.step? k with
  | none => none
  | some t =>
    match s.imageOf t.vi, t.tok? i with
    | some im, some c =>
      let d := descAt im c.desc
      if t.inFlight ∧ !t.crossed ∧ !c.done ∧ dKind d = kind ∧ s.pwr.state ≤ 1 ∧ !(s.hbmHeld && [1, 2, 4, 9].contains kind) then
        some (im, t, c, d)
      else none
    | _, _ => none

/-! ### Values of the forward pass, kept or computed again (R171, R174) -/

/-- R115, R160: the gain a NORM uses: the bound set's where it holds one, else the image's. Log entry 22 (DEDUCED). -/
def normGain (x : Vi) (im : Image) (adp : Option (Nat × Nat)) (d : Desc) : List Bf16 :=
  let own := boundTensor x adp (fun k => match k with
    | .gain n => n == leAt d 38 2
    | _ => false)
  match own, adp with
  | some (_, t), some (_, v) => t.work v
  | _, _ => (bfTable im.digital (leAt d 16 8) (dIn d)).getD (List.replicate (dIn d) 0x3F80#16)

def normOf (x : Vi) (im : Image) (adp : Option (Nat × Nat)) (d : Desc) (xs : List F32) (r mu : F32) : List Bf16 :=
  normOut (leAt d 36 1) xs r mu (normGain x im adp d) (bfTable im.digital (leAt d 24 8) (dIn d))

/-- Whether a descriptor writes a slot. -/
def writesSlot (d : Desc) (slot : Nat) : Bool := [2, 3, 4, 5].contains (dKind d) && !dFuse d && dDst d == slot

/-- R174: a slot's value before a descriptor, from what is saved and what has been read again; else the projections that
have to be read again first. -/
def fwdValue (x : Vi) (im : Image) (items : List (Nat × Nat × Saved)) (adp : Option (Nat × Nat)) (c : Tok) :
    Nat → Nat → Nat → Option (List Bf16) × List Nat
  | 0, _, _ => (none, [])
  | fuel + 1, d, slot =>
    match (List.range d).reverse.find? (fun w => writesSlot (descAt im w) slot) with
    | none => (none, [])
    | some w =>
      let e := descAt im w
      match dKind e with
      | 2 => match savedAt items c.pos w with
        | some (.norm xs r mu) => (some (normOf x im adp e xs r mu), [])
        | _ => (none, [])
      | 4 => match savedAt items c.pos w with
        | some (.attn _ o _ _) => (some o, [])
        | _ => (none, [])
      | 3 => match tget c.slots w with
        | some v => (some v, [])
        | none =>
          let i := fwdValue x im items adp c fuel w (dSrc e)
          (none, if i.1.isSome then [w] else i.2)
      | _ =>
        let a := fwdValue x im items adp c fuel w (dSrc e)
        let b := if gated (leAt e 16 1) then fwdValue x im items adp c fuel w (dSrc2 e) else (some [], [])
        match a.1, b.1 with
        | some va, some vb => (some (actOut (leAt e 16 1) va vb), [])
        | _, _ => (none, a.2 ++ b.2)

def fwdSlot (x : Vi) (im : Image) (t : Step) (c : Tok) (d slot : Nat) : Option (List Bf16) × List Nat :=
  fwdValue x im (savedItems x t) t.adp c (d + 1) d slot

/-! ### What a token wants of the yelms (R105, R113, R174) -/

/-- A forward read that a token waits for. -/
structure Want where
  proj : Nat
  desc : Nat
  role : Option (Nat × Bool)
  x : List Bf16
deriving DecidableEq, Repr

/-- R190: the expert table entry of a choice, and its two projections. -/
def expertOf (im : Image) (d : Desc) (e : Nat) : Expert := im.experts.getD (leAt d 16 4 + e) ⟨0xFFFF, 0xFFFF, []⟩
def choiceProj (im : Image) (d : Desc) (c : Choice) (down : Bool) : Nat :=
  let r := (expertOf im d c.expert).replicas.getD c.replica (0, 0)
  if down then r.2 else r.1

/-- Reads again that a backward token needs for slots of descriptors. -/
def rereads (x : Vi) (im : Image) (t : Step) (c : Tok) (ds : List Nat) : List Want :=
  ds.filterMap (fun w =>
    let e := descAt im w
    (fwdSlot x im t c w (dSrc e)).1.map (fun v => ⟨leAt e 16 4, w, none, v⟩))

/-- R113: the expert reads that a token at EXPERTS wants, with the experts' input. -/
def expertWants (im : Image) (c : Tok) (d : Desc) (back : Bool) (v : List Bf16) : List Want :=
  ((List.range c.routes.length).zip c.routes).filterMap (fun kc =>
    let ch := kc.2
    if ch.gu.isNone then some ⟨choiceProj im d ch false, c.desc, some (kc.1, false), v⟩
    else if !back ∧ ch.out.isNone then some ⟨choiceProj im d ch true, c.desc, some (kc.1, true), ch.mid.getD []⟩
    else none)

/-- R105, R113, R174: the forward reads a token waits for at its descriptor. -/
def wants (x : Vi) (im : Image) (t : Step) (c : Tok) : List Want :=
  let d := descAt im c.desc
  if c.done then []
  else if t.kind = .backward then
    match dKind d with
    | 3 => if (boundHook x t.adp (leAt d 22 2)).isSome then rereads x im t c (fwdSlot x im t c c.desc (dSrc d)).2 else []
    | 5 => rereads x im t c ((fwdSlot x im t c c.desc (dSrc d)).2 ++
        (if gated (leAt d 16 1) then (fwdSlot x im t c c.desc (dSrc2 d)).2 else []))
    | 8 =>
      let v := fwdSlot x im t c c.desc (dSrc d)
      match v.1 with
      | none => rereads x im t c v.2
      | some xs => expertWants im c d true xs
    | _ => []
  else
    let v := tgetD c.slots (dSrc d) []
    match dKind d with
    | 3 => [⟨leAt d 16 4, c.desc, none, v⟩]
    | 8 => expertWants im c d false v
    | 9 => if c.logits = [] then [⟨leAt d 16 4, c.desc, none, v⟩] else []
    | _ => []

/-- Whether a token's read is already in a wave. -/
def State.waved (s : State) (k i : Nat) (w : Want) : Bool :=
  s.waves.any (fun e => e.2.toks.any (fun t => t.2.step == k && t.2.tok == i && t.2.desc == w.desc && t.2.role == w.role))

/-- R108: the order of a wave queue: decode class, admission stamp, position; equal ones in the order of their steps. -/
def queueLt (a b : Nat × Step × Nat × Tok × Want) : Bool :=
  let ta := a.2.1
  let tb := b.2.1
  if ta.kind.decodeClass ≠ tb.kind.decodeClass then ta.kind.decodeClass
  else if ta.adm ≠ tb.adm then decide (ta.adm.getD 0 < tb.adm.getD 0)
  else if a.2.2.2.1.pos ≠ b.2.2.2.1.pos then decide (a.2.2.2.1.pos < b.2.2.2.1.pos)
  else decide (a.1 < b.1)

/-- R107: the wave queue of a projection of a VI, in the order of R108. -/
def State.waveQueue (s : State) (v : Nat) (x : Vi) (im : Image) (proj : Nat) : List (Nat × Step × Nat × Tok × Want) :=
  sortBy queueLt ((s.steps.filter (fun e => e.2.vi == v && e.2.inFlight && !e.2.crossed)).flatMap (fun e =>
    ((List.range e.2.toks.length).zip e.2.toks).flatMap (fun ic =>
      ((wants x im e.2 ic.2).filter (fun w => w.proj == proj && !s.waved e.1 ic.1 w)).map (fun w => (e.1, e.2, ic.1, ic.2, w)))))

/-- R112: tokens of a projection in its queue and in its running waves. -/
def State.projLoad (s : State) (v : Nat) (x : Vi) (im : Image) (proj : Nat) : Nat :=
  (s.waveQueue v x im proj).length +
    sumNat (s.waves.map (fun e => if e.2.vi = v ∧ e.2.proj = proj then e.2.toks.length else 0))

/-! ### Places, bands, channels and segments (R80, R189) -/

def arrayIdx (im : Image) (pl : Place) : Option ArrayIdx := im.arrays.find? (fun a => a.yelm == pl.yelm && a.array == pl.array)
def placeRows (im : Image) (pl : Place) : Nat := ((arrayIdx im pl).map ArrayIdx.rows).getD 0
def placeChannels (im : Image) (p : Proj) (pl : Place) : List Nat :=
  (List.range (((arrayIdx im pl).map ArrayIdx.channels).getD 0)).filterMap (fun c =>
    if pl.chFirst + c < p.dimOut then some (pl.chFirst + c) else none)

/-- R80: the yelms of a segment from head to tail. -/
def segYelms (p : Proj) (seg : Nat) : List Nat :=
  ((sortBy (fun (a b : Place) => decide (a.pos < b.pos)) (p.places.filter (fun pl => pl.segment == seg))).map Place.yelm).eraseDups

def projYelms (p : Proj) : List Nat := distinct (p.places.map Place.yelm)

/-- R80: the segment of an output channel. -/
def segOf (im : Image) (p : Proj) (ch : Nat) : Nat :=
  ((p.places.find? (fun pl => (placeChannels im p pl).contains ch)).map Place.segment).getD 0

/-- The output channels whose sums pass a yelm. -/
def yelmChannels (im : Image) (p : Proj) (y : Nat) : List Nat :=
  let segs := (p.places.filter (fun pl => pl.yelm == y)).map Place.segment
  distinct ((p.places.filter (fun pl => segs.contains pl.segment)).flatMap (placeChannels im p))

/-- R84: the output channels that a yelm holds, in ascending order: their columns in its output buffer, its chain receive buffer
and its outlier cache lines. Log entry 112 (DESIGN CHOICE). -/
def heldChannels (im : Image) (p : Proj) (y : Nat) : List Nat :=
  distinct ((p.places.filter (fun pl => pl.yelm == y)).flatMap (placeChannels im p))

/-- R24, R76: whether an array of a yelm holds an input row. -/
def yelmHolds (im : Image) (p : Proj) (y i : Nat) : Bool :=
  p.places.any (fun pl => pl.yelm == y && decide (pl.rowFirst ≤ i) && decide (i < pl.rowFirst + placeRows im pl))

/-- Set an element of a row, padding it. -/
def setCol {α : Type} (xs : List α) (col : Nat) (d v : α) : List α := (xs ++ List.replicate (col + 1 - xs.length) d).set col v

/-- A buffer row after a wave has used its first columns: what it did not use stays (R87). -/
def overlay {α : Type} (old new : List α) : List α := new ++ old.drop new.length

/-- R200: the physical array that serves a logical one. -/
def Vi.physArr (x : Vi) (yelm array : Nat) : Nat := tgetD x.img.map (yelm * 1024 + array) array

/-- R20, R24: the values a band drives: the projection's inputs on its rows, outlier rows at 0. -/
def bandInputs (p : Proj) (pl : Place) (row0 band : Nat) (x : List Bf16) (outl : List Nat) : List Bf16 :=
  (List.range band).map (fun r =>
    let i := pl.rowFirst + row0 + r
    if i < p.dimIn ∧ row0 + r < 1024 ∧ !outl.contains i then bGet x i else 0)

/-- The band reads of a projection on one yelm: place number, first array row. -/
def yelmBands (im : Image) (p : Proj) (y band : Nat) : List (Nat × Nat) :=
  ((List.range p.places.length).zip p.places).flatMap (fun np =>
    if np.2.yelm = y then (List.range (ceilDiv (placeRows im np.2) (max 1 band))).map (fun b => (np.1, b * band)) else [])

/-- R24: the mean of non-negative values: their compensated sum divided by their number, rounded once. -/
def fMean (xs : List F32) : F32 :=
  let c := cSum xs
  if xs = [] then 0 else fOfRat ((fRat c.hi + fRat c.lo) / (xs.length : Rat))

/-- R24: whether a candidate row passes the threshold for a token; the band is that of the first PLACE record that holds the row.
Log entry 110 (DESIGN CHOICE). -/
def promoted (im : Image) (p : Proj) (band : Nat) (statics : List Nat) (x : List Bf16) (i : Nat) : Bool :=
  match p.places.find? (fun pl => decide (pl.rowFirst ≤ i) && decide (i < pl.rowFirst + placeRows im pl)) with
  | none => false
  | some pl =>
    let b0 := (i - pl.rowFirst) / max 1 band * band
    let rows := (List.range band).filterMap (fun r =>
      let e := pl.rowFirst + b0 + r
      if e < p.dimIn ∧ b0 + r < 1024 ∧ !statics.contains e then some (fAbs (ofBf (bGet x e))) else none)
    fLt (fMul p.ratio (fMean rows)) (fAbs (ofBf (bGet x i)))

/-- R25: the outlier rows of a token at a projection, and how many candidates did not fit. -/
def outlierRows (im : Image) (p : Proj) (r : Recipe) (x : List Bf16) : List Nat × Nat :=
  let statics := p.candidates.take p.static
  let cand := (p.candidates.drop p.static).filter (promoted im p (bandOf r p) statics x)
  let ranked := sortBy (fun a b =>
    let xa := fAbs (ofBf (bGet x a))
    let xb := fAbs (ofBf (bGet x b))
    fLt xb xa || (!fLt xa xb && decide (a < b))) cand
  let room := max r.outlierN p.static - p.static
  (statics ++ ranked.take room, ranked.length - room)

/-- R26, R189: the bfloat16 weight of a candidate row and channel. -/
def outlierWeight (im : Image) (p : Proj) (row ch : Nat) : Bf16 :=
  let k := p.candidates.idxOf row
  bfAt im.outlier (p.outOfs + 4 * p.candidates.length + 2 * (k * p.dimOut + ch))

/-- R26: the outlier sum of a channel on a yelm over the token's outlier rows that the yelm holds for the channel, in the order
of R25, with the weights of their cache lines. Log entry 111 (DESIGN CHOICE). -/
def outlierSum (im : Image) (p : Proj) (y ch : Nat) (lines : List (Nat × List Bf16)) (rows : List Nat) (x : List Bf16) : Comp :=
  let col := (heldChannels im p y).idxOf ch
  cSum ((rows.filter (fun i => p.places.any (fun pl => pl.yelm == y && decide (pl.rowFirst ≤ i) &&
      decide (i < pl.rowFirst + placeRows im pl) && (placeChannels im p pl).contains ch))).map (fun i =>
    bMul (bGet (((lines.find? (fun l => l.1 == i)).map Prod.snd).getD []) col) (bGet x i)))

/-- R76: a row of a wave's union at the cache: the line that holds it, or the line loaded for it in the lowest unused line, else
in the least recently used. Answers the lines, the row's weights, and whether a line was loaded. Log entry 112 (DESIGN CHOICE).
-/
def serveLine (cache : List CacheLine) (key : Nat) (fresh : List Bf16) : List CacheLine × List Bf16 × Bool :=
  let now := cache.foldl (fun m l => max m l.used) 0 + 1
  let load : CacheLine := ⟨some key, now, fresh⟩
  match cache.findIdx? (fun l => l.key == some key), cache.findIdx? (fun l => l.key == none) with
  | some i, _ =>
    let l := cache.getD i load
    (cache.set i { l with used := now }, l.weights, false)
  | none, some i => (cache.set i load, fresh, true)
  | none, none =>
    if cache.length < 256 then (cache ++ [load], fresh, true)
    else
      let oldest := cache.foldl (fun m l => min m l.used) now
      (cache.set (cache.findIdx (fun l => l.used == oldest)) load, fresh, true)

/-- R76: the outlier cache over a wave: the lines present first, then the missing rows, static before promoted. Answers the lines,
each row's weights, and how many lines were loaded. -/
def serveRows (cache : List CacheLine) (key : Nat → Nat) (line : Nat → List Bf16) (rows : List Nat) :
    List CacheLine × List (Nat × List Bf16) × Nat :=
  let here := fun r => cache.any (fun l => l.key == some (key r))
  (rows.filter here ++ rows.filter (fun r => !here r)).foldl (fun acc r =>
    let l := serveLine acc.1 (key r) (line r)
    (l.1, acc.2.1 ++ [(r, l.2.1)], acc.2.2 + b2n l.2.2)) (cache, [], 0)

/-! ### Closing a wave (R107, R108) -/

/-- R83, R107: free slots in a yelm's input buffer. Log entry 23 (DESIGN CHOICE). -/
def State.usedRows (s : State) (y : Nat) : List Nat :=
  s.waves.flatMap (fun w => (w.2.ops.filter (fun o => o.1 % 4096 == y)).map (fun o => o.2.row))

/-- The k-th free input buffer slot of a yelm. Log entry 23 (DESIGN CHOICE). -/
def State.freeRow (s : State) (y k : Nat) : Nat :=
  ((List.range 128).filter (fun r => !(s.usedRows y).contains r)).getD k 0

/-- R228: the allotment of a yelm for a token. -/
def allotOf (im : Image) (p : Proj) (r : Recipe) (y : Nat) (share cd : Rat) : Nat :=
  let part := sumNat ((p.places.filter (fun pl => pl.yelm == y)).map (arrayCost im p r))
  if cd = 0 then 0 else (share * part / cd).floor.toNat

/-- The layer operation of a token on a yelm, before its first band read; the number of all-zero bands skipped (R20). -/
def startOp (im : Image) (p : Proj) (r : Recipe) (y row allot : Nat) (x : List Bf16) (lines : List (Nat × List Bf16))
    (outl : List Nat) : YelmOp × Nat :=
  let band := bandOf r p
  let all := yelmBands im p y band
  let live := all.filter (fun b =>
    (bandScale (bandInputs p (p.places.getD b.1 ⟨0, 0, 0, 0, 0, 0⟩) b.2 band x outl) r.actTrits) != 0)
  ({ row := row, bands := live, running := [], parts := [], recv := [], final := [], sent := [], allot := allot,
     outl := (yelmChannels im p y).map (fun ch => (ch, outlierSum im p y ch lines outl x)) }, all.length - live.length)

/-- R166: the adapter contribution at a projection: its hook's u(j), where the bound version fills it.
Log entry 22 (DEDUCED). -/
def wantHook (im : Image) (w : Want) (c : Tok) : Nat :=
  let d := descAt im w.desc
  match w.role with
  | none => if dKind d = 3 then leAt d 22 2 else 0xFFFF
  | some (k, down) =>
    let e := expertOf im d ((c.routes.getD k ⟨0, 0, 0, none, none, none, none, none⟩).expert)
    if down then e.hookDown else e.hookGu

/-- R76, R107, R108, R223, R228: close a wave over the first tokens of a queue. A yelm's input buffer takes the elements from
its lowest ROW_FIRST on. Log entry 112 (DESIGN CHOICE). -/
def State.closeWave (s : State) (v : Nat) (x : Vi) (im : Image) (proj : Nat)
    (q : List (Nat × Step × Nat × Tok × Want)) : State :=
  let p := projAt im proj
  let ys := projYelms p
  let phys := fun y => (physYelm v x.part y).getD 0
  let free := ys.foldl (fun m y => min m (128 - (s.usedRows (phys y)).length)) 128
  let n := min 128 (min q.length free)
  if n = 0 then s
  else
    let took := q.take n
    let r := recipeAt x.img.recipes (match took with
      | [] => 0
      | e :: _ => dRecipe (descAt im e.2.2.2.2.desc))
    let slots := (List.range n).zip took
    let outl := fun (w : Want) => outlierRows im p r w.x
    let rows := distinct (took.flatMap (fun e => (outl e.2.2.2.2).1))
    let statics := p.candidates.take p.static
    let ordered := rows.filter statics.contains ++ rows.filter (fun i => !statics.contains i)
    let served := ys.map (fun y => (y, serveRows (s.yelm (phys y)).cache (fun i => (x.img.gen * 2 ^ 16 + proj) * 2 ^ 32 + i)
      (fun i => (heldChannels im p y).map (outlierWeight im p i)) (ordered.filter (yelmHolds im p y))))
    let ops := slots.flatMap (fun se => ys.map (fun y =>
      let c := se.2.2.2.2.1
      let w := se.2.2.2.2.2
      let cd := descCost im x.img.recipes w.desc
      let o := startOp im p r y (s.freeRow (phys y) se.1) (allotOf im p r y c.share cd) w.x ((tgetD served y ([], [], 0)).2.1) (outl w).1
      ((se.1 * 4096 + phys y, o.1), o.2, se.2.1, se.2.2.2.1, o.1.allot)))
    let wave : Wave :=
      { vi := v, proj := proj, gen := x.img.gen, recipe := r, closed := s.now,
        decode := took.any (fun e => e.2.1.kind.decodeClass), yelms := ys.map phys,
        toks := slots.map (fun se => (se.1, ⟨se.2.1, se.2.2.2.1, se.2.2.2.2.2.x, se.2.2.2.2.2.desc, se.2.2.2.2.2.role, 0, []⟩)),
        ops := sortBy (fun (a b : Nat × YelmOp) => decide (a.1 < b.1)) (ops.map (fun e => e.1)),
        adp := slots.filterMap (fun se =>
          (boundHook x se.2.2.1.adp (wantHook im se.2.2.2.2.2 se.2.2.2.2.1)).map (fun h =>
            (se.1, hookU h se.2.2.2.2.2.x p.dimOut))),
        hops := [] }
    let s := { s with waves := tset s.waves s.nextWave wave, nextWave := s.nextWave + 1 }
    let s := ops.foldl (fun s e => s.modTok e.2.2.1 e.2.2.2.1 (fun c => { c with share := c.share - e.2.2.2.2 })) s
    let s := s.count v p.unit cZero (sumNat (ops.map (fun e => e.2.1)))
    let s := s.count v p.unit cOutl (sumNat (took.map (fun e => (outl e.2.2.2.2).2)))
    let s := served.foldl (fun s c => s.modYelm (phys c.1) (fun ye =>
      { ye with cache := c.2.1, counts := addAt ye.counts 5 c.2.2.2 })) s
    slots.foldl (fun s se => ys.foldl (fun s y =>
      let lo := (p.places.filter (fun pl => pl.yelm == y)).foldl (fun m pl => min m pl.rowFirst) p.dimIn
      match tget wave.ops (se.1 * 4096 + phys y) with
      | none => s
      | some o => s.modYelm (phys y) (fun ye =>
          { ye with input := tset ye.input o.row (overlay (tgetD ye.input o.row []) ((se.2.2.2.2.2.x.drop lo).take 8192)) })) s) s

/-! ### The ligger chain (R81, R82) -/

/-- R27, R77: y(j) of a channel on a yelm once its band reads have ended: contributions in ascending input row, then the
outlier sum. -/
def opFinal (o : YelmOp) (ch : Nat) : Comp :=
  let parts := sortBy (fun (a b : Nat × F32) => decide (a.1 < b.1)) (tgetD o.parts ch [])
  cAddPair ⟨parts.foldl (fun acc e => fAdd acc e.2) 0, 0⟩ (tgetD o.outl ch .zero)

/-- The bias of a PROJ (R116). Log entry 22 (DEDUCED). -/
def projBias (im : Image) (d : Desc) (dimOut : Nat) : Option (List Bf16) :=
  if dKind d = 3 then bfTable im.digital (leAt d 24 8) dimOut else none

/-- R81: channel of a token at a yelm: when its own sum is final and what it waits for has come, it adds, and sends on or,
at the tail, delivers. -/
def State.chainStep (s : State) (im : Image) (wid slot y ch : Nat) : State :=
  match tget s.waves wid with
  | none => s
  | some w =>
    match tget w.toks slot, tget w.ops (slot * 4096 + y), s.vi? w.vi with
    | some t, some o, some x =>
      match tget o.final ch with
      | none => s
      | some own =>
        let p := projAt im w.proj
        let line := (segYelms p (segOf im p ch)).filterMap (fun n => physYelm w.vi x.part n)
        let i := line.idxOf y
        let got := (tget o.recv ch).bind (fun r => if r.1 = t.restarts then some (ofCh24 r.2) else none)
        if o.sent.contains ch ∨ (i ≠ 0 ∧ got.isNone) then s
        else
          let sum := match got with
            | some v => if i = 0 then own else cAdd own v
            | none => own
          let key := slot * 4096 + y
          let mark := fun (w : Wave) => { w with ops := tmod w.ops key (fun o => { o with sent := ch :: o.sent }) }
          if i + 1 < line.length then
            let d := s.draw
            let c := toCh24 (cToF sum) d.1.toNat
            let s := d.2.modWave wid (fun w => { mark w with hops := w.hops ++ [(slot, line.getD (i + 1) 0, ch, t.restarts, c.1)] })
            if c.2 then s.modYelm y (fun ye => { ye with counts := addAt ye.counts 4 1, seen := ye.seen ||| 8 }) else s
          else
            let sum := match projBias im (descAt im t.desc) p.dimOut with
              | some b => cAdd sum (ofBf (bGet b ch))
              | none => sum
            let sum := match tget w.adp slot with
              | some u => cAdd sum (vGet u ch)
              | none => sum
            s.modWave wid (fun w => { mark w with toks := tmod w.toks slot (fun t => { t with out := tset t.out ch sum }) })
    | _, _, _ => s

/-- R77, R81: the layer operation of a token on a yelm has no band read left: its sums are final, and each moves on; the output
buffer holds the yelm's own sums. Log entry 112 (DESIGN CHOICE). -/
def State.opDone (s : State) (im : Image) (wid slot y : Nat) : State :=
  match tget s.waves wid with
  | none => s
  | some w =>
    match tget w.ops (slot * 4096 + y), (s.vi? w.vi) with
    | some o, some x =>
      if o.bands ≠ [] ∨ o.running ≠ [] ∨ o.final ≠ [] then s
      else
        let n := ((viYelmOf x.part y)).getD 0
        let chs := yelmChannels im (projAt im w.proj) n
        let fin := chs.map (fun ch => (ch, opFinal o ch))
        let s := s.modWave wid (fun w => { w with ops := tmod w.ops (slot * 4096 + y) (fun o => { o with final := fin }) })
        let s := s.modYelm y (fun ye => { ye with output := tset ye.output o.row (overlay (tgetD ye.output o.row [])
          ((heldChannels im (projAt im w.proj) n).map (fun ch => opFinal o ch))) })
        chs.foldl (fun s ch => s.chainStep im wid slot y ch) s
    | _, _ => s

/-- WAVE_CLOSE (R107). -/
def execWaveClose (ts vi proj : Nat) (s0 : State) : Host.Outcome State Fault Refusal :=
  let s := s0.upto ts
  .next (match s.vi? vi with
    | none => s
    | some x =>
      match x.img.image with
      | none => s
      | some im =>
        let n := s.nextWave
        let s := s.closeWave vi x im proj (s.waveQueue vi x im proj)
        match tget s.waves n with
        | none => s
        | some w => w.ops.foldl (fun s o => s.opDone im n (o.1 / 4096) (o.1 % 4096)) s)

/-- CHAIN_HOP_RECEIVE (R81): the value with the highest restart count stands. -/
def execChainHopReceive (ts wave slot yelm channel : Nat) (s0 : State) : Host.Outcome State Fault Refusal :=
  let s := s0.upto ts
  .next (match tget s.waves wave with
    | none => s
    | some w =>
      match w.hops.find? (fun h => h.1 == slot && h.2.1 == yelm && h.2.2.1 == channel), s.imageOf w.vi with
      | some h, some im =>
        let c := h.2.2.2.1
        let s := s.modWave wave (fun w =>
          { w with hops := w.hops.erase h,
                   ops := tmod w.ops (slot * 4096 + yelm) (fun o =>
                     if ((tget o.recv channel).map (fun r => decide (c ≤ r.1))) = some true then o
                     else { o with recv := tset o.recv channel (c, h.2.2.2.2) }) })
        let row := ((tget w.ops (slot * 4096 + yelm)).map YelmOp.row).getD 0
        let n := ((s.vi? w.vi).bind (fun x => viYelmOf x.part yelm)).getD 0
        let held := heldChannels im (projAt im w.proj) n
        let s := if !held.contains channel then s
          else s.modYelm yelm (fun ye => { ye with recv := tset ye.recv row (setCol (tgetD ye.recv row []) (held.idxOf channel) 0 h.2.2.2.2) })
        s.chainStep im wave slot yelm channel
      | _, _ => s)

end Sys2Proof.Machine
end

