-- ==== Sys2Proof/Machine/Pipeline.lean ====
section
/-! DEFINITION. Tokens through the descriptors (R105): a token leaving a projection (R109, R113), and EMBED, NORM, ATTN, ACT,
RESID, ROUTE, EXPERTS and HEAD, forward (R110–R119, R125–R129, R168–R171) and backward (R174–R177). -/
namespace Sys2Proof.Machine

/-! ### Leaving a projection (R109) -/

/-- What a token's output at a projection becomes. Log entry 22 (DEDUCED). -/
def State.deliver (s : State) (im : Image) (t : WaveTok) (p : Proj) : State :=
  let y := (List.range p.dimOut).map (fun ch => tgetD t.out ch .zero)
  let d := descAt im t.desc
  match s.step? t.step with
  | none => s
  | some st =>
    match t.role with
    | some (k, down) =>
      s.modTok t.step t.tok (fun c => { c with routes := c.routes.set k (match c.routes[k]? with
        | none => ⟨0, 0, 0, none, none, none, none, none⟩
        | some ch =>
          if down then { ch with out := some y }
          else
            let v := y.map cToBf
            let h := v.length / 2
            { ch with gu := some v, mid := some (actOut (leAt d 22 1) (v.take h) (v.drop h)) }) })
    | none =>
      if st.kind = .backward then s.modTok t.step t.tok (fun c => { c with slots := tset c.slots t.desc (y.map cToBf) })
      else if dKind d = 9 then s.modTok t.step t.tok (fun c => { c with logits := y.map cToF })
      else s.finishDesc im t.step t.tok (fun c =>
        if dFuse d then { c with slot0 := (c.slot0.zip y).map (fun e => cAddPair e.1 e.2) }
        else { c with slots := tset c.slots (dDst d) (y.map cToBf) })

/-- LAYER_OPERATION_END (R109, R228): every output channel of the token has left its chain tail. -/
def execLayerOperationEnd (ts wave slot : Nat) (s0 : State) : Host.Outcome State Fault Refusal :=
  let s := s0.upto ts
  .next (match tget s.waves wave with
    | none => s
    | some w =>
      match tget w.toks slot, s.imageOf w.vi with
      | some t, some im =>
        let p := projAt im w.proj
        let chs := distinct (p.places.flatMap (placeChannels im p))
        if t.out.length < chs.length then s
        else
          let mine := w.ops.filter (fun o => o.1 / 4096 == slot)
          let left := sumNat (mine.map (fun o => o.2.allot))
          let w' := { w with toks := tdel w.toks slot, ops := w.ops.filter (fun o => o.1 / 4096 != slot),
                             hops := w.hops.filter (fun h => h.1 != slot), adp := tdel w.adp slot }
          let s := { s with waves := if w'.toks = [] then tdel s.waves wave else tset s.waves wave w' }
          let s := s.modTok t.step t.tok (fun c => { c with share := c.share + left })
          (s.count w.vi p.unit cTokens 1).deliver im t p
      | _, _ => s)

/-! ### Gradients of slots (R174) -/

/-- The gradient of a slot as FP32. -/
def slotGrad (c : Tok) (slot n : Nat) : List F32 := ((tget c.grad slot).map (fun g => g.map ofBf)).getD (List.replicate n 0)

/-- Add into the gradient of a slot, bfloat16 between descriptors. -/
def addGrad (c : Tok) (slot : Nat) (g : List F32) : Tok :=
  { c with grad := tset c.grad slot ((zipF fAdd (slotGrad c slot g.length) g).map toBf) }

/-- The gradient of a slot has been used by the descriptor that wrote it. -/
def dropGrad (c : Tok) (slot : Nat) : Tok := { c with grad := tdel c.grad slot }

/-- R174: the residual gradient starts at zero. -/
def resGrad (c : Tok) (n : Nat) : List Comp := if c.grad0 = [] then List.replicate n .zero else c.grad0

/-- R180: add into the staged gradient of tensor i. -/
def stageGrad (gs : List (List F32)) (i : Nat) (g : List F32) : List (List F32) :=
  let gs := gs ++ List.replicate (i + 1 - gs.length) []
  gs.set i (if gs.getD i [] = [] then g else zipF fAdd (gs.getD i []) g)

def State.stage (s : State) (k i : Nat) (g : List F32) : State := s.modStep k (fun t => { t with grads := stageGrad t.grads i g })

/-- R171: keep an item in the saved area of the step. -/
def State.keep (s : State) (k : Nat) (t : Step) (pos d : Nat) (v : Saved) : State :=
  if t.kind = .fwdSave then s.modStep k (fun t => { t with saved := t.saved ++ [(pos, d, v)] }) else s

/-! ### EMBED (R114) -/

/-- EMBED: the token's row into slot 0. Backward: the gradient is discarded. -/
def execEmbed (ts step tok : Nat) (s0 : State) : Host.Outcome State Fault Refusal :=
  let s := s0.upto ts
  .next (match s.ready step tok 1 with
    | none => s
    | some (im, t, _, d) =>
      if t.kind = .backward then s.finishDesc im step tok id
      else
        let row := bfVec im.digital (leAt d 16 8 + 2 * ((t.tokens.getD tok 0) * dOut d)) (dOut d)
        let m := bfAt d 28
        s.finishDesc im step tok (fun c => { c with slot0 := row.map (fun e => ⟨bMul e m, 0⟩) }))

/-! ### NORM (R115, R175) -/

/-- NORM. -/
def execNorm (ts step tok : Nat) (s0 : State) : Host.Outcome State Fault Refusal :=
  let s := s0.upto ts
  .next (match s.ready step tok 2 with
    | none => s
    | some (im, t, c, d) =>
      match s.vi? t.vi with
      | none => s
      | some x =>
        let mode := leAt d 36 1
        if t.kind = .backward then
          match savedAt (savedItems x t) c.pos c.desc with
          | some (.norm xs r mu) =>
            let b := normBack mode xs r mu (normGain x im t.adp d) (slotGrad c (dDst d) (dIn d))
            let own := boundTensor x t.adp (fun k => match k with
              | .gain n => n == leAt d 38 2
              | _ => false)
            let s := match own with
              | some (i, _) => s.stage step i b.2
              | none => s
            s.finishDesc im step tok (fun c => dropGrad
              { c with grad0 := ((resGrad c (dIn d)).zip b.1).map (fun e => cAdd e.1 e.2) } (dDst d))
          | _ => s.finishDesc im step tok id
        else
          let xs := c.slot0.map cToF
          let st := normStats mode (dF32 d 32) xs
          let s := s.keep step t c.pos c.desc (.norm (c.slot0.map Comp.hi) st.1 st.2)
          s.finishDesc im step tok (fun c => { c with slots := tset c.slots (dDst d) (normOf x im t.adp d xs st.1 st.2) }))

/-! ### ATTN (R125–R129, R176, R177) -/

/-- The stored row of a committed position at a KV layer. -/
def State.committedRow (s : State) (v : Nat) (x : Vi) (sq : Seq) (layer pos : Nat) : Option KvRow :=
  let l := x.layers.getD layer ⟨0, 0, 0⟩
  ((tget (sq.pages.getD layer []) (pos / sq.pagePos)).bind (fun k => tget x.kv.pages k)).bind (fun p =>
    p.t1.map (fun b => readRows s.hbm (t1Base v) l sq.fmt sq.pagePos (pos % sq.pagePos) b))

/-- R136: the row of a committed position in a layer copy of a step. -/
def Step.copiedRow (t : Step) (sq : Seq) (layer pos : Nat) : Option KvRow :=
  ((tget (sq.pages.getD layer []) (pos / sq.pagePos)).bind (fun k => t.layerCopies.find? (fun c => c.page == k))).bind (fun c =>
    c.rows[pos % sq.pagePos]?)

/-- R139: the block reserved for the page of a position at a KV layer. -/
def Step.blockFor (t : Step) (sq : Seq) (layer pos : Nat) : Option BlockPair :=
  (t.reserved.find? (fun r => r.1 == layer && r.2.1 == pos / sq.pagePos)).map (fun r => r.2.2.2.2)

/-- R127, R140: the key and value rows of a position as a step reads them: staged, in a block reserved for it, in a layer copy,
or in the sequence's committed page. -/
def State.rowAt (s : State) (x : Vi) (sq : Seq) (t : Step) (layer pos : Nat) : Option KvRow :=
  match t.staged.find? (fun e => e.1 == layer && e.2.1 == pos) with
  | some e => some e.2.2
  | none =>
    match t.blockFor sq layer pos with
    | some b => some (readRows s.hbm (t1Base t.vi) (x.layers.getD layer ⟨0, 0, 0⟩) sq.fmt sq.pagePos (pos % sq.pagePos) b)
    | none => match t.copiedRow sq layer pos with
      | some r => some r
      | none => s.committedRow t.vi x sq layer pos

/-- R127: the rows a query attends, in rising position. -/
def State.attendRows (s : State) (x : Vi) (sq : Seq) (t : Step) (layer first upto : Nat) : List (Nat × KvRow) :=
  (List.range (upto + 1)).filterMap (fun j => if j < first then none else (s.rowAt x sq t layer j).map (fun r => (j, r)))

/-- R126, R140: the rows of a position are staged: in the block reserved for its page, or in the tail staging; a recompute keeps
them in staging for its later parts as well (log entry 16). Log entry 102 (DESIGN CHOICE). -/
def State.stageRow (s : State) (x : Vi) (sq : Seq) (k : Nat) (t : Step) (layer pos : Nat) (r : KvRow) : State :=
  let keep := fun (s : State) => s.modStep k (fun t => { t with staged := t.staged ++ [(layer, pos, r)] })
  match t.blockFor sq layer pos with
  | none => keep s
  | some b =>
    let s := { s with hbm := writeRows s.hbm (t1Base t.vi) (x.layers.getD layer ⟨0, 0, 0⟩) sq.fmt sq.pagePos (pos % sq.pagePos) b r }
    if t.kind = .recompute then keep s else s

/-- R136: a layer copy of a page, in the blocks of T0 that there are for it. Log entry 102 (DESIGN CHOICE). -/
def State.putCopy (s : State) (x : Vi) (sq : Seq) (k : Nat) (t : Step) (layer p : Nat) (g : Page) (room : Option (BlockPair × Arena)) :
    State :=
  match room, g.t1 with
  | some (b, _), some b1 => s.modStep k (fun u => { u with layerCopies := u.layerCopies ++ [⟨p, layer,
      [(g.mElem, b.elem), (g.mScale, b.scale)], (List.range g.fill).map (fun i =>
        readRows s.hbm (t1Base t.vi) (x.layers.getD layer ⟨0, 0, 0⟩) sq.fmt sq.pagePos i b1)⟩] })
  | _, _ => s

/-- R136: an engine makes layer copies of the pages that a prefill-class step reads at a layer, where its T0 has room. -/
def State.copyPages (s : State) (x : Vi) (sq : Seq) (k : Nat) (t : Step) (layer : Nat) : State :=
  if t.kind.decodeClass then s
  else
    (t.pins.filter (fun p => ((tget x.kv.pages p).map Page.layer) == some layer && !t.layerCopies.any (fun c => c.page == p))).foldl
      (fun s p => match tget x.kv.pages p with
        | none => s
        | some g => s.putCopy x sq k t layer p g ((s.t0Arena t.vi x t.group).takePair? g.mElem g.mScale)) s

/-- R127: the key-value head of a query head. -/
def kvHead (a : AttnDesc) (h : Nat) : Nat := h * a.heads / max 1 a.qHeads

/-- ATTN, forward: rotate, copy pages, stage, attend. -/
def State.attnForward (s : State) (im : Image) (x : Vi) (sq : Seq) (step tok : Nat) (t : Step) (c : Tok) (d : Desc) : State :=
  let a := attnDesc d
  let v := tgetD c.slots (dSrc d) []
  let q := (List.range a.qHeads).map (fun h => rotateBf a c.pos (headOf v h a.dim))
  let ks := (List.range a.heads).map (fun h => rotateBf a c.pos (headOf v (a.qHeads + h) a.dim))
  let vs := (List.range a.heads).map (fun h => headOf v (a.qHeads + a.heads + h) a.dim)
  let row := kvRowOf a sq.fmt ks vs
  let s := (s.copyPages x sq step t a.layer).stageRow x sq step t a.layer c.pos row
  let t := (s.step? step).getD t
  let rows := (s.attendRows x sq t a.layer (attendFrom a c.pos) c.pos).map Prod.snd
  let hs := (List.range a.qHeads).map (fun h => attend a sq.fmt (q.getD h []) rows (kvHead a h))
  let out := hs.flatMap (fun r => r.2.2.map (fun e => toBf (fDiv e r.2.1)))
  let s := s.keep step t c.pos c.desc (.attn q.flatten out (hs.map (fun r => r.1)) (hs.map (fun r => fAdd r.1 (fLn r.2.1))))
  s.finishDesc im step tok (fun c => { c with slots := tset c.slots (dDst d) out })

/-- R177: add into an accumulator of dk and dv. -/
def addDkv (acc : List (Nat × Nat × List F32 × List F32)) (layer pos : Nat) (dk dv : List F32) :
    List (Nat × Nat × List F32 × List F32) :=
  if acc.any (fun e => e.1 == layer && e.2.1 == pos) then
    acc.map (fun e => if e.1 = layer ∧ e.2.1 = pos then (layer, pos, zipF fAdd e.2.2.1 dk, zipF fAdd e.2.2.2 dv) else e)
  else acc ++ [(layer, pos, dk, dv)]

/-- The accumulated dk and dv of a position. -/
def dkvAt (acc : List (Nat × Nat × List F32 × List F32)) (layer pos n : Nat) : List F32 × List F32 :=
  match acc.find? (fun e => e.1 == layer && e.2.1 == pos) with
  | some e => (e.2.2.1, e.2.2.2)
  | none => (List.replicate n 0, List.replicate n 0)

/-- A vector of heads with one head's values, zeros elsewhere. -/
def inHead (a : AttnDesc) (g : Nat) (v : List F32) : List F32 :=
  (List.range a.heads).flatMap (fun h => if h = g then v else List.replicate a.dim 0)

/-- ATTN, backward (R176, R177). -/
def State.attnBackward (s : State) (im : Image) (x : Vi) (sq : Seq) (step tok : Nat) (t : Step) (c : Tok) (d : Desc) : State :=
  let a := attnDesc d
  match savedAt (savedItems x t) c.pos c.desc with
  | some (.attn q o m lse) =>
    let first := (sq.saved.map SavedArea.first).getD 0
    let s := s.copyPages x sq step t a.layer
    let t := (s.step? step).getD t
    let dO := slotGrad c (dDst d) (a.qHeads * a.dim)
    let rows := s.attendRows x sq t a.layer (attendFrom a c.pos) c.pos
    let hs := (List.range a.qHeads).map (fun h =>
      (h, attendBack a sq.fmt (headOf q h a.dim) (headOf (o.map ofBf) h a.dim) (headOf dO h a.dim) (vGet m h) (vGet lse h)
        (rows.map Prod.snd) (kvHead a h)))
    let dkv := hs.foldl (fun acc h => ((rows.map Prod.fst).zip h.2.2.1).foldl (fun acc e =>
      if e.1 < first then acc
      else addDkv acc a.layer e.1 (inHead a (kvHead a h.1) e.2.1) (inHead a (kvHead a h.1) e.2.2)) acc) t.dkv
    let n := a.heads * a.dim
    let own := dkvAt dkv a.layer c.pos n
    let dq := hs.flatMap (fun h => if a.dims = 0 then h.2.1 else rotate a c.pos true h.2.1)
    let dk := if a.dims = 0 then own.1 else (List.range a.heads).flatMap (fun h => rotate a c.pos true (headOf own.1 h a.dim))
    let s := (hs.filter (fun h => h.2.2.2)).foldl (fun s h => s.report
      { recOf 0x0205 3 t.vi s.now with detail := le 2 h.1 ++ le 2 a.layer, seq := t.seq }) s
    let s := s.modStep step (fun t => { t with dkv := dkv })
    s.finishDesc im step tok (fun c => dropGrad (addGrad c (dSrc d) (dq ++ dk ++ own.2)) (dDst d))
  | _ => s.finishDesc im step tok id

/-- ATTN: waits for the earlier positions of its step (R105), backward for the later ones (R177). -/
def execAttn (ts step tok : Nat) (s0 : State) : Host.Outcome State Fault Refusal :=
  let s := s0.upto ts
  .next (match s.ready step tok 4 with
    | none => s
    | some (im, t, c, d) =>
      match s.vi? t.vi with
      | none => s
      | some x =>
        match x.seqOf t with
        | none => s
        | some sq =>
          if t.kind = .backward then
            (if (t.toks.drop (tok + 1)).all (fun e => e.done || decide (e.desc < c.desc)) then
              s.attnBackward im x sq step tok t c d else s)
          else if (t.toks.take tok).all (fun e => e.done || decide (c.desc < e.desc)) then
            s.attnForward im x sq step tok t c d
          else s)

/-! ### ACT and RESID (R116, R174) -/

/-- ACT. -/
def execAct (ts step tok : Nat) (s0 : State) : Host.Outcome State Fault Refusal :=
  let s := s0.upto ts
  .next (match s.ready step tok 5 with
    | none => s
    | some (im, t, c, d) =>
      let f := leAt d 16 1
      if t.kind = .backward then
        match s.vi? t.vi with
        | none => s
        | some x =>
          match (fwdSlot x im t c c.desc (dSrc d)).1,
            (if gated f then (fwdSlot x im t c c.desc (dSrc2 d)).1 else some []) with
          | some a, some b =>
            let g := actBack f a b (slotGrad c (dDst d) (dOut d))
            s.finishDesc im step tok (fun c =>
              let c := addGrad (dropGrad c (dDst d)) (dSrc d) g.1
              if gated f then addGrad c (dSrc2 d) g.2 else c)
          | _, _ => s
      else s.finishDesc im step tok (fun c =>
        { c with slots := tset c.slots (dDst d) (actOut f (tgetD c.slots (dSrc d) []) (tgetD c.slots (dSrc2 d) [])) }))

/-- RESID: SRC × RES_SCALE into slot 0. -/
def execResid (ts step tok : Nat) (s0 : State) : Host.Outcome State Fault Refusal :=
  let s := s0.upto ts
  .next (match s.ready step tok 6 with
    | none => s
    | some (im, t, _, d) =>
      let m := ofBf (bfAt d 16)
      if t.kind = .backward then s.finishDesc im step tok (fun c =>
        addGrad c (dSrc d) ((resGrad c (dIn d)).map (fun g => fMul m (cToF g))))
      else s.finishDesc im step tok (fun c =>
        { c with slot0 := (c.slot0.zip (tgetD c.slots (dSrc d) [])).map (fun e => cAdd e.1 (fMul (ofBf e.2) m)) }))

/-! ### ROUTE and EXPERTS (R110–R113, R174) -/

/-- R112: the replica with the fewest tokens at its gate-and-up projection. -/
def State.pickReplica (s : State) (v : Nat) (x : Vi) (im : Image) (e : Expert) : Nat :=
  let loads := (List.range e.replicas.length).map (fun r => (r, s.projLoad v x im ((e.replicas.getD r (0, 0)).1)))
  ((bestBy (fun (a b : Nat × Nat) => decide (a.2 < b.2)) loads).map Prod.fst).getD 0

/-- R104, R112: the EXPERTS that serves a ROUTE at an index: the next after it with its LAYER. Log entry 120 (DEDUCED). -/
def expertsOf (im : Image) (i : Nat) (d : Desc) : Desc :=
  ((im.program.drop (i + 1)).find? (fun e => dKind e == 8 && dLayer e == dLayer d)).getD []

/-- ROUTE: SRC → route list of the layer. -/
def execRoute (ts step tok : Nat) (s0 : State) : Host.Outcome State Fault Refusal :=
  let s := s0.upto ts
  .next (match s.ready step tok 7 with
    | none => s
    | some (im, t, c, d) =>
      match s.vi? t.vi with
      | none => s
      | some x =>
        if t.kind = .backward then s.finishDesc im step tok id
        else
          let n := leAt d 32 2
          let u := bfVec im.digital (leAt d 16 8) (dIn d * n)
          let l := routerLogits (tgetD c.slots (dSrc d) []) u n
          let ch := routeOf l (bfTable im.digital (leAt d 24 8) n) (leAt d 34 1) (leAt d 35 1) (dF32 d 36)
          let e := expertsOf im c.desc d
          let s := s.keep step t c.pos c.desc (.route ch)
          let rs := ch.map (fun g => ⟨g.1, g.2, s.pickReplica t.vi x im (expertOf im e g.1), none, none, none, none, none⟩)
          s.finishDesc im step tok (fun c => { c with lists := tset c.lists (dLayer d) rs }))

/-- EXPERTS (R113): all outputs are in; gate weight × output into slot 0 by ascending expert number. Backward (R174): the
gradients of the experts' inputs are summed into the gradient of SRC. -/
def execExperts (ts step tok : Nat) (s0 : State) : Host.Outcome State Fault Refusal :=
  let s := s0.upto ts
  .next (match s.ready step tok 8 with
    | none => s
    | some (im, t, c, d) =>
      if t.kind = .backward then
        if c.routes.all (fun r => r.dx.isSome) then
          s.finishDesc im step tok (fun c =>
            let g := c.routes.foldl (fun acc r => (acc.zip (r.dx.getD [])).map (fun e => cAdd e.1 (ofBf e.2)))
              (List.replicate (dIn d) Comp.zero)
            { addGrad c (dSrc d) (g.map cToF) with routes := [] })
        else s
      else if c.routes.all (fun r => r.out.isSome) then
        s.finishDesc im step tok (fun c =>
          { c with slot0 := c.routes.foldl (fun acc r => (acc.zip (r.out.getD [])).map (fun e =>
              cAddPair e.1 ⟨fMul r.gate e.2.hi, fMul r.gate e.2.lo⟩)) c.slot0, routes := [] })
      else s)

/-! ### HEAD (R117, R119, R168–R170) -/

/-- R118: the sampling parameters of a step. -/
def sampOf (x : Vi) (t : Step) : Sampling := t.samp.getD (((x.seqOf t).map Seq.samp).getD .default)

/-- R117: capped logits. -/
def headLogits (x : Vi) (im : Image) (t : Step) (d : Desc) (z : List F32) : List F32 :=
  let bias := bfTable im.digital (leAt d 32 8) z.length
  let own := match boundTensor x t.adp (fun k => k == .bias), t.adp with
    | some (_, b), some (_, v) => if leAt d 26 2 = 0xFFFF then none else some (b.work v)
    | _, _ => none
  (List.range z.length).map (fun v =>
    let a := match bias with
      | some b => fAdd (vGet z v) (ofBf (bGet b v))
      | none => vGet z v
    let a := match own with
      | some b => fAdd a (ofBf (bGet b v))
      | none => a
    capLogit (dF32 d 28) a)

/-- HEAD: the projection's output is in. A decode, prefill or verify position is sampled; a position of ADP_FWD_SAVE takes
its loss, and its dz waits for the transpose read of the head (R170). Backward: the saved gradient of SRC. -/
def execHead (ts step tok : Nat) (s0 : State) : Host.Outcome State Fault Refusal :=
  let s := s0.upto ts
  .next (match s.ready step tok 9 with
    | none => s
    | some (im, t, c, d) =>
      match s.vi? t.vi with
      | none => s
      | some x =>
        if t.kind = .backward then
          match savedAt (savedItems x t) c.pos c.desc with
          | some (.head g) => s.finishDesc im step tok (fun c => addGrad c (dSrc d) (g.map ofBf))
          | _ => s.finishDesc im step tok (fun c => addGrad c (dSrc d) (List.replicate (dIn d) 0))
        else if c.logits = [] ∨ c.sampled.isSome then s
        else
          let z := headLogits x im t d c.logits
          match t.kind, t.targets.getD tok none with
          | .fwdSave, some y =>
            let l := lossOf z y t.lossScale (dF32 d 28)
            let s := match boundTensor x t.adp (fun k => k == .bias) with
              | some (i, _) => if leAt d 26 2 = 0xFFFF then s else s.stage step i l.2
              | none => s
            (s.modStep step (fun t => { t with loss := cAdd t.loss l.1 })).modTok step tok (fun c =>
              { c with logits := l.2, sampled := some (y, l.1) })
          | _, _ =>
            let d := s.draw
            let got := sampleToken z (sampOf x t) (uniform d.1)
            d.2.finishDesc im step tok (fun c => { c with logits := z, sampled := some got }))

end Sys2Proof.Machine
end

