-- ==== Sys2Proof/Machine/ImageCheck.lean ====
section
/-! DEFINITION. Weight images as bytes: the header, directory and tables (R187–R194, R222), signatures over an object
(R424, R425), and the findings of the check pass in the three classes of R196 and R468 (with R17, R48, R80, R84, R104,
R124, R188). -/
namespace Sys2Proof.Machine

/-! ### Signatures (R424, R425) -/

/-- The bytes of ASCII text of four letters, by their codes. -/
def tag4 (a b c d : Nat) : List Byte := [a, b, c, d].map (BitVec.ofNat 8)

/-- R425: a signature block verifies over an object's tag and digest under the digest of the key its slot holds. -/
def sigOk (signer : Nat) (key : Nat → Option (List Byte)) (tag blk digest : List Byte) : Bool :=
  let ecPub := bytesAt blk 8 97
  let lmPub := bytesAt blk 108 56
  let msg := tag ++ digest
  bytesAt blk 0 4 == tag4 0x51 0x46 0x53 0x47 && leAt blk 4 1 == signer && decide (leAt blk 5 1 < 4) &&
    key (leAt blk 5 1) == some (sha384 (ecPub ++ lmPub)) && Config.ecdsaOk ecPub msg (bytesAt blk 164 96) &&
    Config.lmsOk lmPub msg (bytesAt blk 260 1772)

/-- R431: the key digest of a valid operator slot. -/
def SecBlk.opKey (b : SecBlk) (slot : Nat) : Option (List Byte) :=
  if bitOf b.opValid slot then b.opDigest[slot]? else none

/-! ### The container (R187, R188) -/

/-- A directory entry: TYPE, ENTRIES, OFFSET, LENGTH. -/
structure Sec where
  type : Nat
  entries : Nat
  ofs : Nat
  len : Nat
deriving DecidableEq, Repr

/-- Bytes of a range by position. -/
def cut (bs : List Byte) (ofs len : Nat) : List Byte := (bs.drop ofs).take len

/-- R188: the directory. -/
def imgDir (bs : List Byte) : List Sec :=
  (List.range (leAt bs 10 2)).map (fun i =>
    let o := 128 + 32 * i
    ⟨leAt bs o 2, leAt bs (o + 4) 4, leAt bs (o + 8) 8, leAt bs (o + 16) 8⟩)

def secAt (dir : List Sec) (ty : Nat) : Sec := (dir.find? (fun e => e.type == ty)).getD ⟨ty, 0, 0, 0⟩
def secBytes (bs : List Byte) (dir : List Sec) (ty : Nat) : List Byte := cut bs (secAt dir ty).ofs (secAt dir ty).len

/-- R188: bytes of one entry of a table section. -/
def secEntry (ty : Nat) : Option Nat :=
  match ty with
  | 1 => some 32 | 2 => some 64 | 5 => some 16 | 4 => some 80 | 6 => some 16 | 7 => some 64 | 11 => some 130
  | _ => none

/-- R188: two sections overlap. -/
def secOverlap (a b : Sec) : Bool := decide (a.ofs < b.ofs + b.len) && decide (b.ofs < a.ofs + a.len)

/-- Whether some two members at different places are related. -/
def anyPair {α : Type} (f : α → α → Bool) : List α → Bool
  | [] => false
  | x :: xs => xs.any (f x) || anyPair f xs

/-- R188, R222: a malformed directory; its sections lie after it, and a RECIPE_TABLE has at most 4,096 entries. -/
def dirBad (bs : List Byte) (dir : List Sec) : Bool :=
  decide (bs.length < 128 + 32 * leAt bs 10 2) ||
    dir.any (fun e => e.type == 0 || decide (12 < e.type) || decide (e.ofs % 4096 ≠ 0) || decide (bs.length < e.ofs + e.len) ||
      decide (e.ofs < 128 + 32 * leAt bs 10 2) ||
      (match secEntry e.type with
       | some n => e.entries * n != e.len
       | none => false)) ||
    (List.range 11).any (fun i => (dir.filter (fun e => e.type == i + 1)).length != 1) ||
    decide (1 < (dir.filter (fun e => e.type == 12)).length) || anyPair secOverlap dir || decide (4096 < (secAt dir 6).entries) ||
    decide ((secAt dir 3).len < 48 * (secAt dir 3).entries) || (((secAt dir 3).len - 48 * (secAt dir 3).entries) % 16 != 0)

/-- R187: DIGEST as computed. -/
def imgDigest (bs : List Byte) (dir : List Sec) : List Byte :=
  sha384 (bs.take 40 ++ (dir.filter (fun e => e.type != 12)).flatMap (fun e => cut bs e.ofs e.len))

/-! ### Tables (R189–R192, R222) -/

def placeAt (t : List Byte) (o : Nat) : Place :=
  ⟨leAt t o 2, leAt t (o + 2) 2, leAt t (o + 4) 4, leAt t (o + 8) 4, leAt t (o + 12) 2, leAt t (o + 14) 2⟩

/-- R189: entry i of PROJ_TABLE, with its PLACE records and its candidate rows. -/
def projEntry (t outl : List Byte) (n i : Nat) : Proj :=
  let o := 48 * i
  let cand := leAt t (o + 12) 2
  let oo := leAt t (o + 24) 8
  { dimIn := leAt t o 4, dimOut := leAt t (o + 4) 4, unit := leAt t (o + 8) 2, span := leAt t (o + 10) 2,
    candidates := (List.range cand).map (fun k => leAt outl (oo + 4 * k) 4), static := leAt t (o + 14) 2,
    ratio := BitVec.ofNat 32 (leAt t (o + 16) 4), outOfs := oo, scaleOfs := leAt t (o + 40) 8,
    places := (List.range (leAt t (o + 36) 4)).map (fun k => placeAt t (48 * n + 16 * (leAt t (o + 32) 4 + k))) }

/-- R190. -/
def expertEntry (t : List Byte) (i : Nat) : Expert :=
  let o := 80 * i
  ⟨leAt t (o + 2) 2, leAt t (o + 4) 2, (List.range (leAt t o 1)).map (fun r =>
    (leAt t (o + 16 + 8 * r) 4, leAt t (o + 20 + 8 * r) 4))⟩

/-- R191. -/
def hookEntry (t : List Byte) (i : Nat) : Nat × Nat × Nat := (leAt t (16 * i) 1, leAt t (16 * i + 4) 4, leAt t (16 * i + 8) 4)

/-- R222. -/
def recipeEntry (t : List Byte) (o : Nat) : Recipe :=
  { rowBand := leAt t o 2, actTrits := leAt t (o + 2) 1, ovrMode := leAt t (o + 3) 1, outlierN := leAt t (o + 4) 1,
    budgetQ := leAt t (o + 5) 1, kSoft := BitVec.ofNat 32 (leAt t (o + 8) 4), kHard := BitVec.ofNat 32 (leAt t (o + 12) 4),
    since := 0 }

/-- R192. -/
def arrayEntry (t : List Byte) (i : Nat) : ArrayIdx :=
  let o := 64 * i
  { yelm := leAt t o 2, array := leAt t (o + 2) 2, unit := leAt t (o + 4) 2, fmt := leAt t (o + 6) 1,
    profile := leAt t (o + 7) 1, channels := leAt t (o + 8) 2, rows := leAt t (o + 10) 2,
    eg := (List.range 4).map (fun g => leAt t (o + 12 + g) 1), rhoW := BitVec.ofNat 32 (leAt t (o + 16) 4),
    ofs := leAt t (o + 24) 8, len := leAt t (o + 32) 4, digest := bytesAt t (o + 40) 24 }

/-- R188: the arrays a SPARE_HINTS entry marks. -/
def spareEntry (t : List Byte) (i : Nat) : Nat × List Nat :=
  (leAt t (130 * i) 2, (List.range 1024).filter (fun a => bitOf (leAt t (130 * i + 2 + a / 8) 1) (a % 8)))

def entriesOf {α : Type} (n : Nat) (f : Nat → α) : List α := (List.range n).map f

/-- R187–R192: an image as the device keeps it. -/
def parseImage (bs : List Byte) : Image :=
  let dir := imgDir bs
  let n := fun ty => (secAt dir ty).entries
  let sb := secBytes bs dir
  let outl := sb 9
  let ut := sb 1
  let sp := sb 2
  let pt := sb 3
  { yelms := leAt bs 12 2, units := entriesOf (n 1) (fun i => (leAt ut (32 * i) 2, bytesAt ut (32 * i + 8) 24)),
    vocab := leAt bs 24 4, residentMib := leAt bs 28 4, digest := bytesAt bs 40 48,
    program := entriesOf (n 2) (fun i => bytesAt sp (64 * i) 64), projs := entriesOf (n 3) (projEntry pt outl (n 3)),
    experts := entriesOf (n 4) (expertEntry (sb 4)), hooks := entriesOf (n 5) (hookEntry (sb 5)),
    recipes := entriesOf (n 6) (fun i => recipeEntry (sb 6) (16 * i)), arrays := entriesOf (n 7) (arrayEntry (sb 7)),
    spares := (entriesOf (n 11) (spareEntry (sb 11))).foldl (fun t e => tset t e.1 (tgetD t e.1 [] ++ e.2)) [],
    outlier := outl, digital := sb 10, dataOfs := (secAt dir 8).ofs }

/-! ### Records (R194) -/

/-- R194: bytes of a packed row. -/
def rowLen (a : ArrayIdx) (p : Profile) : Nat := ceilDiv (a.channels * p.n + 12) 5

/-- The packed rows of a record as trits. -/
def recordRows (a : ArrayIdx) (p : Profile) (rec_ : List Byte) : Option (List (List Int)) :=
  (List.range a.rows).foldr (fun i acc => match unpackRow (cut rec_ (i * rowLen a p) (rowLen a p)), acc with
    | some r, some rs => some (r :: rs)
    | _, _ => none) (some [])

/-- R192: the first 24 bytes of SHA-384. -/
def digest24 (bs : List Byte) : List Byte := (sha384 bs).take 24

/-- R188: UNIT_DIGEST of the entries of a unit's arrays, in index order. -/
def unitDigest (bs : List Byte) (dir : List Sec) (arrays : List ArrayIdx) (u : Nat) : List Byte :=
  let t := secBytes bs dir 7
  digest24 (((List.range arrays.length).zip arrays).flatMap (fun e => if e.2.unit = u then cut t (64 * e.1) 64 else []))

/-- An FP32 field is finite and in a range. -/
def fIn (x lo hi : F32) : Bool := !fNonfinite x && fLe lo x && fLe x hi
def fPositive (x : F32) : Bool := !fNonfinite x && fLt 0 x

/-! ### BAD_LENGTH findings (R196, R468) -/

/-- R222: a recipe outside its ranges. -/
def recipeBad (t : List Byte) (i : Nat) : Bool :=
  let r := recipeEntry t (16 * i)
  !([64, 128, 256, 512, 1024].contains r.rowBand && decide (2 ≤ r.actTrits ∧ r.actTrits ≤ 4) && decide (r.ovrMode ≤ 1) &&
    decide (r.outlierN ≤ 128) && decide (r.budgetQ ≤ 32) && leAt t (16 * i + 6) 2 == 0 &&
    fIn r.kSoft 0x40000000#32 0x41800000#32 && fIn r.kHard r.kSoft 0x42800000#32)

/-- R189: a projection whose own fields are outside their ranges or at odds. -/
def projBad (p : Proj) : Bool :=
  !([256, 512, 1024].contains p.span && decide (p.candidates.length ≤ 512) &&
    decide (p.static ≤ 128 ∧ p.static ≤ p.candidates.length) && fIn p.ratio 0x40000000#32 0x42800000#32)

/-- R190: REPLICAS outside 1–8, or a slot beyond it that is not empty. -/
def expertBad (t : List Byte) (i : Nat) : Bool :=
  let r := leAt t (80 * i) 1
  r == 0 || decide (8 < r) || (List.range 8).any (fun k => decide (r ≤ k) && leAt t (80 * i + 16 + 8 * k) 8 != 2 ^ 64 - 1)

/-- R196, R468: what is wrong with an array record as such: ARRAY or FORMAT outside its range, the digest, the length, and a byte
that packs no trits, whatever the profile (R32). -/
def recordBad (a : ArrayIdx) (data : List Byte) : Bool :=
  decide (1024 ≤ a.array) || a.fmt == 0 || decide (3 < a.fmt) || decide (data.length < a.ofs + a.len) ||
    digest24 (cut data a.ofs a.len) != a.digest ||
    (match profileOf a.fmt a.profile with
     | none => (cut data a.ofs a.len).any (fun b => decide (243 ≤ b.toNat))
     | some p => a.len != a.rows * rowLen a p || (recordRows a p (cut data a.ofs a.len)).isNone)

/-- R191: hooks named with the wrong KIND. Log entry 28 (DEDUCED). -/
def hookWrong (im : Image) (h kind : Nat) : Bool :=
  match im.hooks[h]? with
  | none => false
  | some k => k.1 != kind

def descHookBad (im : Image) (d : Desc) : Bool :=
  match dKind d with
  | 2 => hookWrong im (leAt d 38 2) 1
  | 3 => hookWrong im (leAt d 22 2) 0
  | 9 => hookWrong im (leAt d 26 2) 2
  | _ => false

/-- R196, first row: MAGIC to table fields. Log entry 28 (DEDUCED). -/
def imgBad (bs : List Byte) (srcLen : Nat) : Bool :=
  let dir := imgDir bs
  bytesAt bs 0 8 != tag4 0x51 0x46 0x54 0x48 ++ tag4 0x41 0x54 0x43 0x48 || leAt bs 8 2 != 1 || leAt bs 16 8 != srcLen ||
    bs.length != srcLen || dirBad bs dir ||
    (let im := parseImage bs
     let data := secBytes bs dir 8
     leAt bs 28 4 != ceilDiv ((secAt dir 10).len + (secAt dir 9).len) 1048576 || imgDigest bs dir != im.digest ||
      ((List.range im.units.length).zip im.units).any (fun u => unitDigest bs dir im.arrays u.1 != u.2.2) ||
      im.arrays.any (fun a => recordBad a data) || (List.range im.recipes.length).any (recipeBad (secBytes bs dir 6)) ||
      im.projs.any projBad || (List.range im.experts.length).any (expertBad (secBytes bs dir 4)) ||
      im.hooks.any (fun h => decide (2 < h.1)) || im.program.any (descHookBad im) ||
      im.experts.any (fun e => hookWrong im e.hookGu 0 || hookWrong im e.hookDown 0))

/-! ### NO_OBJECT findings (R196, R104, R124, R188) -/

/-- R196: an array whose contents or fields break R17, R48, R192, R194. -/
def arrayWrong (im : Image) (data : List Byte) (a : ArrayIdx) : Bool :=
  decide (im.units.length ≤ a.unit) || decide (im.yelms ≤ a.yelm) || a.eg.any (fun e => decide (6 < e)) || a.rows == 0 ||
    decide (1024 < a.rows) || !fIn a.rhoW 0 fOne || (tgetD im.spares a.yelm []).contains a.array ||
    (match profileOf a.fmt a.profile with
     | none => true
     | some p => decide (p.outputs < a.channels) ||
        (match recordRows a p (cut data a.ofs a.len) with
         | none => false
         | some rows => rows.any (fun r => !rowChecks p a.channels a.eg r || (r.drop (a.channels * p.n + 12)).any (fun t => t != 0))))

/-- R23: the group scales of a projection that differ within a scale span. -/
def scalesWrong (im : Image) (p : Proj) : Bool :=
  let g := ceilDiv p.dimIn 256
  decide (im.digital.length < p.scaleOfs + 2 * p.dimOut * g) ||
    (List.range p.dimOut).any (fun j => (List.range g).any (fun k =>
      bfAt im.digital (p.scaleOfs + 2 * (j * g + k)) != bfAt im.digital (p.scaleOfs + 2 * (j * g + k / (p.span / 256) * (p.span / 256)))))

def overlap (a n b m : Nat) : Bool := decide (a < b + m) && decide (b < a + n)

/-- R80: two PLACE records that put a channel on two segments or a row of a channel twice. -/
def placesClash (im : Image) (a b : Place) : Bool :=
  match arrayIdx im a, arrayIdx im b with
  | some x, some y => overlap a.chFirst x.channels b.chFirst y.channels &&
      (a.segment != b.segment || overlap a.rowFirst x.rows b.rowFirst y.rows)
  | _, _ => false

/-- R80, R189, R196: what is wrong with a projection's references and placement. -/
def projWrong (im : Image) (p : Proj) : Bool :=
  decide (im.units.length ≤ p.unit) || decide (im.outlier.length < p.outOfs + p.candidates.length * (4 + 2 * p.dimOut)) ||
    p.candidates.any (fun r => decide (p.dimIn ≤ r)) || anyPair (fun (a b : Nat) => a == b) p.candidates || scalesWrong im p ||
    p.places.any (fun pl => match arrayIdx im pl with
      | none => true
      | some a => a.unit != p.unit || decide (p.dimIn < pl.rowFirst + a.rows) || decide (p.dimOut < pl.chFirst + a.channels)) ||
    anyPair (placesClash im) p.places ||
    (List.range p.dimOut).any (fun ch => !p.places.any (fun pl => (placeChannels im p pl).contains ch)) ||
    p.places.any (fun pl => p.places.any (fun q => q.segment == pl.segment && ((q.pos == pl.pos) != (q.yelm == pl.yelm))) ||
      (List.range pl.pos).any (fun i => !p.places.any (fun q => q.segment == pl.segment && q.pos == i)))

/-- R104: what the check of the step program carries along: widths of written slots, the ROUTE that waits for its EXPERTS, the
experts of the route list that each LAYER has, recipes by projection, and whether anything was wrong. -/
structure ProgScan where
  width : Tbl Nat
  route : Option Nat
  lists : Tbl Nat
  recipes : Tbl Nat
  bad : Bool
deriving DecidableEq, Repr

/-- R188: the swap unit of a LAYER. -/
def layerUnit (im : Image) (layer : Nat) : Option Nat :=
  if layer = 0xFFFF then some (im.units.length - 1) else if layer + 1 < im.units.length then some layer else none

/-- R103, R468: an image offset and a length that leave DIGITAL. -/
def ofsWrong (im : Image) (o n : Nat) : Bool := o != 0 && decide (im.digital.length < o + n)

/-- R104: an index outside its table, where it names anything. -/
def hookOut (im : Image) (h : Nat) : Bool := h != 0xFFFF && decide (im.hooks.length ≤ h)

/-- R104: projections reached with a recipe. -/
def useRecipe (sc : ProgScan) (ps : List Nat) (r : Nat) : ProgScan :=
  ps.foldl (fun sc p => match tget sc.recipes p with
    | some q => { sc with bad := sc.bad || q != r }
    | none => { sc with recipes := tset sc.recipes p r }) sc

/-- R104: a projection reached by a descriptor: in its table, of the dimensions, in the unit of the LAYER. -/
def reachWrong (im : Image) (layer p dimIn dimOut : Nat) : Bool :=
  match im.projs[p]? with
  | none => true
  | some e => e.dimIn != dimIn || e.dimOut != dimOut || some e.unit != layerUnit im layer

/-- R104, R124: one descriptor. An EXPERTS reads the route list of its LAYER, as many experts as its ROUTE had (R103); one whose
LAYER has none yet is a finding like that of a slot read before it is written. Log entry 120 (DEDUCED). -/
def scanDesc (im : Image) (sc : ProgScan) (id : Nat × Desc) : ProgScan :=
  let i := id.1
  let d := id.2
  let k := dKind d
  let n := im.program.length
  let last := decide (i + 1 = n)
  let rd := fun slot dim => tget sc.width slot != some dim
  let res := tgetD sc.width 0 0
  let dst := !(decide (1 ≤ dDst d) && decide (dDst d ≤ 15)) || decide (32768 < dOut d)
  let out := fun (sc : ProgScan) (b : Bool) => { sc with bad := sc.bad || b, width := tset sc.width (dDst d) (dOut d) }
  let flag := fun (sc : ProgScan) (b : Bool) => { sc with bad := sc.bad || b }
  let sc := flag sc ((k == 0) != last || decide (9 < k) || (dLayer d != 0xFFFF && decide (1023 < dLayer d)) ||
    (i == 0 && k != 1) || (k == 9 && i + 2 != n))
  match k with
  | 1 =>
    { flag sc (decide (262144 < leAt d 24 4) || leAt d 24 4 != im.vocab || leAt d 16 8 == 0 ||
        ofsWrong im (leAt d 16 8) (2 * leAt d 24 4 * dOut d)) with width := tset sc.width 0 (dOut d) }
  | 2 => out sc (rd 0 (dIn d) || dIn d != res || dOut d != dIn d || dst || decide (1 < leAt d 36 1) || !fPositive (dF32 d 32) ||
      hookOut im (leAt d 38 2) || ofsWrong im (leAt d 16 8) (2 * dIn d) || ofsWrong im (leAt d 24 8) (2 * dIn d))
  | 3 =>
    let sc := useRecipe sc [leAt d 16 4] (leAt d 20 2)
    let b := rd (dSrc d) (dIn d) || reachWrong im (dLayer d) (leAt d 16 4) (dIn d) (dOut d) ||
      decide (im.recipes.length ≤ leAt d 20 2) || hookOut im (leAt d 22 2) || ofsWrong im (leAt d 24 8) (2 * dOut d)
    if dFuse d then flag sc (b || dOut d != res) else out sc (b || dst)
  | 4 =>
    let a := attnDesc d
    let cap := a.qHeads == 0 || a.heads == 0 || decide (64 < a.heads) || decide (256 < a.qHeads) || a.dim % 16 != 0 || decide (a.dim < 16) ||
      decide (256 < a.dim)
    out sc (rd (dSrc d) (dIn d) || cap || a.qHeads % max 1 a.heads != 0 || dIn d != (a.qHeads + 2 * a.heads) * a.dim ||
      dOut d != a.qHeads * a.dim || dst || decide (65536 < leAt d 24 4) || decide (1 < leAt d 38 1) || decide (a.dim < leAt d 36 2) ||
      leAt d 36 2 % 2 != 0 || (leAt d 36 2 != 0 && (!fPositive (dF32 d 28) || fNonfinite (dF32 d 32))) || !fPositive (dF32 d 40))
  | 5 => out sc (rd (dSrc d) (dIn d) || decide (4 < leAt d 16 1) || dOut d != dIn d || dst ||
      (gated (leAt d 16 1) && rd (dSrc2 d) (dIn d)))
  | 6 => flag sc (rd (dSrc d) (dIn d) || dIn d != res)
  | 7 =>
    let n := leAt d 32 2
    { flag sc (rd (dSrc d) (dIn d) || sc.route.isSome || n == 0 || decide (1024 < n) || leAt d 34 1 == 0 ||
        decide (16 < leAt d 34 1) || decide (n < leAt d 34 1) || decide (2 < leAt d 35 1) || leAt d 16 8 == 0 ||
        ofsWrong im (leAt d 16 8) (2 * dIn d * n) || ofsWrong im (leAt d 24 8) (2 * n)) with
      route := some (dLayer d), lists := tset sc.lists (dLayer d) n }
  | 8 =>
    let n := leAt d 20 2
    let es := (im.experts.drop (leAt d 16 4)).take n
    let sc := useRecipe sc (es.flatMap (fun e => e.replicas.flatMap (fun r => [r.1, r.2]))) (leAt d 28 2)
    { flag sc (rd (dSrc d) (dIn d) || dOut d != res || tget sc.lists (dLayer d) != some n || es.length != n ||
        decide (1 < leAt d 22 1) || decide (im.recipes.length ≤ leAt d 28 2) ||
        es.any (fun e => hookOut im e.hookGu || hookOut im e.hookDown || e.replicas.any (fun r =>
          reachWrong im (dLayer d) r.1 (dIn d) (2 * leAt d 24 4) || reachWrong im (dLayer d) r.2 (leAt d 24 4) (dOut d)))) with
      route := if sc.route = some (dLayer d) then none else sc.route }
  | 9 =>
    flag (useRecipe sc [leAt d 16 4] (leAt d 24 2)) (rd (dSrc d) (dIn d) || leAt d 20 4 != im.vocab || dOut d != im.vocab ||
      reachWrong im (dLayer d) (leAt d 16 4) (dIn d) (dOut d) || decide (im.recipes.length ≤ leAt d 24 2) ||
      hookOut im (leAt d 26 2) || ofsWrong im (leAt d 32 8) (2 * dOut d))
  | _ => sc

/-- R104, R124: the step program. -/
def programWrong (im : Image) : Bool :=
  let sc := ((List.range im.program.length).zip im.program).foldl (scanDesc im) ⟨[], none, [], [], false⟩
  let ls := (attnDescs im.program).map (fun d => leAt d 22 2)
  im.program.isEmpty || decide (8192 < im.program.length) || sc.bad || sc.route.isSome || ls != List.range ls.length

/-- R189, R190, R196: PLACE records past the end of their list, references of an expert outside their tables, and spares of a yelm
that the image does not use. -/
def tablesWrong (bs : List Byte) (im : Image) : Bool :=
  let dir := imgDir bs
  let t := secBytes bs dir 3
  let n := im.projs.length
  (List.range n).any (fun i => decide ((t.length - 48 * n) / 16 < leAt t (48 * i + 32) 4 + leAt t (48 * i + 36) 4)) ||
    im.experts.any (fun e => hookOut im e.hookGu || hookOut im e.hookDown ||
      e.replicas.any (fun r => decide (n ≤ r.1) || decide (n ≤ r.2))) ||
    im.spares.any (fun e => decide (im.yelms ≤ e.1))

/-- R188, R196: LAYER and ARRAYS of the unit table, and UNITS of the header. -/
def unitsWrong (bs : List Byte) (im : Image) : Bool :=
  let n := im.units.length
  let t := secBytes bs (imgDir bs) 1
  n != leAt bs 14 2 || (List.range n).any (fun u =>
    ((im.units.getD u (0, [])).1 != (if u + 1 = n then 0xFFFF else u)) ||
      leAt t (32 * u + 4) 4 != (im.arrays.filter (fun a => a.unit == u)).length)

/-- R433: a signature that is required and absent, or present and failing. -/
def sigWrong (b : SecBlk) (bs : List Byte) (im : Image) : Bool :=
  let dir := imgDir bs
  if dir.any (fun e => e.type == 12) then !sigOk 1 b.opKey (tag4 0x51 0x46 0x49 0x4D) (secBytes bs dir 12) im.digest
  else b.imgSigReq

/-- R196, second row. -/
def imgWrong (b : SecBlk) (bs : List Byte) (im : Image) : Bool :=
  im.arrays.any (arrayWrong im (secBytes bs (imgDir bs) 8)) ||
    anyPair (fun (x y : ArrayIdx) => x.yelm == y.yelm && x.array == y.array) im.arrays || im.projs.any (projWrong im) ||
    tablesWrong bs im || unitsWrong bs im || programWrong im || sigWrong b bs im

/-! ### Mapping and NO_RESOURCE findings (R200, R80, R84) -/

/-- Physical arrays of a yelm that are retired. -/
def Yelm.isRetired (y : Yelm) (a : Nat) : Bool := (y.arr a).st == .retired

/-- Physical arrays of a VI's yelm that a map uses. -/
def mapUses (m : Tbl Nat) (y : Nat) : List Nat := (m.filter (fun e => e.1 / 1024 == y)).map Prod.snd

/-- R200: free spares of a bank of a VI's yelm, lowest first. -/
def freeSpares (ye : Yelm) (m : Tbl Nat) (spares : List Nat) (y bank : Nat) : List Nat :=
  distinct (spares.filter (fun a => bankOf a == bank && !ye.isRetired a && !(mapUses m y).contains a && (ye.arr a).prog.isNone))

/-- R200: one more array in a map; none where its bank has no spare. -/
def mapArray (s : State) (v : Nat) (part : PartRec) (im : Image) (acc : Option (Tbl Nat)) (a : ArrayIdx) : Option (Tbl Nat) :=
  match acc with
  | none => none
  | some m =>
    let key := a.yelm * 1024 + a.array
    if thas m key then some m
    else
      let ye := s.yelm ((physYelm v part a.yelm).getD 0)
      if !ye.isRetired a.array && !(mapUses m a.yelm).contains a.array then some (tset m key a.array)
      else match freeSpares ye m (tgetD im.spares a.yelm []) a.yelm (bankOf a.array) with
        | [] => none
        | n :: _ => some (tset m key n)

/-- R200: the map of an image over what is already mapped. -/
def mapImage (s : State) (v : Nat) (part : PartRec) (im : Image) (m0 : Tbl Nat) : Option (Tbl Nat) :=
  (sortBy (fun (a b : ArrayIdx) => decide (a.yelm * 1024 + a.array < b.yelm * 1024 + b.array)) im.arrays).foldl
    (mapArray s v part im) (some m0)

/-- R80: a segment off consecutive physical yelms of one purlin group. -/
def segmentsOff (v : Nat) (part : PartRec) (p : Proj) : Bool :=
  (distinct (p.places.map Place.segment)).any (fun sg =>
    let line := (segYelms p sg).map (physYelm v part)
    match line.head? with
    | some (some h) => ((List.range line.length).zip line).any (fun e => e.2 != some (h + e.1) || (h + e.1) / 256 != h / 256)
    | _ => true)

/-- R84: more than 4,096 channels of a projection on a yelm. -/
def channelsOver (im : Image) (p : Proj) : Bool :=
  (projYelms p).any (fun y => decide (4096 <
    (distinct ((p.places.filter (fun pl => pl.yelm == y)).flatMap (placeChannels im p))).length))

/-- R196, third row; `used` is the room of DIGITAL_MIB already taken. -/
def imgOver (s : State) (v : Nat) (x : Vi) (im : Image) (m : Option (Tbl Nat)) (used : Nat) : Bool :=
  decide (x.yelmCount < im.yelms) || decide (x.part.digital * 1048576 < used + im.residentMib * 1048576) ||
    im.projs.any (fun p => segmentsOff v x.part p || channelsOver im p) ||
    (match m with
     | none => true
     | some m => (List.range im.yelms).any (fun y => (List.range 16).any (fun b =>
        decide ((freeSpares (s.yelm ((physYelm v x.part y).getD 0)) m (tgetD im.spares y []) y b).length < 4))))

end Sys2Proof.Machine
end

