-- ==== Sys2Proof/Machine/Images.lean ====
section
/-! DEFINITION. Loading, swapping, erasing and refreshing images (chapter 08, R195–R215, R468–R470, R279): the commands, the
check and program passes, arrays in programming, spares and retirements, suspect marks (R328, R329). -/
namespace Sys2Proof.Machine

/-! ### Access -/

def State.modImg (s : State) (v : Nat) (f : ImgState → ImgState) : State := s.modVi v (fun x => { x with img := f x.img })
def State.modOp (s : State) (v : Nat) (f : ImgOp → ImgOp) : State := s.modImg v (fun m => { m with op := m.op.map f })
def State.modArr (s : State) (y a : Nat) (f : Arr → Arr) : State := s.modYelm y (fun ye => ye.modArr a f)

/-- The VI that holds a physical yelm, and the VI's number of it. -/
def State.owner (s : State) (y : Nat) : Option (Nat × Vi × Nat) :=
  (s.vis.find? (fun e => e.2.part.courses.contains (y / 16))).bind (fun e => (viYelmOf e.2.part y).map (fun n => (e.1, e.2, n)))

/-- R200: the logical array (VI's yelm × 1,024 + array) that a physical one serves. -/
def Vi.logicalOf (x : Vi) (y a : Nat) : Option Nat := (x.img.map.find? (fun e => e.1 / 1024 == y && e.2 == a)).map Prod.fst

/-- The physical yelms of a VI in its own order. -/
def Vi.yelmsOf (v : Nat) (x : Vi) : List Nat := (List.range x.yelmCount).filterMap (physYelm v x.part)

/-- R39: a converter bank that no array holds. -/
def Yelm.bankFree (y : Yelm) (b : Nat) : Bool := y.arrays.all (fun e => bankOf e.1 != b || !(e.2.st == .lit || e.2.st == .busy))

/-- Arrays of a yelm in programming or erase for an image operation. -/
def Yelm.inJob (y : Yelm) : Nat :=
  (y.arrays.filter (fun e => match e.2.prog.map Prog.job with
    | some (.program _) => true
    | some (.erase _) => true
    | _ => false)).length

/-- R88: spare arrays still unused in a VI's yelm. -/
def State.sparesOf (s : State) (x : Vi) (y n : Nat) : List Nat :=
  let ye := s.yelm y
  let sp := (x.img.image.map (fun im => tgetD im.spares n [])).getD []
  (distinct sp).filter (fun a => !ye.isRetired a && !(mapUses x.img.map n).contains a && (ye.arr a).prog.isNone)

def State.sparesLeft (s : State) (x : Vi) (y n : Nat) : Nat := (s.sparesOf x y n).length

/-- R199: whether an installed unit's record matches an image's unit and its mapping. -/
def unitMatches (v : Nat) (x : Vi) (im : Image) (m : Tbl Nat) (u : Nat) : Bool :=
  match tget x.img.units u with
  | none => false
  | some r => some r.digest == (im.units[u]?).map Prod.snd && r.arrays == (im.arrays.filter (fun a => a.unit == u)).map (fun a =>
      ((physYelm v x.part a.yelm).getD 0, tgetD m (a.yelm * 1024 + a.array) a.array))

/-- R197, R201, R211, R470: the image and source from which an array is filled now. -/
def Vi.fillFrom (x : Vi) : Option (Image × Source) :=
  match x.img.op with
  | some o =>
    if o.phase = .program ∨ (o.kind = .swap ∧ (o.phase = .barrier ∨ o.phase = .lift) ∧ o.status = 0) then
      o.image.map (fun im => (im, o.source))
    else x.img.image.map (fun im => (im, x.img.source))
  | none => x.img.image.map (fun im => (im, x.img.source))

def Image.idxOf (im : Image) (logical : Nat) : Option ArrayIdx :=
  im.arrays.find? (fun a => a.yelm * 1024 + a.array == logical)

/-! ### Ends of an image operation -/

/-- The reply of IMG_LOAD (R279). -/
def loadReply (gen prog skipped spare limit : Nat) : List Byte :=
  le 2 gen ++ zeros 2 ++ le 4 prog ++ le 4 skipped ++ le 4 spare ++ le 1 limit ++ zeros 3

/-- An image operation ends without its effect: its resident sections go with it. -/
def State.endOp (s : State) (v status : Nat) (pay : List Byte) : State :=
  match (s.vi? v).bind (fun x => x.img.op) with
  | none => s
  | some o => (s.modImg v (fun m => { m with op := none })).outcome v o.entry status pay

/-- R222: the bytes of a recipe, after its index (R224). -/
def recipeBytes (r : Recipe) : List Byte :=
  le 2 r.rowBand ++ le 1 r.actTrits ++ le 1 r.ovrMode ++ le 1 r.outlierN ++ le 1 r.budgetQ ++ zeros 2 ++ le 4 r.kSoft.toNat ++
    le 4 r.kHard.toNat

/-- R355: the recipes and the DIGEST of a new image, as records of a home's stream. -/
def State.emitImage (s : State) (v : Nat) : State :=
  match s.vi? v with
  | none => s
  | some x =>
    let s := ((List.range x.img.recipes.length).zip x.img.recipes).foldl (fun s (r : Nat × Recipe) =>
      s.emit v none false (.recipe r.1 (recipeBytes r.2) r.2.since)) s
    s.emit v none false (.digest ((x.img.image.map Image.digest).getD []))

/-- R200: arrays placed elsewhere than on themselves. -/
def onSpares (m : Tbl Nat) (im : Image) : Nat :=
  (im.arrays.filter (fun a => tgetD m (a.yelm * 1024 + a.array) a.array != a.array)).length

/-- R197–R199: the load is complete: the image is current under the next generation; the reply counts the arrays on spares as
the map stands now (R195). -/
def State.finishLoad (s : State) (v : Nat) (o : ImgOp) : State :=
  let g := ((s.vi? v).map (fun x => nextTag x.img.lastGen)).getD 1
  let s := s.modImg v (fun m => { m with
    gen := g, lastGen := g, image := o.image, source := o.source, pendingRecipes := [],
    recipes := ((o.image.map Image.recipes).getD []).map (fun r => { r with since := s.now }) })
  let spare := ((s.vi? v).bind (fun x => o.image.map (onSpares x.img.map))).getD 0
  (s.emitImage v).endOp v stOk (loadReply g o.programmed o.skipped spare o.limit)

/-- R185: whether a set no longer fits an image's hooks. -/
def AdpSet.unfit (a : AdpSet) (im : Image) : Bool :=
  a.hooks.any (fun h => im.hooks[h.1]? != some (0, h.2.2.2.1, h.2.2.2.2)) ||
    a.tensors.any (fun t => match t.kind with
      | .gain n => match im.hooks[n]? with
        | none => true
        | some k => k.1 != 1 || k.2.1 != t.cols
      | .bias => im.vocab != t.cols
      | _ => false)

/-- R200, R209: the mappings of an image's logical arrays alone. -/
def ImgState.mapOf (m : ImgState) (im : Option Image) : ImgState :=
  { m with map := m.map.filter (fun e => (im.bind (fun i => i.idxOf e.1)).isSome) }

/-- R210, R185: the barrier lifts: the new generation is current, held steps become eligible; arrays that only the other image
used have become free. Log entry 32 (DEDUCED). -/
def State.finishSwap (s : State) (v : Nat) (x : Vi) (o : ImgOp) : State :=
  let n := (s.steps.filter (fun e => e.2.vi == v && !e.2.inFlight)).length
  let tail := le 8 (s.now - o.raised) ++ le 4 n ++ zeros 4
  if o.status ≠ 0 then (s.modImg v (fun m => m.mapOf m.image)).endOp v o.status (le 2 x.img.gen ++ zeros 6 ++ tail)
  else
    match o.image with
    | none => s
    | some im =>
      let g := nextTag x.img.lastGen
      let s := s.modImg v (fun m => { m.mapOf (some im) with
        gen := g, lastGen := g, image := some im, source := o.source, pendingRecipes := [],
        recipes := im.recipes.map (fun r => { r with since := s.now }) })
      let s := s.modVi v (fun x => { x with sets := tmapv x.sets (fun _ a => { a with stale := a.stale || a.unfit im }) })
      (s.emitImage v).endOp v stOk (le 2 g ++ le 2 (im.units.length - o.skipped) ++ le 2 o.skipped ++ zeros 2 ++ tail)

/-- R212, R197, R470: every array is erased: no image, no records, generation 0; the last generation stays. -/
def State.finishErase (s : State) (v : Nat) (o : ImgOp) : State :=
  let full := decide (o.kind ≠ .load)
  let s := s.modImg v (fun m => { m with
    gen := 0, image := none, recipes := [], pendingRecipes := [], map := if full then [] else m.map,
    units := if full then [] else m.units })
  match o.kind with
  | .load => s.endOp v o.status (loadReply 0 0 0 0 o.limit)
  | .swap => s.endOp v o.status (zeros 8 ++ le 8 (s.now - o.raised) ++ zeros 8)
  | .erase =>
    let rs := ((s.vi? v).map (fun x => x.img.refresh)).getD []
    let s := s.modImg v (fun m => { m with refresh := [] })
    let s := rs.foldl (fun s r => s.outcome v r.entry stNoObject (zeros 4 ++ le 4 r.margin.toNat)) s
    s.endOp v stOk (le 4 o.erased)

/-! ### Programming (R200–R202) -/

/-- R331: the swap unit of a VI's logical array. -/
def State.unitOf (s : State) (v logical : Nat) : Nat :=
  ((((s.vi? v).bind (fun x => x.img.image)).bind (fun im => im.idxOf logical)).map ArrayIdx.unit).getD 0xFFFF

/-- R213: an array that is retired or programmed afresh is due no longer: no request waits for it or counts it, and a request
that has nothing left completes. Log entry 31 (DEDUCED). -/
def State.notRefreshed (s : State) (v y a : Nat) : State :=
  match s.vi? v with
  | none => s
  | some x =>
    let rs := x.img.refresh.map (fun r =>
      if r.left.contains (y, a) then { r with left := r.left.erase (y, a), count := r.count - 1 } else r)
    let s := s.modImg v (fun m => { m with refresh := rs.filter (fun r => r.left != []) })
    (rs.filter (fun r => r.left == [])).foldl (fun s r => s.outcome v r.entry stOk (le 4 r.count ++ le 4 r.margin.toNat)) s

/-- R203: an array leaves service for its spare: switched, erased and never used again. Log entry 30 (DEDUCED). -/
def State.retireTo (s : State) (v : Nat) (y n a spare logical : Nat) (copy : Bool) : State :=
  let s := s.modVi v (fun x =>
    let m := { x.img with map := tset x.img.map logical spare,
                          units := tmapv x.img.units (fun _ u => { u with arrays := u.arrays.map (fun e => if e = (y, a) then (y, spare) else e) }) }
    { x with img := m })
  let s := (s.modArr y a (fun r => r.retired (s.yelmTemp y))).notRefreshed v y a
  let s := s.modErr (fun b => { b with retired := bump b.retired })
  match s.vi? v with
  | none => s
  | some x =>
    let conflict := (x.img.map.filter (fun e => e.1 / 1024 == n && bankOf e.2 == bankOf spare && bankOf (e.1 % 1024) != bankOf spare)).length
    s.report { recOf 0x0104 0 v s.now with
      yelm := y, array := a, unit := ((x.img.image.bind (fun im => im.idxOf logical)).map ArrayIdx.unit).getD 0xFFFF,
      flags := if copy then 2 else 0, die := dieOfYelm y,
      detail := le 2 spare ++ le 1 (s.sparesLeft x y n) ++ le 1 (if bankOf spare = bankOf (logical % 1024) then 0 else conflict) }

/-- R200, R205: the spare for an array: of its logical bank if there is one, else the lowest of the yelm. -/
def State.pickSpare (s : State) (x : Vi) (y n logical : Nat) : Option Nat :=
  let ye := s.yelm y
  let sp := (x.fillFrom.map (fun f => tgetD f.1.spares n [])).getD []
  let all := distinct (sp.filter (fun a => !ye.isRetired a && !(mapUses x.img.map n).contains a && (ye.arr a).prog.isNone))
  match all.find? (fun a => bankOf a == bankOf (logical % 1024)) with
  | some a => some a
  | none => all.head?

/-- R198, R201: read an array's record from its source. -/
def State.readRecord (s : State) (v y a logical : Nat) : State :=
  match s.vi? v with
  | none => s
  | some x =>
    match x.fillFrom.bind (fun f => (f.1.idxOf logical).map (fun i => (f.1, f.2, i))) with
    | none => s
    | some (im, src, i) =>
      let base := ((tget x.regions src.region).map Region.addr).getD 0
      s.rdma v (x.regionConn src.region) (.record y a) false (base + src.ofs + im.dataOfs + i.ofs) i.len 0 []

/-- R270, R470: the outcome of the record reads of certain arrays of a VI no longer counts. -/
def State.dropRecords (s : State) (v : Nat) (f : Nat → Nat → Bool) : State :=
  let drop := fun (t : Xfer) => match t.purpose with
    | .record y a => if f y a then { t with viGen := noTag } else t
    | _ => t
  s.modVi v (fun x => { x with conns := tmapv x.conns (fun _ c => { c with out := c.out.map drop }) })

/-- R201, R202: an array starts to be programmed: it holds its bank; one that is not zero is erased first. -/
def State.startProgram (s : State) (v y a : Nat) (job : Job) (logical : Nat) : State :=
  let s := s.modArr y a (fun r =>
    { r with st := .busy, idx := none, prog := some ⟨job, logical, r.cells.isEmpty, false, [], 0⟩ })
  s.readRecord v y a logical

/-- R202, R209: how many arrays of a yelm an operation may hold at once. -/
def State.opLimit (s : State) (v : Nat) (o : ImgOp) : Nat :=
  if o.kind = .swap ∧ s.viInFlight v > 0 then min 8 o.limit else o.limit

/-- R209, R106: every step bound to the old generation has passed a unit, or ended. -/
def State.unitReady (s : State) (v : Nat) (im : Image) (u : Nat) : Bool :=
  let mine := s.steps.filter (fun e => e.2.vi == v && e.2.inFlight)
  if u + 1 = im.units.length then mine.isEmpty
  else
    let ds := (List.range im.program.length).filter (fun i => dLayer (descAt im i) == u)
    mine.all (fun e => ds.isEmpty || e.2.passed (if e.2.kind = .backward then ds.headD 0 else ds.getLastD 0))

/-- R209: an earlier changed unit that is ready has started all its arrays; before the outer unit, every other has. -/
def State.mayStart (s : State) (v : Nat) (old new : Image) (o : ImgOp) (u : Nat) : Bool :=
  let n := new.units.length
  let begun := fun w => o.done.contains w || (o.started.contains w &&
    !new.arrays.any (fun a => a.unit == w && o.todo.contains (a.yelm, a.array)))
  s.unitReady v old u && (List.range u).all (fun w => begun w || (u + 1 != n && !s.unitReady v old w))

/-- R204, R205: a retirement waits 1,024 beats; `failed` where it follows a failed row. Log entry 30 (DEDUCED). -/
def State.waitRetire (s : State) (y a : Nat) (failed : Bool) : State :=
  s.modArr y a (fun r => { r with retire := some ⟨none, some 1024, false, false, failed⟩ })

/-- R205: a yelm has no spare: the retirement waits, with a NO_SPARE record. Log entry 30 (DEDUCED). -/
def State.noSpare (s : State) (v y a logical : Nat) (failed : Bool) : State :=
  (s.waitRetire y a failed).report { recOf 0x0106 1 v s.now with yelm := y, array := a, unit := s.unitOf v logical, die := dieOfYelm y }

/-- R211: an array that retires has its place in the new image on a spare: on the one it has chosen, where one is being filled, or
on the next. -/
def State.retireInSwap (s : State) (v : Nat) (x : Vi) (y n a logical : Nat) (t : Retire) : Option State :=
  match t.spare with
  | some sp =>
    let s := (s.dropRecords v (fun y' a' => y' == y && a' == sp)).modArr y sp (fun r => { r with st := .spare, prog := none })
    some (s.retireTo v y n a sp logical false)
  | none => (s.pickSpare x y n logical).map (fun sp => s.retireTo v y n a sp logical false)

/-- R202, R209: whether an array that is still to be programmed may start, as far as the order of the units goes. -/
def State.inOrder (s : State) (v : Nat) (x : Vi) (o : ImgOp) (logical : Nat) : Bool :=
  match o.image, x.img.image with
  | some new, some old => o.kind != .swap || s.mayStart v old new o ((new.idxOf logical).map ArrayIdx.unit |>.getD 0)
  | _, _ => true

/-- R202, R205, R211: an array of an operation is programmed: on itself, or, where it retires, on a spare once the spare's bank
is free (the next call); one whose yelm has no spare is programmed in place, and its retirement waits. -/
def State.startArray (s : State) (v : Nat) (x : Vi) (n y : Nat) (e : Nat × Nat) : State :=
  let a := x.physArr n e.2
  let logical := n * 1024 + e.2
  let here := fun (s : State) => (s.modOp v (fun o => { o with todo := o.todo.erase e })).startProgram v y a (.program v) logical
  match ((s.yelm y).arr a).retire with
  | none => here s
  | some t =>
    match s.retireInSwap v x y n a logical t with
    | some s => s
    | none => here (if t.retry.isSome then s else s.noSpare v y a logical false)

/-- R202: start the next erase or array of a yelm, unit by unit and lowest first, where its bank is free. An array whose row
failed waits for a spare (R201). Log entry 94 (DEDUCED). -/
def State.pumpOne (s : State) (v n y : Nat) : State :=
  match s.vi? v with
  | none => s
  | some x =>
    match x.img.op with
    | none => s
    | some o =>
      let ye := s.yelm y
      if s.opLimit v o ≤ ye.inJob ∨ ye.resetting then s
      else
        match o.toErase.find? (fun e => e.1 == y && ye.bankFree (bankOf e.2)) with
        | some e =>
          (s.modOp v (fun o => { o with toErase := o.toErase.erase e })).modArr y e.2 (fun r =>
            { r with st := .busy, idx := none, prog := some ⟨.erase v, 0, false, true, [], 0⟩ })
        | none =>
          let mine := sortBy (fun (a b : Nat × Nat) => decide (a.2 < b.2)) (o.todo.filter (fun e =>
            e.1 == n && s.inOrder v x o (n * 1024 + e.2)))
          match mine.find? (fun e =>
              let a := x.physArr n e.2
              ye.bankFree (bankOf a) && !o.toErase.contains (y, a) && !((ye.arr a).retire.map Retire.failed).getD false) with
          | none => s
          | some e => s.startArray v x n y e

/-- Whether an array of a VI is in programming or erase for its operation. -/
def State.viBusy (s : State) (v : Nat) (x : Vi) : Bool := (Vi.yelmsOf v x).any (fun y => decide (0 < (s.yelm y).inJob))

/-- R212: every array that the image maps. -/
def mappedArrays (v : Nat) (x : Vi) : List (Nat × Nat) :=
  x.img.map.filterMap (fun e => (physYelm v x.part (e.1 / 1024)).map (fun y => (y, e.2)))

/-- R217: the counters of a unit clear when it is programmed; its flags stay. -/
def UnitPrec.cleared (u : UnitPrec) : UnitPrec := { UnitPrec.zero with flags := u.flags }

/-- R199: the units of an operation that have just become whole, with no array left to program, get their records, and their
counters clear (R217). -/
def State.noteUnits (s : State) (v : Nat) (x : Vi) (o : ImgOp) (im : Image) : State :=
  let whole := (List.range im.units.length).filter (fun u => o.started.contains u && !o.done.contains u &&
    (im.arrays.filter (fun a => a.unit == u)).all (fun a => !o.todo.contains (a.yelm, a.array) &&
      ((s.yelm ((physYelm v x.part a.yelm).getD 0)).arr (x.physArr a.yelm a.array)).idx == some a))
  let rec_ := fun u => UnitRec.mk ((im.units.getD u (0, [])).2) ((im.arrays.filter (fun a => a.unit == u)).map (fun a =>
    ((physYelm v x.part a.yelm).getD 0, x.physArr a.yelm a.array)))
  let s := s.modOp v (fun o => { o with done := o.done ++ whole })
  s.modVi v (fun x =>
    let m := { x.img with units := whole.foldl (fun t u => tset t u (rec_ u)) x.img.units }
    let c := { x.prec with units := whole.foldl (fun t u => tset t u (tgetD t u .zero).cleared) x.prec.units }
    { x with img := m, prec := c })

/-- Where an operation stands once nothing more is being programmed or erased. -/
def State.imgAdvance (s : State) (v : Nat) : State :=
  match s.vi? v with
  | none => s
  | some x =>
    match x.img.op with
    | none => s
    | some o =>
      let target := if o.phase = .restore then x.img.image else o.image
      let s := match target with
        | none => s
        | some im => s.noteUnits v x o im
      match (s.vi? v).bind (fun x => x.img.op) with
      | none => s
      | some o =>
        if s.viBusy v x ∨ o.todo ≠ [] ∨ o.toErase ≠ [] then s
        else match o.phase with
          | .program => s.finishLoad v o
          | .erase => s.finishErase v o
          | .restore => s.modOp v (fun o => { o with phase := .lift })
          | .barrier =>
            if o.kind = .swap then
              (if o.done.length = ((o.image.map (fun im => im.units.length)).getD 0) then
                s.modOp v (fun o => { o with phase := .lift }) else s)
            else s
          | _ => s

/-- R212: an erase behind its barrier begins once every step of the VI has ended. -/
def State.eraseBegins (s : State) (v : Nat) : State :=
  match s.vi? v with
  | none => s
  | some x =>
    match x.img.op with
    | none => s
    | some o =>
      if o.kind = .erase ∧ o.phase = .barrier ∧ s.viInFlight v = 0 then
        s.modOp v (fun o => { o with phase := .erase, toErase := mappedArrays v x })
      else s

/-- Start what may start, on every yelm of the VI, and see where the operation stands. -/
def State.imgPump (s : State) (v : Nat) : State :=
  let s := s.eraseBegins v
  match s.vi? v with
  | none => s
  | some x =>
    let ns := (List.range x.yelmCount).filterMap (fun n => (physYelm v x.part n).map (fun y => (n, y)))
    (ns.foldl (fun s e => (List.range 16).foldl (fun s _ => s.pumpOne v e.1 e.2) s) s).imgAdvance v

/-! ### IMG_LOAD and IMG_SWAP (R195, R196, R206, R207, R279) -/

/-- R195, R279: PROG_LIMIT in force. -/
def progLimit (pay : List Byte) : Nat := if leAt pay 4 1 = 0 then 16 else min (leAt pay 4 1) 16

/-- R195, R206, R279: the static checks. Log entry 28 (DEDUCED). -/
def staticImg (swap : Bool) : StaticCheck := fun s c =>
  match s.vi? c.vi with
  | none => none
  | some x =>
    let rep := if swap then zeros 24 else loadReply 0 0 0 0 (progLimit c.pay)
    if x.img.op.isSome ∨ (x.img.gen ≠ 0) = !swap then some (stNotPermitted, rep)
    else
      match tget x.regions (leAt c.pay 0 4) with
      | none => some (stNoObject, rep)
      | some r => if r.use ≠ 0 ∨ leAt c.pay 8 8 + leAt c.pay 16 8 > r.length then some (stNoObject, rep) else none

/-- A new image operation. -/
def ImgOp.start (kind : ImgKind) (entry limit : Nat) (phase : Phase) (src : Source) : ImgOp :=
  { kind := kind, entry := entry, limit := limit, phase := phase, source := src, image := none, raised := 0, kept := false,
    toErase := [], todo := [], started := [], done := [], programmed := 0, skipped := 0, erased := 0, status := 0 }

/-- R211: a barrier that was up when a reset cut the operation short stays up when its command runs again.
Log entry 32 (DEDUCED). -/
def ImgState.begin (m : ImgState) (o : ImgOp) : ImgState :=
  match m.op with
  | some old => if old.entry = o.entry ∧ m.held then { m with op := some { o with kept := true, raised := old.raised } }
      else { m with op := some o }
  | .none => { m with op := some o }

/-- R196: a check pass begins with the read of the whole image. Log entry 28 (DEDUCED). -/
def effImg (kind : ImgKind) : Effect := fun s c =>
  let src : Source := ⟨leAt c.pay 0 4, leAt c.pay 8 8, leAt c.pay 16 8⟩
  let s := s.modImg c.vi (fun m => m.begin (ImgOp.start kind c.entry (progLimit c.pay) .check src))
  match s.vi? c.vi with
  | none => (s, none)
  | some x =>
    let base := ((tget x.regions src.region).map Region.addr).getD 0
    (s.rdma c.vi (x.regionConn src.region) .image false (base + src.ofs) src.len 0 [], none)

/-- IMG_LOAD. -/
def effImgLoad : Effect := effImg .load
/-- IMG_SWAP. -/
def effImgSwap : Effect := effImg .swap

def execImgLoad (p : Packet) (s : State) : Host.Outcome State Fault Refusal :=
  .next (s.takeAs 0x0301 p (staticImg false) effImgLoad)
def execImgSwap (p : Packet) (s : State) : Host.Outcome State Fault Refusal :=
  .next (s.takeAs 0x0302 p (staticImg true) effImgSwap)

/-! ### Failing program passes (R197, R469, R470) -/

/-- Programming of an operation stops where it stands; records still being read for it no longer count. -/
def State.stopPrograms (s : State) (v : Nat) (x : Vi) : State :=
  let s := s.dropRecords v (fun y a => ((s.yelm y).arr a).prog.map Prog.job == some (.program v))
  (Vi.yelmsOf v x).foldl (fun s y => s.modYelm y (fun ye => { ye with arrays := tmapv ye.arrays (fun _ a =>
    if (a.prog.map Prog.job) = some (.program v) then { a with st := .spare, prog := none } else a) })) s

/-- R197: a load stops: what it has programmed is erased. Log entry 94 (DEDUCED). -/
def State.failLoad (s : State) (v : Nat) (x : Vi) (status : Nat) : State :=
  let s := s.stopPrograms v x
  let units := x.img.units.filter (fun u => !((x.img.op.map ImgOp.started).getD []).contains u.1)
  let kept := units.flatMap (fun u => u.2.arrays)
  let gone := (mappedArrays v x).filter (fun e => !kept.contains e && !((s.yelm e.1).arr e.2).cells.isEmpty)
  ((s.modImg v (fun m => { m with units := units })).modOp v (fun o =>
    { o with phase := .erase, image := none, todo := [], toErase := gone, status := status })).imgPump v

/-- R470: a swap ends: the old image is programmed back, array by array that it has erased or programmed; a unit that it has
started and that lost none has its record back at once, and arrays that only the new image uses are erased. Log entry 94
(DEDUCED). -/
def State.failSwap (s : State) (v : Nat) (x : Vi) (status : Nat) : State :=
  let s := s.stopPrograms v x
  let old := (x.img.image.map Image.arrays).getD []
  let lost := old.filter (fun a =>
    ((s.yelm ((physYelm v x.part a.yelm).getD 0)).arr (x.physArr a.yelm a.array)).idx != some a)
  let units := distinct (lost.map ArrayIdx.unit)
  let place := fun (a : ArrayIdx) => ((physYelm v x.part a.yelm).getD 0, x.physArr a.yelm a.array)
  let only := ((x.img.op.bind ImgOp.image).map Image.arrays).getD [] |>.filter (fun a =>
    !old.any (fun b => b.yelm == a.yelm && b.array == a.array) && !((s.yelm (place a).1).arr (place a).2).cells.isEmpty)
  let back := ((x.img.op.map ImgOp.started).getD []).filter (fun u => !units.contains u)
  let rec_ := fun u => UnitRec.mk (((x.img.image.map Image.units).getD []).getD u (0, [])).2
    ((old.filter (fun a => a.unit == u)).map place)
  let s := s.modImg v (fun m => { m with units := back.foldl (fun t u => tset t u (rec_ u)) m.units })
  (s.modOp v (fun o =>
    { o with phase := .restore, image := none, todo := lost.map (fun a => (a.yelm, a.array)), toErase := only.map place,
             started := units, done := [], status := status })).imgPump v

/-- R470: the old source fails as well: every array of both images is erased. -/
def State.failBoth (s : State) (v : Nat) (x : Vi) : State :=
  (((s.stopPrograms v x).modOp v (fun o => { o with phase := .erase, image := none, todo := [], toErase := mappedArrays v x })).modImg v
    (fun m => { m with image := none })).imgPump v

/-- A check pass rejects: nothing changes; a swap that ran again behind its barrier restores the old image first (R470).
Log entry 32 (DEDUCED). -/
def State.rejectImg (s : State) (v : Nat) (x : Vi) (o : ImgOp) (status : Nat) : State :=
  if o.kind = .swap ∧ o.kept then s.failSwap v x status
  else s.endOp v status (if o.kind = .swap then zeros 24 else loadReply 0 0 0 0 o.limit)

/-- R206: what the current image forbids a new one. -/
def swapForbids (old new : Image) : Bool :=
  old.units.length != new.units.length || kvLayers old.program != kvLayers new.program || decide (new.vocab < old.vocab) ||
    new.arrays.any (fun a => (tgetD old.spares a.yelm []).contains a.array ||
      old.arrays.any (fun b => b.yelm == a.yelm && b.array == a.array && b.unit != a.unit))

/-- R200: mappings that a load finds: they last until IMG_ERASE, VI_CLOSE or a retirement, so a logical array that the new image
uses keeps its place, and so does one that lies on a spare. Log entry 123 (DEDUCED). -/
def keptMap (x : Vi) (im : Image) : Tbl Nat :=
  x.img.map.filter (fun e => (im.idxOf e.1).isSome || e.1 % 1024 != e.2)

/-- R196, R207: a check pass that has read the whole image. Log entry 28 (DEDUCED). -/
def State.checkPass (s : State) (v : Nat) (x : Vi) (o : ImgOp) (bs : List Byte) : State :=
  if imgBad bs o.source.len then s.rejectImg v x o stBadLength
  else
    let im := parseImage bs
    let m := mapImage s v x.part im (if o.kind = .swap then x.img.map else keptMap x im)
    let other := o.kind == .swap && (x.img.image.map (fun old => swapForbids old im)).getD false
    if imgWrong s.sec bs im then s.rejectImg v x o stNoObject
    else if imgOver s v x im m x.digitalUsed then s.rejectImg v x o stNoResource
    else if other then s.rejectImg v x o stNotPermitted
    else
      let map := m.getD []
      let same := (List.range im.units.length).filter (unitMatches v x im map)
      let s := s.modImg v (fun i => { i with map := map })
      if o.kind = .swap then
        s.modOp v (fun o => { o with phase := .raise, image := some im, done := same, skipped := same.length })
      else
        let fresh := (List.range im.units.length).filter (fun u => !same.contains u)
        let skipped := (im.arrays.filter (fun a => same.contains a.unit)).length
        let todo := (im.arrays.filter (fun a => !same.contains a.unit)).map (fun a => (a.yelm, a.array))
        let s := s.modImg v (fun i => { i with units := i.units.filter (fun u => same.contains u.1) })
        (s.modOp v (fun o =>
          { o with phase := .program, image := some im, done := same, started := fresh, todo := todo, skipped := skipped })).imgPump v

/-- R196, R469: the read of a check pass has ended: with the image, or without. -/
def State.imageRead (s : State) (v : Nat) (data : Option (List Byte)) : State :=
  match s.vi? v with
  | none => s
  | some x =>
    match x.img.op with
    | none => s
    | some o =>
      if o.phase ≠ .check then s
      else match data with
        | none => s.rejectImg v x o stNoObject
        | some bs => s.checkPass v x o bs

/-- R196: the read of a check pass leaves its connection. -/
def State.popImage (s : State) (v : Nat) : State :=
  match (s.vi? v).bind (fun x => x.conns.findSome? (fun c =>
      (c.2.out.find? (fun t => t.purpose == .image && t.viGen == s.viTag v)).map (fun t => (c.1, t)))) with
  | none => s
  | some (rc, t) => s.popXfer v rc t

/-- IMG_CHECK_PASS_END (R196, R469): what the read of the image has given. -/
def execImgCheckPassEnd (ts vi : Nat) (src : SourceRead) (s0 : State) : Host.Outcome State Fault Refusal :=
  let s := s0.upto ts
  .next ((s.popImage vi).imageRead vi (match src with
    | .unreadable => none
    | .read bs => some bs))

/-! ### IMG_ERASE and IMG_REFRESH (R212, R213) -/

/-- IMG_ERASE: the barrier rises at the next boundary. Log entry 29 (DEDUCED). -/
def effImgErase : Effect := fun s c =>
  match s.vi? c.vi with
  | none => (s, none)
  | some x =>
    if (x.img.op.map (fun o => o.entry != c.entry)).getD false then (s, some (stNotPermitted, zeros 4))
    else if x.img.gen = 0 then (s, some (stNoObject, zeros 4))
    else (s.modImg c.vi (fun m => m.begin (ImgOp.start .erase c.entry 16 .raise m.source)), none)

def execImgErase (p : Packet) (s : State) : Host.Outcome State Fault Refusal := .next (s.takeAs 0x0303 p noStatic effImgErase)

/-- R52, R213: the level margin of an array. -/
def Arr.margin (a : Arr) : F32 := fDiv fOne a.alpha

/-- IMG_REFRESH. Log entry 31 (DEDUCED). -/
def effImgRefresh : Effect := fun s c =>
  let m := fClampOr (BitVec.ofNat 32 (leAt c.pay 4 4)) 0x3EC28F5C#32 fOne 0x3EC28F5C#32
  match s.vi? c.vi with
  | none => (s, none)
  | some x =>
    if x.img.gen = 0 then (s, some (stNoObject, zeros 4 ++ le 4 m.toNat))
    else
      let due := (mappedArrays c.vi x).filter (fun e => !bitOf (leAt c.pay 0 1) 0 || fLt ((s.yelm e.1).arr e.2).margin m)
      let s := due.foldl (fun s e => s.modArr e.1 e.2 (fun a => { a with due := true })) s
      if due = [] then (s, some (stOk, zeros 4 ++ le 4 m.toNat))
      else (s.modImg c.vi (fun i => { i with refresh := i.refresh ++ [⟨c.entry, m, due, due.length⟩] }), none)

def execImgRefresh (p : Packet) (s : State) : Host.Outcome State Fault Refusal := .next (s.takeAs 0x0304 p noStatic effImgRefresh)

/-! ### Records that arrive (R197, R201, R204) -/

/-- The trits of a row of an array's record, read back from its cells (R204). -/
def readBack (p : Profile) (c : Nat) (cells : List Int) : List Int :=
  (List.range c).flatMap (fun j => (p.columns j).map (fun cols => cells.getD (cols.headD 0) 0)) ++
    (List.range 12).map (fun m => cells.getD (1024 + m) 0)

/-- R204: the rows of a retiring array as its cells are verify-read, and the first that breaks R48. The reading of a pair is a
free value. Log entry 122 (DESIGN CHOICE). -/
def copyRows (draws : Nat) (a : Arr) (i : ArrayIdx) : List (List Int) × Option Nat :=
  let rows := (List.range i.rows).map (fun r =>
    let c := tgetD a.cells r []
    ((List.range c.length).zip c).map (fun e => ((Config.verifyTrit draws r e.1 e.2).val : Int) - 1))
  (rows, match profileOf i.fmt i.profile with
    | none => some 0
    | some p => (List.range i.rows).find? (fun r => !rowChecks p i.channels i.eg (readBack p i.channels (rows.getD r []))))

/-- R204: the record of a spare fill cannot be had: the retiring array is copied, or the retirement waits.
Log entry 122 (DESIGN CHOICE). -/
def State.copyRetiring (s : State) (v y spare old : Nat) (i : ArrayIdx) : State :=
  let c := copyRows s.draws ((s.yelm y).arr old) i
  let s := { s with draws := s.draws + 1 }
  match c.2 with
  | some row =>
    let s := (s.modArr y spare (fun r => { r with st := .spare, prog := none })).waitRetire y old false
    s.report { recOf 0x0105 1 v s.now with yelm := y, array := old, unit := i.unit, die := dieOfYelm y, detail := le 2 row }
  | none =>
    let s := s.modArr y spare (fun r => { r with prog := r.prog.map (fun g => { g with loaded := true, rows := c.1 }) })
    s.modArr y old (fun r => { r with retire := r.retire.map (fun t => { t with sourceCopy := true }) })

/-- An array's record arrives, or its source cannot be read (R197, R204, R469, R470). -/
def State.recordArrives (s : State) (v y a : Nat) (data : Option (List Byte)) : State :=
  match (s.yelm y).arr a |>.prog, s.vi? v with
  | some g, some x =>
    if g.loaded then s
    else
      match x.fillFrom.bind (fun f => f.1.idxOf g.logical) with
      | none => s
      | some i =>
        let rows := data.bind (fun d => if digest24 d = i.digest then
            (profileOf i.fmt i.profile).bind (fun p => (recordRows i p d).map (fun rs =>
              ((List.range rs.length).zip rs).map (fun e => expandRow p i.channels e.1 e.2)))
          else none)
        match rows, g.job with
        | some rs, _ => s.modArr y a (fun r => { r with prog := some { g with loaded := true, rows := rs } })
        | none, .spareFill _ old => s.copyRetiring v y a old i
        | none, _ =>
          let st := if data.isSome then stBadLength else stNoObject
          match x.img.op with
          | none => s
          | some o =>
            if o.kind = .load then s.failLoad v x st
            else if o.phase = .restore then s.failBoth v x
            else s.failSwap v x st
  | _, _ => s

/-! ### Retirement (R203–R205, R328, R329) -/

/-- R203, R205: try to retire an array: a spare is chosen and starts to be filled; without one the retirement waits.
Log entry 30 (DEDUCED). -/
def State.startRetire (s : State) (y a : Nat) : State :=
  match s.owner y with
  | none =>
    (s.modArr y a (fun r => r.retired (s.yelmTemp y))).modErr (fun b => { b with retired := bump b.retired })
  | some (v, x, n) =>
    match x.logicalOf n a with
    | none =>
      (s.modArr y a (fun r => r.retired (s.yelmTemp y))).modErr (fun b => { b with retired := bump b.retired })
    | some l =>
      let later : Bool := match x.img.op with
        | none => false
        | some o => o.kind == .swap && o.phase == .barrier &&
            (match o.image.bind (fun im => im.idxOf l) with
             | none => false
             | some i => !o.done.contains i.unit && !o.started.contains i.unit)
      if later then s.modArr y a (fun r => { r with retire := some ⟨none, none, false, false, false⟩ })
      else
        match s.pickSpare x y n l with
        | none => s.noSpare v y a l false
        | some sp =>
          let s := s.modArr y a (fun r => { r with retire := some ⟨some sp, none, false, false, false⟩ })
          if (s.yelm y).bankFree (bankOf sp) then s.startProgram v y sp (.spareFill v a) l else s

/-- R203: a chosen spare whose bank was held starts to be filled when the bank is free. -/
def State.pumpSpares (s : State) : State :=
  s.yelms.foldl (fun s ye => ye.2.arrays.foldl (fun s ar =>
    match ar.2.retire.bind Retire.spare, s.owner ye.1 with
    | some sp, some (v, x, n) =>
      if (ar.2.retire.map Retire.ready) = some false ∧ ((s.yelm ye.1).arr sp).prog.isNone ∧ (s.yelm ye.1).bankFree (bankOf sp) then
        s.startProgram v ye.1 sp (.spareFill v ar.1) ((x.logicalOf n ar.1).getD 0)
      else s
    | _, _ => s) s) s

/-- R328: marks still in force. -/
def marksAt (now : Nat) (ms : List Nat) : List Nat := ms.filter (fun t => decide (now < t + Config.markLifeNs))

/-- R328, R329: an array receives a suspect mark; its third in force begins its retirement. -/
def State.giveMark (s : State) (y a : Nat) : State :=
  let r := (s.yelm y).arr a
  let ms := (marksAt s.now r.marks ++ [s.now])
  let s := s.modArr y a (fun r => { r with marks := ms.take 3 })
  if 3 ≤ ms.length ∧ r.retire.isNone ∧ r.st ≠ .retired then s.startRetire y a else s

/-- R215, R340: a mark with its SUSPECT_MARK record. -/
def State.suspect (s : State) (y a reason row : Nat) : State :=
  let own := s.owner y
  let s := s.giveMark y a
  s.report { recOf 0x0103 3 ((own.map Prod.fst).getD 0xFFFF) s.now with
    yelm := y, array := a, die := dieOfYelm y, unit := (((s.yelm y).arr a).idx.map ArrayIdx.unit).getD 0xFFFF,
    detail := le 1 reason ++ le 1 ((s.yelm y).arr a).marks.length ++ le 2 row }

/-- SPARE_SWITCH (R203): between two layer operations of the yelm. -/
def execSpareSwitch (ts yelm array : Nat) (s0 : State) : Host.Outcome State Fault Refusal :=
  let s := s0.upto ts
  .next (match ((s.yelm yelm).arr array).retire, s.owner yelm with
    | some t, some (v, x, n) =>
      let midway := s.waves.any (fun w => w.2.ops.any (fun o => o.1 % 4096 == yelm && !(o.2.bands.isEmpty && o.2.running.isEmpty)))
      match t.spare, x.logicalOf n array with
      | some sp, some l =>
        if !t.ready ∨ midway then s
        else
          let mine := ((s.yelm yelm).arr array).prog.map Prog.job == some (.program v)
          let s := if mine then s.modOp v (fun o => { o with programmed := o.programmed + 1 }) else s
          (s.retireTo v yelm n array sp l t.sourceCopy).imgPump v
      | _, _ => s
    | _, _ => s)

/-- R201, R205: an array whose row failed, and whose record is still to be programmed: on a spare if the yelm has one by now. -/
def State.retryFailed (s : State) (y a : Nat) : State :=
  match s.owner y with
  | none => s
  | some (v, x, n) =>
    match x.logicalOf n a with
    | none => s.startRetire y a
    | some l =>
      if !((x.img.op.map ImgOp.todo).getD []).contains (n, l % 1024) then s.startRetire y a
      else match s.pickSpare x y n l with
        | none => s.noSpare v y a l true
        | some sp => (s.retireTo v y n a sp l false).imgPump v

/-- RETIRE_RETRY (R204, R205): 1,024 beats later. -/
def execRetireRetry (ts yelm array : Nat) (s0 : State) : Host.Outcome State Fault Refusal :=
  let s := s0.upto ts
  .next (match ((s.yelm yelm).arr array).retire with
    | none => s
    | some t => if t.retry ≠ some 0 then s else if t.failed then s.retryFailed yelm array else s.startRetire yelm array)

/-- SUSPECT_MARK_EXPIRY (R328). -/
def execSuspectMarkExpiry (ts yelm array : Nat) (s0 : State) : Host.Outcome State Fault Refusal :=
  let s := s0.upto ts
  .next (s.modArr yelm array (fun r => { r with marks := marksAt s.now r.marks }))

/-! ### Rows, arrays, erases, units, slices -/

/-- R194, R50: what a row of an array in programming is to hold. -/
def Prog.target (g : Prog) (i : Nat) : List Int :=
  match g.rows[i]? with
  | some r => r
  | none => List.replicate 1036 (0 : Int) ++ monitorRow i

/-- R201, R205: a row fails: the array is retired before any later row is written, and its record is programmed on a spare,
which starts when its bank is free; where the yelm has none, the retirement waits and nothing more is written to the array. Log
entry 30 (DEDUCED). -/
def State.rowFails (s : State) (v n y a : Nat) (g : Prog) (attempts : Nat) : State :=
  let s := s.report { recOf 0x0107 0 v s.now with
    yelm := y, array := a, unit := s.unitOf v g.logical, die := dieOfYelm y, detail := le 2 g.row ++ le 1 attempts }
  match g.job with
  | .spareFill _ old =>
    ((s.modArr y a (fun r => r.retired (s.yelmTemp y))).modErr (fun b => { b with retired := bump b.retired })).startRetire y old
  | _ =>
    let s := (s.dropRecords v (fun y' a' => y' == y && a' == a)).modOp v (fun o => { o with todo := o.todo ++ [(n, g.logical % 1024)] })
    match (s.vi? v).bind (fun x => s.pickSpare x y n g.logical) with
    | none => ((s.modArr y a (fun r => { r with st := .spare, prog := none })).noSpare v y a g.logical true).imgPump v
    | some sp => (s.retireTo v y n a sp g.logical false).imgPump v

/-- ROW_PROGRAM (R201, R202): within 24 attempts every cell of the row lies in its window, or after the 24th the row has failed.
Log entry 27 (DESIGN CHOICE). -/
def execRowProgram (ts yelm array attempts : Nat) (ok : Bool) (s0 : State) : Host.Outcome State Fault Refusal :=
  let s := s0.upto ts
  .next (match ((s.yelm yelm).arr array).prog, s.owner yelm with
    | some g, some (v, _, n) =>
      let waits := s.pulsesOff || (s.yelm yelm).resetting
      if !g.erased ∨ !g.loaded ∨ 1024 ≤ g.row ∨ waits ∨ attempts = 0 ∨ 24 < attempts ∨ (!ok ∧ attempts ≠ 24) then s
      else
        match g.job with
        | .program _ | .spareFill _ _ =>
          if ok then s.modArr yelm array (fun r =>
            { r with cells := tset r.cells g.row (g.target g.row), prog := some { g with row := g.row + 1 } })
          else s.rowFails v n yelm array g attempts
        | _ => s
    | _, _ => s)

/-- ARRAY_PROGRAMMED (R202, R65): its monitor state is seeded and its bank free. -/
def State.arrayProgrammed (s : State) (yelm array : Nat) : State :=
  match ((s.yelm yelm).arr array).prog with
  | none => s
  | some g =>
    if g.row < 1024 then s
    else
      let v := match g.job with
        | .program v => v
        | .spareFill v _ => v
        | .erase v => v
        | .refresh v => v
      let i := ((s.vi? v).bind Vi.fillFrom).bind (fun f => f.1.idxOf g.logical)
      let s := s.modArr yelm array (fun r =>
        { seedArr (s.yelmTemp yelm) r with
          st := .idle, prog := none, idx := i, alpha := fOne, v := 0, pg := 0, h := 0, due := false, slice := 0 })
      match g.job with
      | .spareFill _ old => (s.modArr yelm old (fun r => { r with retire := r.retire.map (fun t => { t with ready := true }) })).imgPump v
      | _ => ((s.notRefreshed v yelm array).modOp v (fun o => { o with programmed := o.programmed + 1 })).imgPump v

/-- ARRAY_ERASE_DONE (R202, R212). -/
def State.arrayEraseDone (s : State) (yelm array : Nat) : State :=
  match ((s.yelm yelm).arr array).prog with
  | none => s
  | some g =>
    if g.erased then s
    else
      match g.job with
      | .erase v =>
        let s := s.modArr yelm array (fun r =>
          { seedArr (s.yelmTemp yelm) r with st := .spare, cells := [], prog := none, idx := none, retire := none })
        ((s.notRefreshed v yelm array).modOp v (fun o => { o with erased := o.erased + 1 })).imgPump v
      | _ => s.modArr yelm array (fun r =>
          { seedArr (s.yelmTemp yelm) r with cells := [], prog := some { g with erased := true } })

/-- SWAP_UNIT_START (R209). -/
def execSwapUnitStart (ts vi unit : Nat) (s0 : State) : Host.Outcome State Fault Refusal :=
  let s := s0.upto ts
  .next (match s.vi? vi with
    | none => s
    | some x =>
      match x.img.op, x.img.image with
      | some o, some old =>
        match o.image with
        | none => s
        | some new =>
          if o.kind ≠ .swap ∨ o.phase ≠ .barrier ∨ new.units.length ≤ unit ∨ o.done.contains unit ∨ o.started.contains unit ∨
              !s.mayStart vi old new o unit then s
          else
            let todo := (new.arrays.filter (fun a => a.unit == unit)).map (fun a => (a.yelm, a.array))
            let gone := (old.arrays.filter (fun a => a.unit == unit && !todo.contains (a.yelm, a.array))).map (fun a =>
              ((physYelm vi x.part a.yelm).getD 0, x.physArr a.yelm a.array))
            let s := s.modImg vi (fun m => { m with units := tdel m.units unit })
            (s.modOp vi (fun o =>
              { o with started := o.started ++ [unit], todo := o.todo ++ todo, toErase := o.toErase ++ gone })).imgPump vi
      | _, _ => s)

/-- R214: an array is refreshed: request after request it is counted, and a request whose last it was completes (R213). -/
def State.refreshed (s : State) (v y a : Nat) : State :=
  match s.vi? v with
  | none => s
  | some x =>
    let rs := x.img.refresh.map (fun r => { r with left := r.left.erase (y, a) })
    let s := s.modImg v (fun m => { m with refresh := rs.filter (fun r => r.left != []) })
    (rs.filter (fun r => r.left == [])).foldl (fun s r => s.outcome v r.entry stOk (le 4 r.count ++ le 4 r.margin.toNat)) s

/-- REFRESH_SLICE_END (R214, R215): `bad` are the rows that did not return to their windows. -/
def State.refreshSliceEnd (s : State) (yelm array : Nat) (bad : List Nat) : State :=
  match ((s.yelm yelm).arr array).prog with
  | none => s
  | some g =>
    match g.job with
    | .refresh v =>
      let n := ((s.yelm yelm).arr array).slice + 1
      let rows := (List.range 8).map (fun i => (n - 1) * 8 + i)
      let s := s.modArr yelm array (fun r => { r with st := .idle, prog := none, slice := n })
      let s := (rows.filter bad.contains).foldl (fun s row => s.suspect yelm array 0 row) s
      if n < 128 then s.imgPump v
      else
        let s := s.modArr yelm array (fun r =>
          { seedArr (s.yelmTemp yelm) r with alpha := fOne, v := 0, pg := 0, h := 0, due := false, slice := 0, marks := [] })
        (s.refreshed v yelm array).imgPump v
    | _ => s

/-! ### Boundary actions on images (R207, R210, R212, R214, R470) -/

/-- R214: the yelm of a course that may start slices: the one in mid-refresh, else the lowest with a due array. -/
def State.refreshYelm (s : State) (course : Nat) : Option Nat :=
  let ys := (List.range 16).map (fun i => 16 * course + i)
  let due := ys.filter (fun y => (s.yelm y).arrays.any (fun a => a.2.due && a.2.st == .idle))
  if ys.any (fun y => (s.yelm y).arrays.any (fun a => match a.2.prog.map Prog.job with
      | some (.refresh _) => true
      | _ => false)) then none
  else match due.find? (fun y => (s.yelm y).arrays.any (fun a => a.2.due && decide (0 < a.2.slice))) with
    | some y => some y
    | none => due.head?

/-- R211: during a swap the arrays of a unit that is not yet programmed are not refreshed; the others are, and all of them
during the check pass; where the old image comes back (R470), all but those still to be programmed. -/
def ImgOp.allowsRefresh (o : ImgOp) (old : Option Image) (l : Nat) : Bool :=
  let unit := fun (im : Option Image) => (im.bind (fun im => im.idxOf l)).map ArrayIdx.unit
  o.kind == .swap && (o.phase == .check ||
    (match unit o.image, unit old with
     | some u, _ => o.done.contains u
     | none, some u => o.done.contains u || (o.phase == .restore && !o.started.contains u) || (o.phase == .lift && o.status != 0)
     | none, none => false))

/-- R211, R214: an array whose refresh may start now. -/
def State.mayRefresh (s : State) (y a : Nat) (r : Arr) : Bool :=
  r.due && r.st == .idle && (s.yelm y).bankFree (bankOf a) && !(s.yelm y).resetting &&
    (match s.owner y with
     | none => false
     | some (_, x, n) => match x.img.op, x.logicalOf n a with
       | some o, some l => o.allowsRefresh x.img.image l
       | none, some _ => true
       | _, none => false)

/-- R214: start a slice on up to two due arrays of different banks. -/
def State.startSlices (s : State) (y : Nat) : State :=
  ((List.range 2).foldl (fun s _ =>
    match (s.yelm y).arrays.find? (fun a => s.mayRefresh y a.1 a.2), s.owner y with
    | some (a, _), some (v, _, _) => s.modArr y a (fun r =>
        { r with st := .busy, prog := some ⟨.refresh v, 0, true, true, [], r.slice * 8⟩ })
    | _, _ => s) s)

/-- R213, R52: arrays whose level margin has fallen below 0.38 become due. -/
def State.markDue (s : State) : State :=
  { s with yelms := tmapv s.yelms (fun _ y => { y with arrays := tmapv y.arrays (fun _ a =>
      if a.idx.isSome ∧ fLt a.margin 0x3EC28F5C#32 then { a with due := true } else a) }) }

/-- R307: refresh slices of all courses. -/
def State.refreshBoundary (s : State) : State :=
  let cs := distinct (s.yelms.map (fun e => e.1 / 16))
  cs.foldl (fun s c => match s.refreshYelm c with
    | some y => s.startSlices y
    | none => s) s.markDue

/-- R207, R210, R212: barriers rise and lift. -/
def State.barrierBoundary (s : State) (v : Nat) : State :=
  match s.vi? v with
  | none => s
  | some x =>
    match x.img.op with
    | none => s
    | some o =>
      match o.phase with
      | .raise => (s.modOp v (fun o => { o with phase := .barrier, raised := if o.kept then o.raised else s.now })).imgPump v
      | .lift => if s.viInFlight v = 0 ∨ o.status ≠ 0 then s.finishSwap v x o else s
      | _ => s.imgPump v

/-- R204: retirements that wait count their beats. -/
def State.retireBoundary (s : State) : State :=
  let down := fun (t : Retire) => { t with retry := t.retry.map (· - 1) }
  let s := { s with yelms := tmapv s.yelms (fun _ y =>
    { y with arrays := tmapv y.arrays (fun _ a => { a with retire := a.retire.map down }) }) }
  s.pumpSpares

end Sys2Proof.Machine
end

