-- ==== Sys2Proof/Machine/Reads.lean ====
section
/-! DEFINITION. Forward band reads on the yelms (chapters 03 and 04): which array starts (R38, R120), the operand check and
restarts (R321, R325), trit cycles with conversion and monitor correction (R36–R47, R62–R70), and the end of a band read:
confidence check, repeats, hard misses, accumulation and scales (R49–R56, R71–R75, R228, R229, R323, R324). -/
namespace Sys2Proof.Machine

/-! ### Limits and the choice of arrays (R38, R88, R120, R408) -/

/-- R408, R411: LIT_LIMIT of a yelm. Log entry 58 (DEDUCED). -/
def State.litLimit (s : State) (y : Nat) : Nat :=
  if s.pulsesOff then 0 else min (min s.pwr.govLit (s.groupLit (y / 256))) s.pwr.brakeLit

/-- Whether a wave has begun its layer operation on a yelm (R87). -/
def Wave.begun (w : Wave) (y : Nat) : Bool := w.ops.any (fun o => o.1 % 4096 == y && !(o.2.parts.isEmpty && o.2.running.isEmpty))

/-- Whether a wave still has band reads to make on a yelm. -/
def Wave.reading (w : Wave) (y : Nat) : Bool := w.ops.any (fun o => o.1 % 4096 == y && !(o.2.bands.isEmpty && o.2.running.isEmpty))

/-- R87: a layer operation runs on a yelm. -/
def State.yelmActive (s : State) (y : Nat) : Bool := s.waves.any (fun w => w.2.begun y && w.2.reading y)

/-- The physical array of a place of a wave's projection. -/
def Wave.placeArray (x : Vi) (p : Proj) (place : Nat) : Nat :=
  let pl := p.places.getD place ⟨0, 0, 0, 0, 0, 0⟩
  x.physArr pl.yelm pl.array

/-- R109: the next band read of an array: the first wave in order of closing that has one, its lowest slot, its first band. -/
def State.nextBand (s : State) (y a : Nat) : Option (Nat × Nat × Nat × Nat) :=
  let tiles := !(s.yelm y).tiles.isEmpty
  s.waves.findSome? (fun w =>
    if tiles && !w.2.begun y then none
    else
      match s.vi? w.2.vi, s.imageOf w.2.vi with
      | some x, some im =>
        let p := projAt im w.2.proj
        (w.2.ops.filter (fun o => o.1 % 4096 == y)).findSome? (fun o =>
          (o.2.bands.find? (fun b => Wave.placeArray x p b.1 == a)).map (fun b => (w.1, o.1 / 4096, b.1, b.2)))
      | _, _ => none)

/-- R120 items 2 to 4: whether the next band read of one array goes before another's. -/
def State.lightLt (s : State) (a b : Nat × Nat) : Bool :=
  let wa := tget s.waves a.2
  let wb := tget s.waves b.2
  let da := (wa.map Wave.decode).getD false
  let db := (wb.map Wave.decode).getD false
  let ca := (wa.map Wave.closed).getD 0
  let cb := (wb.map Wave.closed).getD 0
  if da ≠ db then da else if ca ≠ cb then decide (ca < cb) else decide (a.1 < b.1)

/-- R38: take arrays in order while there is room, no two of a bank. -/
def pickBanks : List Nat → Nat → List Nat → List Nat
  | _, 0, _ => []
  | _, _, [] => []
  | used, n + 1, a :: as => if used.contains (bankOf a) then pickBanks used (n + 1) as
      else a :: pickBanks (bankOf a :: used) n as

/-- R42: every plane of a read has been integrated and the last converts next. -/
def Read.leaving (r : Read) : Bool := r.todo.isEmpty && r.held.isSome

/-- R42: an array whose read leaves may integrate the first plane of its next one. -/
def Yelm.overlaps (ye : Yelm) (a : Nat) : Bool := (tget ye.reads a).any Read.leaving && !thas ye.reads (a + 1024)

/-- R38: the arrays of a yelm that are lit. -/
def Yelm.litArrays (ye : Yelm) : Nat := ((ye.reads.map (fun r => r.1 % 1024)).eraseDups).length

/-- R42, R120: the arrays of a yelm that may start their next band read now: lit ones whose read leaves, while the limit lets them
stay lit, and idle ones as far as it has room. -/
def State.mayLight (s : State) (y : Nat) : List Nat :=
  let ye := s.yelm y
  let next := (ye.arrays.filter (fun e => e.2.st == .lit && ye.overlaps e.1 && (s.nextBand y e.1).isSome)).map Prod.fst
  let ready := ye.arrays.filterMap (fun e =>
    if e.2.st == .idle && ye.bankFree (bankOf e.1) then (s.nextBand y e.1).map (fun b => (e.1, b.1)) else none)
  if s.pwr.state > 1 ∨ ye.cal = 2 ∨ ye.resetting then []
  else (if ye.litArrays ≤ s.litLimit y then next else []) ++
    pickBanks [] (s.litLimit y - ye.litArrays) ((sortBy s.lightLt ready).map Prod.fst)

/-! ### Planes (R21, R40, R46, R47) -/

/-- The driven trits of a plane or of a half of it: array row and trit. -/
def drivenRows (q : List Int) (n row0 band p half : Nat) : List (Nat × Int) :=
  let t := planeOf q n p
  (List.range band).filterMap (fun i =>
    let inHalf := half == 0 || (half == 1) == decide (2 * i < band)
    if inHalf ∧ t.getD i 0 ≠ 0 then some (row0 + i, t.getD i 0) else none)

/-- R21, R46, R47: the planes of a read from the most significant down; those at or below `halves` in halves; what is all
zero is not driven. Log entry 35 (DEDUCED). -/
def planList (q : List Int) (n row0 band : Nat) (halves : Option Nat) (from_ : Nat) : List (Nat × Nat) :=
  (List.range from_).reverse.flatMap (fun p =>
    let hs := if (halves.map (fun h => decide (p ≤ h))) = some true then [1, 2] else [0]
    (hs.filter (fun h => !(drivenRows q n row0 band p h).isEmpty)).map (fun h => (p, h)))

/-! ### Operand check (R321) and restarts (R325) -/

/-- R321: the inputs of a band, its integers, and the two sums. -/
def operandSums (q : List Int) : Int × Int :=
  (sumInt q, sumInt (((List.range q.length).zip q).map (fun e => ((e.1 % 16 : Nat) + 1 : Int) * e.2)))

/-- R321: whether the operand check passes. Log entry 33 (DEDUCED). -/
def operandOk (x : List Bf16) (sa : Bf16) (q : List Int) (d1 d2 : Int) (crcOk : Bool) : Bool :=
  let sums := operandSums q
  let e := cAdd (cSum (x.map ofBf)) (fNegate (fMul (ofBf sa) (fOfInt sums.1)))
  let nz := (x.filter (fun v => (bVal v).m != 0)).length
  let big := x.foldl (fun acc v => dAdd acc (dAbs (bVal v))) ⟨0, 0⟩
  let bound := dAdd (dMul (bVal sa) ⟨(nz : Nat), -1⟩) (dMul big ⟨1, -20⟩)
  crcOk && d1 == sums.1 && d2 == sums.2 && dLe (dAbs (cVal e)) bound

/-- Error record fields that name a step (R331). -/
def State.ofStep (s : State) (r : Rec) (k : Nat) : Rec :=
  match s.step? k with
  | none => r
  | some t =>
    let e := t.entry.bind (s.entry? t.vi)
    { r with seq := t.seq, queue := (e.map Entry.queue).getD 0xFFFF, psn := (e.map Entry.psn).getD 0, flags := r.flags }

/-- R325: the layer operation of a token starts over on every yelm of its projection; a yelm whose bands are all zero sends
again at once. -/
def State.restartToken (s : State) (im : Image) (x : Vi) (wid slot : Nat) (w : Wave) (t : WaveTok) : State :=
  let p := projAt im w.proj
  let s := { s with yelms := tmapv s.yelms (fun _ y => y.dropReads (fun r => !(r.wave == wid && r.slot == slot))) }
  let outl := (outlierRows im p w.recipe t.x).1
  let s := s.modWave wid (fun w =>
    { w with
      toks := tmod w.toks slot (fun t => { t with restarts := t.restarts + 1, out := [] })
      ops := tmapv w.ops (fun k o =>
        if k / 4096 = slot then
          let f := (startOp im p w.recipe ((viYelmOf x.part (k % 4096)).getD 0) o.row o.allot t.x [] outl).1
          { f with recv := o.recv, outl := o.outl }
        else o) })
  (w.ops.filter (fun o => o.1 / 4096 == slot)).foldl (fun s o => s.opDone im wid slot (o.1 % 4096)) s

/-- R325, R326: the operand check has failed. -/
def State.operandFails (s : State) (im : Image) (x : Vi) (wid slot y a row0 : Nat) (w : Wave) (t : WaveTok) : State :=
  let third := decide (2 ≤ t.restarts)
  let s := s.report (s.ofStep { recOf 0x0201 (if third then 1 else 0) w.vi s.now with
    yelm := y, array := a, unit := (projAt im w.proj).unit, die := dieOfYelm y,
    detail := le 1 (t.restarts + 1) ++ le 2 row0 } t.step)
  if third then s.rerunStep t.step 0x0201 ((s.step? t.step).map Step.group |>.getD 0) false
  else (s.restartToken im x wid slot w t).modErr (fun b => { b with operandRestarts := bump b.operandRestarts })

/-- R20, R24: what a band drives for a token: its values, their scale, and the integers. -/
def bandOperands (im : Image) (w : Wave) (t : WaveTok) (place row0 : Nat) : List Bf16 × Bf16 × List Int :=
  let p := projAt im w.proj
  let n := w.recipe.actTrits
  let xs := bandInputs p (p.places.getD place ⟨0, 0, 0, 0, 0, 0⟩) row0 (bandOf w.recipe p) t.x (outlierRows im p w.recipe t.x).1
  let sa := bandScale xs n
  (xs, sa, xs.map (fun v => quantAct v sa n))

/-- R40: a band read before its first plane. -/
def Read.begin (im : Image) (w : Wave) (t : WaveTok) (wid slot place row0 : Nat) : Read :=
  let o := bandOperands im w t place row0
  let band := bandOf w.recipe (projAt im w.proj)
  { wave := wid, slot := slot, place := place, row0 := row0, band := band, recipe := w.recipe, sa := o.2.1, q := o.2.2,
    todo := planList o.2.2 w.recipe.actTrits row0 band none w.recipe.actTrits, held := none, halves := none, got := [], sums := [],
    reads := 0, reruns := 0, ovrRepeats := 0, clamped := false, pinned := false, adds := false, hold := [], trims := [],
    latched := false, missed := none }

/-- R42: a new read of an array; the one before it, whose last plane converts, gives way. -/
def Yelm.startRead (ye : Yelm) (a : Nat) (r : Read) : Yelm :=
  let before := match tget ye.reads a with
    | none => ye.reads
    | some o => tset ye.reads (a + 1024) o
  { ye.modArr a (fun b => { b with st := .lit }) with
    reads := tset before a { r with
      adds := ye.accHold, hold := if ye.accHold then tgetD ye.acc (bankOf a) [] else [], trims := ye.trims, latched := true } }

/-- BAND_READ_START (R43, R71, R120, R321). Log entry 33 (DEDUCED). -/
def execBandReadStart (ts yelm array : Nat) (d1 d2 : Int) (crcOk : Bool) (s0 : State) : Host.Outcome State Fault Refusal :=
  let s := s0.upto ts
  .next (if !(s.mayLight yelm).contains array then s
    else
      match s.nextBand yelm array with
      | none => s
      | some (wid, slot, place, row0) =>
        match tget s.waves wid with
        | none => s
        | some w =>
          match tget w.toks slot, s.vi? w.vi, s.imageOf w.vi with
          | some t, some x, some im =>
            let o := bandOperands im w t place row0
            if !operandOk o.1 o.2.1 o.2.2 d1 d2 crcOk then s.operandFails im x wid slot yelm array row0 w t
            else
              let s := s.modWave wid (fun w => { w with ops := tmod w.ops (slot * 4096 + yelm) (fun o =>
                { o with bands := o.bands.erase (place, row0), running := o.running ++ [(place, row0)] }) })
              s.modYelm yelm (fun ye => ye.startRead array (Read.begin im w t wid slot place row0))
          | _, _, _ => s)

/-! ### Conversion and correction (R36, R45, R62–R70) -/

/-- R36: the exact count of a column over driven rows. Log entry 27 (DESIGN CHOICE). -/
def columnCount (cells : Tbl (List Int)) (rows : List (Nat × Int)) (col : Nat) : Int :=
  sumInt (rows.map (fun r => r.2 * (tgetD cells r.1 []).getD col 0))

/-- R45: the converter's word for a charge in units of 2^-20 rows: code and over-range, at gain G = gq / 4. -/
def convert (charge : Int) (gq : Nat) : Int × Bool :=
  let x := quotRoundAway (dOfInt (4 * charge)) (dOfInt (2 ^ 20 * (gq : Int)))
  if x > 255 then (255, true) else if x < -255 then (-255, true) else (x, false)

/-- R62, R63: the trimmed code of a column × 64. Log entry 34 (DESIGN CHOICE). -/
def trimmed (trims : Trims) (bank col : Nat) (code : Int) : Int := 64 * code - (tgetD trims (bank * 1040 + col) (0, 0)).2

/-- × 64 fixed point as FP32. -/
def fix64 (v : Int) : F32 := fOfRatio v 64

/-- R51: κ(T). -/
def kappa (temp : Rat) : Rat := max (3 / 4) (1 + mkRat 625 100000 * (temp - 40))

/-- R51: σ_row² for a gain gq / 4, an age factor and a number of conducting rows. -/
def sigmaRow2 (k : Rat) (gq : Nat) (alpha : F32) (n : Rat) : Rat :=
  let g : Rat := mkRat gq 4
  k * k * (g * g * mkRat 64 10000 + fRat alpha * fRat alpha * (mkRat 78 10000 * mkRat 78 10000) * n)

/-- Sums of the driven trits by row mod 4, and how many rows there are. -/
def trits4 (rows : List (Nat × Int)) (m : Nat) : Int × Nat :=
  let mine := rows.filter (fun r => r.1 % 4 == m)
  (sumInt (mine.map Prod.snd), mine.length)

/-- What one plane's monitor columns do to an array's state, and what the correction uses (R64–R69). -/
structure MonStep where
  arr : Arr
  gbar : F32
  off : F32
  limited : Bool
  before : F32
  mismatch : Bool
  imbalance : Bool
deriving DecidableEq, Repr

def signF (e : Int) (x : F32) : F32 := if e < 0 then fNegate x else x

/-- R64, R66, R68, R69: one plane: trimmed codes × 64 of the monitor columns, driven rows, gain, whether M2 over-ranged. A gain
limit counts whether CORR_BYPASS is set or not. Log entry 115 (DESIGN CHOICE). -/
def monitorPlane (temp : Rat) (bypass : Bool) (gq : Nat) (rows : List (Nat × Int)) (m : List Int) (m2ovr : Bool) (a : Arr) : MonStep :=
  let g := fOfRatio gq 4
  let e0 := (trits4 rows 0).1
  let e1 := -(trits4 rows 2).1
  let mv := fun i => fix64 (m.getD i 0)
  let o := fAdd a.o (fDiv (fSub (mv 3) a.o) 0x42000000#32)
  let lam : F32 := 0x3F7C0000#32
  let num := fun (old : F32) (e : Int) (v : F32) => if e = 0 then fMul lam old else fAdd (fMul lam old) (signF e (fSub v o))
  let den := fun (old : F32) (e : Int) => if e = 0 then fMul lam old else fAdd (fMul lam old) (fDiv (fOfInt e.natAbs) g)
  let npos := num a.npos e0 (mv 0)
  let dpos := den a.dpos e0
  let nneg := num a.nneg e1 (mv 1)
  let dneg := den a.dneg e1
  let gp := fDiv npos dpos
  let gn := fDiv nneg dneg
  let gb := fMul fHalf (fAdd gp gn)
  let lim := fMax fHalf (fMin gb 0x3FA00000#32)
  let s1 := trits4 rows 1
  let s3 := trits4 rows 3
  let p2 := fAdd (fDiv (fSub (fMul gp (fOfInt s1.1)) (fMul gn (fOfInt s3.1))) g) o
  let d2 := fRat (fSub (mv 2) p2)
  let gr : Rat := mkRat gq 4
  let sig := sigmaRow2 (kappa temp) gq a.alpha ((s1.2 + s3.2 : Nat) : Rat)
  let v0 := fRat (fSub (fMul g (fSub (mv 0) o)) (fMul gp (fOfInt e0)))
  let v1 := fRat (fSub (fMul g (fSub (mv 1) o)) (fMul gn (fOfInt e1)))
  let seen := e0 ≠ 0 ∨ e1 ≠ 0
  { arr := { a with
      o := o, npos := npos, dpos := dpos, nneg := nneg, dneg := dneg,
      v := if seen then a.v + v0 * v0 + v1 * v1 else a.v, pg := if seen then a.pg + 2 * gr * gr else a.pg,
      h := if seen then a.h + (trits4 rows 0).2 + (trits4 rows 2).2 else a.h },
    gbar := if bypass then fOne else lim, off := if bypass then 0 else o, limited := lim != gb, before := gb,
    mismatch := !m2ovr && decide (d2 * d2 * gr * gr > 64 * sig),
    imbalance := fLt (fMul 0x3CA3D70A#32 gb) (fAbs (fSub gp gn)) }

/-- R67: a corrected reading × 64. -/
def corrected (ct64 : Int) (o gbar : F32) : Int :=
  dRoundAway (fVal (fDiv (fMul 0x42800000#32 (fSub (fix64 ct64) o)) gbar))

/-- R46, R70: put a plane's readings, or a half's, to those of its read. -/
def addReadings (got : List (Nat × List Int × List Bool)) (p : Nat) (v : List Int) (o : List Bool) : List (Nat × List Int × List Bool) :=
  if got.any (fun g => g.1 == p) then
    got.map (fun g => if g.1 = p then (p, (g.2.1.zip v).map (fun e => e.1 + e.2), (g.2.2.zip o).map (fun e => e.1 || e.2)) else g)
  else got ++ [(p, v, o)]

/-- R66, R68: the events of a plane, counted in the yelm's window. -/
def monEvents (ye : Yelm) (m : MonStep) : Yelm :=
  let c := addAt (addAt (addAt ye.counts 1 (b2n m.mismatch)) 2 (b2n m.limited)) 3 (b2n m.imbalance)
  { ye with counts := c, seen := ye.seen ||| ((if m.mismatch then 2 else 0) ||| (if m.limited then 4 else 0)) }

/-- R55: trit cycles that a repeat takes beyond those charged when it began: a split of it loses the plane integrated behind the
over-ranged one and reads the rest in halves. Log entry 35 (DEDUCED). -/
def State.chargeSplit (s : State) (y : Nat) (r : Read) (todo : List (Nat × Nat)) : State :=
  if r.reads = 0 ∨ 0 < r.reruns then s
  else
    let lost := if s.pulsesOff then 0 else min 1 r.todo.length
    s.modWave r.wave (fun w => { w with ops := tmod w.ops (r.slot * 4096 + y) (fun o =>
      { o with allot := o.allot - (todo.length + lost - r.todo.length) }) })

/-- R45–R47, R63–R70: the held plane of a read converts. Log entry 35 (DEDUCED). -/
def State.convertHeld (s : State) (y a : Nat) (r : Read) (p half : Nat) (charges : List Int) : State × Read :=
  let ye := s.yelm y
  let arr := ye.arr a
  let gq := gainQ r.band
  let n := r.recipe.actTrits
  let words := charges.map (fun c => convert c gq)
  let ct := ((List.range words.length).zip words).map (fun e => trimmed r.trims (bankOf a) e.1 e.2.1)
  let flags := words.map Prod.snd
  let rows := drivenRows r.q n r.row0 r.band p half
  let m := monitorPlane (s.yelmTemp y) ye.corrBypass gq rows (ct.drop 1036) (flags.getD 1038 false) arr
  let s := s.modYelm y (fun ye => (monEvents ye m).setArr a m.arr)
  let s := if m.limited then s.report { recOf 0x0102 3 (((s.owner y).map Prod.fst).getD 0xFFFF) s.now with
    yelm := y, array := a, die := dieOfYelm y, detail := le 4 m.before.toNat,
    unit := ((tget s.waves r.wave).bind (fun w => (s.imageOf w.vi).map (fun im => (projAt im w.proj).unit))).getD 0xFFFF } else s
  let any := flags.any id
  let split := any && r.recipe.ovrMode == 1 && half == 0
  if split then
    let todo := planList r.q n r.row0 r.band (some p) (p + 1)
    (s.chargeSplit y r todo, { r with pinned := true, halves := some p, held := none, todo := todo })
  else
    (s, { r with pinned := r.pinned || any, clamped := r.clamped || any, held := none,
                 got := addReadings r.got p (ct.map (fun c => corrected c m.off m.gbar)) flags })

/-- R36, R42, R43: the next plane of a read integrates: the charge of every column is a free value of its exact count; with the
first plane of a repeat the trims are latched. Log entry 34 (DESIGN CHOICE), 35 (DEDUCED). -/
def State.integrate (s : State) (y a : Nat) (r : Read) : State × Read :=
  match r.todo with
  | [] => (s, r)
  | (p, half) :: rest =>
    let rows := drivenRows r.q r.recipe.actTrits r.row0 r.band p half
    let cells := ((s.yelm y).arr a).cells
    let charges := (List.range 1040).map (fun col => Config.charge (s.draws + col) (columnCount cells rows col * 2 ^ 20))
    ({ s with draws := s.draws + 1040 }, { r with
      todo := rest, held := some (p, half, charges), trims := if r.latched then r.trims else (s.yelm y).trims, latched := true })

/-- One trit cycle of one read, by its key: the held plane converts while the next integrates; a plane integrated behind one
that a split discards is lost with it (R46). A read that follows another on its array waits while that one still drives it
(R120). Log entry 35 (DEDUCED). -/
def State.cycleRead (s : State) (y k : Nat) : State :=
  let a := k % 1024
  match tget (s.yelm y).reads k with
  | none => s
  | some r =>
    let r0 := match r.held with
      | some (p, half, ch) => s.convertHeld y a r p half ch
      | none => (s, r)
    let wasted := r0.2.halves != r.halves
    let driven := decide (k < 1024) && (tget (s.yelm y).reads (k + 1024)).any (fun o => o.held.isSome)
    let r1 := if s.pulsesOff ∨ wasted ∨ driven then r0 else r0.1.integrate y a r0.2
    r1.1.modYelm y (fun ye => { ye with reads := tset ye.reads k r1.2 })

/-- TRIT_CYCLE (R42, R44): every read in progress on the yelm goes on by a cycle, on one array the older first. -/
def execTritCycle (ts yelm : Nat) (s0 : State) : Host.Outcome State Fault Refusal :=
  let s := s0.upto ts
  .next (
    let as := (tkeys (s.yelm yelm).reads).reverse
    let lit := ((((s.yelm yelm).reads.filter (fun r => !r.2.todo.isEmpty)).map (fun r => r.1 % 1024)).eraseDups).length
    let s := as.foldl (fun s a => s.cycleRead yelm a) s
    if as = [] then s else s.modYelm yelm (fun ye => { ye with litNow := if s.pulsesOff then 0 else lit }))

/-! ### Confidence (R49, R53, R54) -/

/-- A residual: group, plane, eps² and σ_ε² in rows², eps signed. -/
structure Residual where
  group : Nat
  plane : Nat
  eps : Rat
  sigma2 : Rat
deriving DecidableEq, Repr

/-- The readings of all reads, per plane (R55). -/
def Read.total (r : Read) : List (Nat × List Int × List Bool) :=
  r.got.foldl (fun acc g => addReadings acc g.1 g.2.1 g.2.2) r.sums

/-- R49, R53: the residuals of a band read over its planes and groups; groups with an over-ranged column left out (R54). -/
def residuals (temp : Rat) (i : ArrayIdx) (p : Profile) (alpha : F32) (r : Read) (reads : Nat) : List Residual :=
  let gq := gainQ r.band
  let g : Rat := mkRat gq 4
  let n := r.recipe.actTrits
  r.total.flatMap (fun pl =>
    let nIn := ((planeOf r.q n pl.1).filter (fun t => t != 0)).length
    let sr := sigmaRow2 (kappa temp) gq alpha (fRat i.rhoW * nIn)
    let rd := fun col => (pl.2.1.getD col 0)
    let ov := fun col => pl.2.2.getD col false
    (List.range 4).filterMap (fun gr =>
      let js := (List.range i.channels).filter (fun j => j % 4 == gr)
      let eg := i.eg.getD gr 0
      let cks := (List.range 3).map (fun m => 1024 + 3 * gr + (2 - m))
      let cols := js.flatMap (fun j => (p.columns j).flatten)
      if (cols ++ cks).any ov then none
      else
        let data : Rat := (sumInt (js.flatMap (fun j => ((List.range p.n).zip (p.columns j)).map (fun kc =>
          ((3 ^ (p.n - 1 - kc.1) * lget p.weights kc.1 1 : Nat) : Int) * sumInt (kc.2.map rd)))) : Rat) / (p.lcm : Rat)
        let check : Rat := ((3 ^ eg : Nat) * sumInt (((List.range 3).zip cks).map (fun mc => (3 ^ mc.1 : Nat) * rd mc.2)) : Int)
        let spread : Rat := (js.length : Nat) * (((List.range p.n).map (fun k => mkRat ((9 ^ (p.n - 1 - k) : Nat)) (lget p.copies k 1))).foldl (· + ·) 0) +
          ((91 * 9 ^ eg : Nat) : Rat)
        some ⟨gr, pl.1, g * (data - check) / (64 * (reads : Rat)), sr / (reads : Rat) * spread⟩))

/-- Whether a residual exceeds k times its σ. -/
def Residual.beyond (e : Residual) (k : F32) : Bool := decide (e.eps * e.eps > fRat k * fRat k * e.sigma2)

/-! ### Accumulation and scales (R71–R75) -/

/-- R72: the Horner sum of a channel over planes, × 64. -/
def hornerSum (p : Profile) (total : List (Nat × List Int × List Bool)) (j n : Nat) : Int :=
  (List.range n).reverse.foldl (fun acc pl =>
    let rd := ((total.find? (fun g => g.1 == pl)).map (fun g => g.2.1)).getD []
    let t := ((List.range p.n).zip (p.columns j)).foldl (fun t kc =>
      3 * t + ((lget p.weights kc.1 1 : Nat) : Int) * sumInt (kc.2.map (fun c => rd.getD c 0))) (0 : Int)
    3 * acc + t) 0

/-- R71, R74: the finished accumulators of a band read: under ACC_HOLD what the slot held is added, saturating.
Log entry 114 (DEDUCED). -/
def finishAcc (hold : List Int) (sums : List Int) : List Int × Nat :=
  let r := ((List.range sums.length).zip sums).map (fun e => acc40Add e.2 (hold.getD e.1 0))
  (r.map Prod.fst, (r.filter (fun e => e.2)).length)

/-- R22, R75: what a band adds to acc_fp of a channel; the group of its scale is that of the band's first row. Log entry 113
(DESIGN CHOICE). -/
def bandPart (im : Image) (p : Proj) (pr : Profile) (r : Read) (reads ch inRow : Nat) (acc : Int) : F32 :=
  let c := fOfRatio (gainQ r.band) (4 * pr.lcm * max 1 reads)
  let sw := bfAt im.digital (p.scaleOfs + 2 * (ch * ceilDiv p.dimIn 256 + inRow / 256))
  fMul (fix64 acc) (fMul (bMul sw r.sa) c)

/-- R42, R70, R71: a read leaves its array with its accumulators: the array is idle unless the next read is already on it, which
then holds under ACC_HOLD what this one leaves. Log entry 114 (DEDUCED). -/
def Yelm.endRead (ye : Yelm) (k : Nat) (acc : List Int) : Yelm :=
  let a := k % 1024
  let slot := overlay (tgetD ye.acc (bankOf a) []) acc
  let rest := tmod (tdel ye.reads k) a (fun r => { r with hold := if r.adds then slot else [] })
  { ye.modArr a (fun b => { b with st := if thas rest a || thas rest (a + 1024) then .lit else .idle }) with
    reads := rest, acc := tset ye.acc (bankOf a) slot }

/-- R74: saturations of a yelm's accumulators, each counted. -/
def Yelm.countSat (ye : Yelm) (n : Nat) : Yelm :=
  { ye with counts := addAt ye.counts 0 n, seen := if n = 0 then ye.seen else ye.seen ||| 1 }

/-- R75, R216: the band read stands: it enters the sums of its layer operation. -/
def State.acceptRead (s : State) (y k : Nat) (im : Image) (w : Wave) (i : ArrayIdx) (pr : Profile) (r : Read) (soft : Bool) : State :=
  let p := projAt im w.proj
  let pl := p.places.getD r.place ⟨0, 0, 0, 0, 0, 0⟩
  let n := r.recipe.actTrits
  let reads := r.reads
  let inRow := pl.rowFirst + r.row0
  let fin := finishAcc r.hold ((List.range i.channels).map (fun j => hornerSum pr r.sums j n))
  let parts := (List.range i.channels).map (fun j => (pl.chFirst + j, (inRow, bandPart im p pr r reads (pl.chFirst + j) inRow (fin.1.getD j 0))))
  let s := s.modYelm y (fun ye => (ye.endRead k fin.1).countSat fin.2)
  let sat := { recOf 0x0203 3 w.vi s.now with yelm := y, array := k % 1024, unit := p.unit, die := dieOfYelm y }
  let s := s.reportN (match tget w.toks r.slot with
    | none => sat
    | some t => s.ofStep sat t.step) fin.2
  let s := s.modWave r.wave (fun w => { w with ops := tmod w.ops (r.slot * 4096 + y) (fun o =>
    { o with running := o.running.erase (r.place, r.row0),
             parts := parts.foldl (fun t e => tset t e.1 (tgetD t e.1 [] ++ [e.2])) o.parts }) })
  let s := ((s.count w.vi p.unit cBands 1).count w.vi p.unit cOvr (b2n r.pinned)).count w.vi p.unit cSat (b2n r.clamped)
  (s.count w.vi p.unit cSoft (b2n soft)).opDone im r.wave r.slot y

/-- R43, R47, R55: the band is read again: fresh trims, halves where it used halves, averaged with the reads before. -/
def Read.again (r : Read) : Read :=
  { r with todo := planList r.q r.recipe.actTrits r.row0 r.band r.halves r.recipe.actTrits, held := none, got := [], latched := false }

/-- R323: a hard miss is run again as a new band read, formed afresh from its inputs. Log entry 36 (DEDUCED). -/
def Read.rerun (r : Read) (im : Image) (w : Wave) (t : WaveTok) (missed : Option Nat) : Read :=
  { Read.begin im w t r.wave r.slot r.place r.row0 with
    reruns := r.reruns + 1, pinned := r.pinned, adds := r.adds, hold := r.hold, missed := missed }

def State.setRead (s : State) (y k : Nat) (r : Read) : State := s.modYelm y (fun ye => { ye with reads := tset ye.reads k r })

/-- R324: DETAIL of the largest residual against its hard threshold. -/
def missDetail (rs : List Residual) (k : F32) (row0 : Nat) : List Byte :=
  let ratio := fun (e : Residual) => if e.sigma2 = 0 then 0 else e.eps * e.eps / e.sigma2
  match bestBy (fun (a b : Residual) => decide (ratio b < ratio a)) rs with
  | none => zeros 8
  | some e => le 4 (fDiv (fSqrt (fOfRat (ratio e))) k).toNat ++ le 1 e.group ++ le 1 e.plane ++ le 2 row0

/-- R220, R229: a step's repeat budget has run out. -/
def State.runsOut (s : State) (k : Nat) : State :=
  let s := s.modStep k (fun t => { t with ranOut := true })
  match s.step? k with
  | none => s
  | some t => match t.entry with
    | none => s
    | some e => s.modEntry t.vi e (fun n => { n with ranOut := true })

/-- R324: the record of a repeated hard miss. -/
def missRec (y a unit vi : Nat) (at_ : Nat) (detail : List Byte) : Rec :=
  { recOf 0x0101 0 vi at_ with yelm := y, array := a, unit := unit, die := dieOfYelm y, detail := detail }

/-- R56, R323, R324: the last read of a band read has been made. Log entry 36 (DEDUCED). -/
def State.settleRead (s : State) (y k : Nat) (im : Image) (w : Wave) (t : WaveTok) (i : ArrayIdx) (pr : Profile) (r : Read)
    (rs : List Residual) (declined : Bool) : State :=
  let unit := (projAt im w.proj).unit
  let hard := rs.any (fun e => e.beyond r.recipe.kHard)
  let soft := declined || rs.any (fun e => e.beyond r.recipe.kSoft)
  let s := s.count w.vi unit cHard (b2n hard)
  let detail := missDetail rs r.recipe.kHard r.row0
  let rerun := fun (s : State) (missed : Option Nat) => (s.modErr (fun b => { b with hardReruns := bump b.hardReruns })).setRead y k
    (r.rerun im w t missed)
  if !hard then s.acceptRead y k im w i pr r soft
  else if r.reruns = 0 then rerun s none
  else if r.reruns = 1 then rerun ((s.giveMark y (k % 1024)).report (missRec y (k % 1024) unit w.vi s.now detail)) (some s.now)
  else
    (s.uncorrected (missRec y (k % 1024) unit w.vi (r.missed.getD s.now) detail)
      (s.ofStep { missRec y (k % 1024) unit w.vi s.now detail with severity := 1, flags := 1 } t.step)).acceptRead y k im w i pr r false

/-- BAND_READ_END (R54–R56, R228, R229): the last plane of the read under a key has been converted. Log entry 36 (DEDUCED). -/
def State.endRead (s : State) (y k : Nat) (r0 : Read) : State :=
  let a := k % 1024
  match tget s.waves r0.wave with
  | none => s
  | some w =>
    match tget w.toks r0.slot, s.imageOf w.vi, ((s.yelm y).arr a).idx with
    | some t, some im, some i =>
      match profileOf i.fmt i.profile, tget w.ops (r0.slot * 4096 + y) with
      | some pr, some o =>
        let reads := r0.reads + 1
        let rs := residuals (s.yelmTemp y) i pr ((s.yelm y).arr a).alpha r0 reads
        let softMiss := rs.any (fun e => e.beyond r0.recipe.kSoft)
        let ovrNow := r0.recipe.ovrMode == 0 && r0.got.any (fun g => g.2.2.any id)
        let total := r0.total
        let latest := (List.range i.channels).map (fun j => hornerSum pr r0.got j r0.recipe.actTrits)
        let r := { r0 with reads := reads, sums := total, got := [] }
        let s := if 2 ≤ reads then s.modYelm y (fun ye =>
          { ye with acc := tset ye.acc (16 + bankOf a) (overlay (tgetD ye.acc (16 + bankOf a) []) latest) }) else s
        let ranOut := ((s.step? t.step).map Step.ranOut).getD false
        let free := decide (0 < r0.reruns)
        let failing := (softMiss || (ovrNow && r0.ovrRepeats == 0)) && decide (reads < 4)
        let wants := failing && r0.recipe.budgetQ != 0 && !ranOut
        let cost := (planList r.q r.recipe.actTrits r.row0 r.band r.halves r.recipe.actTrits).length
        let p := projAt im w.proj
        if wants ∧ (free ∨ cost ≤ o.allot) then
          let s := if free then s else s.modWave r.wave (fun w => { w with ops := tmod w.ops (r.slot * 4096 + y) (fun o =>
            { o with allot := o.allot - cost }) })
          (s.count w.vi p.unit cRepeat 1).setRead y k { r.again with ovrRepeats := if softMiss then r.ovrRepeats else r.ovrRepeats + 1 }
        else
          let s := if wants then ((s.runsOut t.step).count w.vi p.unit cBudget 1).raiseFlag w.vi p.unit 9 else s
          s.settleRead y k im w t i pr r rs failing
      | _, _ => s
    | _, _, _ => s

/-- R75, R228: the reads of a token that have been converted on a yelm's arrays up to one of them; they end in array order. -/
def Yelm.doneReads (ye : Yelm) (a : Nat) : List (Nat × Read) :=
  let ended := fun (r : Read) => r.todo.isEmpty && r.held.isNone
  let k := if thas ye.reads (a + 1024) then a + 1024 else a
  match tget ye.reads k with
  | none => []
  | some r =>
    if !ended r then []
    else
      let mine := ye.reads.filter (fun e => ended e.2 && e.1 % 1024 < a && e.2.wave == r.wave && e.2.slot == r.slot)
      sortBy (fun (m n : Nat × Read) => decide (m.1 % 1024 < n.1 % 1024) || (m.1 % 1024 == n.1 % 1024 && decide (n.1 < m.1))) mine ++ [(k, r)]

/-- R45, R70, R75, R228: a band read whose planes have all been converted ends, after those of the same token on lower arrays. -/
def State.bandReadEnd (s : State) (yelm array : Nat) : State :=
  ((s.yelm yelm).doneReads array).foldl (fun s e => s.endRead yelm e.1 e.2) s

end Sys2Proof.Machine
end

