-- ==== Sys2Proof/Machine/Transpose.lean ====
section
/-! DEFINITION. Transpose reads of the backward pass (R57–R59, R170, R174, R178, R179, R184), and tiles (R83, R85–R87, R287). -/
namespace Sys2Proof.Machine

/-! ### What a token's gradient needs -/

/-- A projection whose transpose a token waits for: role, projection, output gradient. -/
structure TWant where
  role : Option (Nat × Bool)
  proj : Nat
  dy : List F32
deriving DecidableEq, Repr

/-- R174: gate-and-up gradient of an expert from the gradient of the activation between. -/
def expertDgu (d : Desc) (c : Choice) : List F32 :=
  let gu := c.gu.getD []
  let h := gu.length / 2
  let g := actBack (leAt d 22 1) (gu.take h) (gu.drop h) ((c.dmid.getD []).map ofBf)
  g.1 ++ g.2

/-- R166, R174: the forward input of a hooked projection, where the step's bound version fills the hook. -/
def hookInput (x : Vi) (im : Image) (t : Step) (c : Tok) (d : Desc) (role : Option (Nat × Bool)) : Option (List Bf16) :=
  match role with
  | some (k, true) => (c.routes[k]?).bind Choice.mid
  | _ => (fwdSlot x im t c c.desc (dSrc d)).1

/-- R179: the hook of a projection that the set fills. -/
def roleHook (x : Vi) (im : Image) (t : Step) (c : Tok) (d : Desc) (role : Option (Nat × Bool)) : Option Hook :=
  match role with
  | none => if dKind d = 3 then boundHook x t.adp (leAt d 22 2) else none
  | some (k, down) =>
    let e := expertOf im d ((c.routes.getD k ⟨0, 0, 0, none, none, none, none, none⟩).expert)
    boundHook x t.adp (if down then e.hookDown else e.hookGu)

/-- R170, R174: the transpose reads a token waits for. -/
def tWants (x : Vi) (im : Image) (t : Step) (c : Tok) : List TWant :=
  let d := descAt im c.desc
  let ready := fun (w : TWant) => (roleHook x im t c d w.role).isNone || (hookInput x im t c d w.role).isSome
  if c.done then []
  else if t.kind = .backward then
    match dKind d with
    | 3 =>
      let p := leAt d 16 4
      ([⟨none, p, if dFuse d then (resGrad c (dOut d)).map cToF else slotGrad c (dDst d) (dOut d)⟩].filter ready)
    | 8 => (((List.range c.routes.length).zip c.routes).filterMap (fun kc =>
        let ch := kc.2
        if ch.gu.isNone ∨ ch.dx.isSome then none
        else if ch.dmid.isNone then
          some (⟨some (kc.1, true), choiceProj im d ch true, (resGrad c (dOut d)).map (fun g => fMul ch.gate (cToF g))⟩ : TWant)
        else some ⟨some (kc.1, false), choiceProj im d ch false, expertDgu d ch⟩)).filter ready
    | _ => []
  else if t.kind = .fwdSave ∧ dKind d = 9 ∧ c.sampled.isSome then [⟨none, leAt d 16 4, c.logits⟩]
  else []

/-! ### One array (R58, R178) -/

/-- The bands of an array: first channel and count per column band, row ranges per scale-span block. -/
def colBands (i : ArrayIdx) (p : Profile) : List (Nat × Nat) :=
  let n := max 1 (256 / p.width)
  (List.range (ceilDiv i.channels n)).map (fun b => (b * n, min n (i.channels - b * n)))

def rowBlocks (i : ArrayIdx) (rowFirst span : Nat) : List (Nat × Nat) :=
  let b0 := rowFirst / span
  (List.range ((rowFirst + i.rows - 1) / span - b0 + 1)).map (fun k =>
    let lo := max rowFirst ((b0 + k) * span)
    (lo - rowFirst, min (rowFirst + i.rows) ((b0 + k + 1) * span) - lo))

/-- The integer weight that row r and channel j of an array hold. -/
def cellWeight (p : Profile) (cells : Tbl (List Int)) (r j : Nat) : Int :=
  let row := tgetD cells r []
  tritVal ((p.columns j).map (fun cols => row.getD (cols.headD 0) 0)).reverse

/-- R58, R178: the transpose reads of an array: its column bands, each with the scale-span blocks it senses. -/
def tReads (p : Proj) (pl : Place) (i : ArrayIdx) (pr : Profile) : List ((Nat × Nat) × (Nat × Nat)) :=
  (colBands i pr).flatMap (fun cb => (rowBlocks i pl.rowFirst (max 1 p.span)).map (fun blk => (cb, blk)))

/-- R178: s_g and q of a column band and block, in a format of n trits. -/
def tForm (im : Image) (p : Proj) (pl : Place) (n : Nat) (dy : List F32) (cb blk : Nat × Nat) : Bf16 × List Int :=
  let inRow := pl.rowFirst + blk.1
  let gp := (List.range cb.2).map (fun k =>
    let ch := pl.chFirst + cb.1 + k
    fMul (vGet dy ch) (ofBf (bfAt im.digital (p.scaleOfs + 2 * (ch * ceilDiv p.dimIn 256 + inRow / 256)))))
  let amax := gp.foldl (fun m g => let v := dAbs (fVal g); if dLt m v then v else m) ⟨0, 0⟩
  let sg := bfRoundUpQuot amax (actMax n)
  (sg, gp.map (fun g => clampI (quotRoundAway (fVal g) (bVal sg)) (-(actMax n : Int)) (actMax n)))

/-- R178: reads whose scale is 0 are skipped. Log entry 24 (DEDUCED). -/
def tSkip (im : Image) (p : Proj) (pl : Place) (n : Nat) (dy : List F32) (rs : List ((Nat × Nat) × (Nat × Nat))) :
    List ((Nat × Nat) × (Nat × Nat)) :=
  rs.dropWhile (fun r => decide ((bVal (tForm im p pl n dy r.1 r.2).1).m = 0))

/-- R178: one transpose read: every plane, most significant first, and every row sensed, added into the yelm's sum; answers the
sum, whether a reading was out of range, and the draws made. Log entry 24 (DEDUCED). -/
def tRead (im : Image) (p : Proj) (pl : Place) (pr : Profile) (arr : Arr) (trims : Trims) (a n draws : Nat) (dy : List F32)
    (dx : List Comp) (cb blk : Nat × Nat) : List Comp × Bool × Nat :=
  let f := tForm im p pl n dy cb blk
  let gbar := fMul fHalf (fAdd (fDiv arr.npos arr.dpos) (fDiv arr.nneg arr.dneg))
  (List.range n).reverse.foldl (fun (acc : List Comp × Bool × Nat) pn =>
    let t := planeOf f.2 n pn
    (List.range blk.2).foldl (fun (acc : List Comp × Bool × Nat) k =>
      let row := blk.1 + k
      let count := sumInt ((List.range cb.2).map (fun j => t.getD j 0 * cellWeight pr arr.cells row (cb.1 + j)))
      let w := convert (Config.charge acc.2.2 (count * 2 ^ 20)) 4
      let ofs := (tgetD trims ((16 + rowBankOf a) * 1040 + row) (0, 0)).2
      let rd := fDiv (fSub (fix64 (64 * w.1 - ofs)) arr.o) gbar
      let add := fMul (fMul (ofBf f.1) (fOfInt (3 ^ pn : Nat))) rd
      (acc.1.set (pl.rowFirst + row) (cAdd (acc.1.getD (pl.rowFirst + row) .zero) add), acc.2.1 || w.2, acc.2.2 + 1)) acc)
    (dx, false, draws)

/-! ### Sums over the yelms and what follows (R178, R179) -/

/-- R178: the yelms' partial results summed in ascending yelm number, rounded to bfloat16. -/
def sumPartials (dimIn : Nat) (ps : List TPart) : List F32 :=
  let ordered := sortBy (fun (a b : TPart) => decide (a.yelm < b.yelm)) ps
  (List.range dimIn).map (fun i => ofBf (cToBf (ordered.foldl (fun acc e => cAddPair acc (e.dx.getD i .zero)) Comp.zero)))

/-- R179: candidate outlier rows take their digital gradient. -/
def candidateRows (im : Image) (p : Proj) (dy dx : List F32) : List F32 :=
  (List.range dx.length).map (fun i =>
    if p.candidates.contains i then
      fSum ((List.range p.dimOut).map (fun j => fMul (vGet dy j) (ofBf (outlierWeight im p i j))))
    else vGet dx i)

/-- R174, R178, R179: the transpose of a projection is complete for a token. -/
def State.transposeDone (s : State) (im : Image) (x : Vi) (k i : Nat) (t : Step) (c : Tok) (w : TWant) : State :=
  let d := descAt im c.desc
  let p := projAt im w.proj
  let mine := c.partials.filter (fun e => e.role == w.role)
  let dx := candidateRows im p w.dy (sumPartials p.dimIn mine)
  let hk := (roleHook x im t c d w.role).bind (fun h => (hookInput x im t c d w.role).map (fun xs => (h, hookBack h xs w.dy)))
  let s := match hk with
    | none => s
    | some (h, g) => (s.stage k h.bNo g.1).stage k h.aNo g.2.1
  let dx := match hk with
    | none => dx
    | some (_, g) => zipF fAdd dx g.2.2
  let clear := fun (c : Tok) => { c with partials := c.partials.filter (fun e => e.role != w.role) }
  match w.role with
  | some (n, down) =>
    s.modTok k i (fun c =>
      let c := clear c
      { c with routes := c.routes.set n (match c.routes[n]? with
        | none => ⟨0, 0, 0, none, none, none, none, none⟩
        | some ch => if down then { ch with dmid := some (dx.map toBf) } else { ch with dx := some (dx.map toBf) }) })
  | none =>
    if t.kind = .fwdSave then
      (s.keep k t c.pos c.desc (.head (dx.map toBf))).finishDesc im k i (fun c => { clear c with logits := [] })
    else s.finishDesc im k i (fun c =>
      let c := addGrad (clear c) (dSrc d) dx
      if dFuse d then c else dropGrad c (dDst d))

/-- R184: room for transpose reads in this beat. Log entry 25 (DEDUCED). -/
def State.trainRoom (s : State) (x : Vi) (y : Nat) : Bool :=
  decide ((s.yelm y).transposeCycles * 100 < x.part.trainShare * (s.period / 160))

/-- R184: a wave that holds decode-class tokens waits for an array of the yelm. -/
def State.decodeWaits (s : State) (y : Nat) : Bool := s.waves.any (fun w => w.2.decode && w.2.reading y)

/-- The place of an array in the projection that a token waits for. -/
def tPlace (x : Vi) (im : Image) (v yelm array : Nat) (w : TWant) : Option Place :=
  (projAt im w.proj).places.find? (fun pl => physYelm v x.part pl.yelm == some yelm && x.physArr pl.yelm pl.array == array)

/-- The part of a role on a yelm, new where none is begun: the recipe is that of the role's first read, or the one in force
(R223). -/
def tPart (x : Vi) (im : Image) (c : Tok) (w : TWant) (yelm : Nat) : TPart :=
  (c.partials.find? (fun e => e.role == w.role && e.yelm == yelm)).getD
    ⟨w.role, yelm, ((c.partials.find? (fun e => e.role == w.role)).map TPart.recipe).getD
        (recipeAt x.img.recipes (dRecipe (descAt im c.desc))), List.replicate (projAt im w.proj).dimIn .zero, []⟩

/-- A part put in its place among those of a token. -/
def putPart (ps : List TPart) (t : TPart) : List TPart :=
  ps.filter (fun e => !(e.role == t.role && e.yelm == t.yelm)) ++ [t]

/-- Arrays of a role whose transpose reads are all done. -/
def partsDone (ps : List TPart) (role : Option (Nat × Bool)) : Nat :=
  sumNat ((ps.filter (fun e => e.role == role)).map (fun e => (e.left.filter (fun l => l.2 == 0)).length))

/-- R57, R184: whether a yelm may start a transpose read of an array for a step. -/
def State.mayTranspose (s : State) (x : Vi) (t : Step) (yelm array : Nat) : Bool :=
  let ye := s.yelm yelm
  t.inFlight && !t.crossed && !ye.resetting && ye.cal != 2 && (ye.arr array).st == .idle && ye.reads.isEmpty && s.trainRoom x yelm &&
    !s.decodeWaits yelm && decide (0 < s.litLimit yelm) && decide (s.pwr.state ≤ 1)

/-- R58, R178, R216: the next transpose read of an array for a token; the part it leaves, and what is counted.
Log entry 24 (DEDUCED). -/
def State.transposeStep (s : State) (im : Image) (p : Proj) (pl : Place) (i : ArrayIdx) (pr : Profile) (v yelm array : Nat) (part : TPart)
    (dy : List F32) : TPart × State :=
  let n := part.recipe.actTrits
  let all := tReads p pl i pr
  match tSkip im p pl n dy (all.drop (all.length - (tget part.left array).getD all.length)) with
  | [] => ({ part with left := tset part.left array 0 }, s)
  | rd :: rest =>
    let ye := s.yelm yelm
    let r := tRead im p pl pr (ye.arr array) ye.trims array n s.draws dy part.dx rd.1 rd.2
    let s := { s with draws := r.2.2 }.modYelm yelm (fun ye => { ye with transposeCycles := ye.transposeCycles + n })
    ({ part with dx := r.1, left := tset part.left array (tSkip im p pl n dy rest).length },
      (s.count v p.unit cTbands 1).count v p.unit cTovr (b2n r.2.1))

/-- TRANSPOSE_READ (R57, R58, R178, R184): the next column band, and block, of an array for one token's gradient, all its
planes. Log entry 24 (DEDUCED). -/
def execTransposeRead (ts yelm array step tok : Nat) (s0 : State) : Host.Outcome State Fault Refusal :=
  let s := s0.upto ts
  .next (match s.step? step with
    | none => s
    | some t =>
      match s.vi? t.vi, s.imageOf t.vi, t.tok? tok with
      | some x, some im, some c =>
        let open_ := fun (w : TWant) => (tPlace x im t.vi yelm array w).isSome && tget (tPart x im c w yelm).left array != some 0
        match (tWants x im t c).find? open_, ((s.yelm yelm).arr array).idx with
        | some w, some i =>
          match tPlace x im t.vi yelm array w, profileOf i.fmt i.profile with
          | some pl, some pr =>
            if !s.mayTranspose x t yelm array then s
            else
              let p := projAt im w.proj
              let r := s.transposeStep im p pl i pr t.vi yelm array (tPart x im c w yelm) w.dy
              let ps := putPart c.partials r.1
              let s := r.2.modTok step tok (fun c => { c with partials := ps })
              if partsDone ps w.role < p.places.length then s
              else s.transposeDone im x step tok t { c with partials := ps } w
          | _, _ => s
        | _, _ => s
      | _, _, _ => s)

/-! ### Tiles (R83, R85–R87) -/

/-- R28: bytes of a compensated pair. -/
def compBytes (c : Comp) : List Byte := le 4 c.hi.toNat ++ le 4 c.lo.toNat

/-- R83: the bytes of one element of a buffer. -/
def tileElem (ye : Yelm) (id row col : Nat) : List Byte :=
  match id with
  | 1 => le 2 (bGet (tgetD ye.input row []) col).toNat
  | 2 => le 8 (twos 64 ((tgetD ye.acc row []).getD col 0))
  | 3 => compBytes ((tgetD ye.output row []).getD col .zero)
  | 4 => le 4 ((tgetD ye.recv row []).getD col 0).toNat
  | 5 => le 2 (bGet ((ye.cache[row]?.map CacheLine.weights).getD []) col).toNat
  | _ =>
    let a := ye.arr row
    le 4 ([a.o, fDiv a.npos a.dpos, fDiv a.nneg a.dneg, a.npos, a.dpos, a.nneg, a.dneg, a.alpha].getD col 0).toNat

/-- R28, R30: a CH24 that is not finite is replaced by +0 or the largest value of its sign. -/
def ch24Clean (v : Ch24) : Ch24 := BitVec.ofNat 24 ((fClean (ofCh24 v)).toNat / 256)

/-- R28–R31, R87: write an element; answers how many values R30 replaced. A compensated pair is renormalised as it is written.
Log entry 116 (DESIGN CHOICE). -/
def tilePut (ye : Yelm) (id row col : Nat) (bs : List Byte) : Yelm × Nat :=
  match id with
  | 1 =>
    let v : Bf16 := BitVec.ofNat 16 (leAt bs 0 2)
    ({ ye with input := tset ye.input row (setCol (tgetD ye.input row []) col 0 (toBf (fClean (ofBf v)))) }, b2n (fNonfinite (ofBf v)))
  | 2 => ({ ye with acc := tset ye.acc row (setCol (tgetD ye.acc row []) col 0 (signed 40 (leAt bs 0 8))) }, 0)
  | 3 =>
    let h : F32 := BitVec.ofNat 32 (leAt bs 0 4)
    let l : F32 := BitVec.ofNat 32 (leAt bs 4 4)
    ({ ye with output := tset ye.output row (setCol (tgetD ye.output row []) col .zero (cNorm ⟨fClean h, fClean l⟩)) },
      b2n (fNonfinite h) + b2n (fNonfinite l))
  | 4 =>
    let v : Ch24 := BitVec.ofNat 24 (leAt bs 0 4)
    ({ ye with recv := tset ye.recv row (setCol (tgetD ye.recv row []) col 0 (ch24Clean v)) }, b2n (fNonfinite (ofCh24 v)))
  | _ =>
    let v : Bf16 := BitVec.ofNat 16 (leAt bs 0 2)
    let none_ : CacheLine := ⟨none, 0, []⟩
    let line := (ye.cache[row]?).getD none_
    ({ ye with cache := setCol ye.cache row none_ { line with weights := setCol line.weights col 0 (toBf (fClean (ofBf v))) } },
      b2n (fNonfinite (ofBf v)))

/-- R86: the findings of a tile command: none, or its status. -/
def tileFinding (s : State) (v : Nat) (x : Vi) (pay : List Byte) (write : Bool) : Option Nat :=
  match tileShape (leAt pay 2 1), physYelm v x.part (leAt pay 0 2) with
  | some (_, _, _, ok), some y =>
    if v = 0 ∧ (s.owner y).isSome then some stNotPermitted
    else if write ∧ !ok then some stNotPermitted
    else none
  | _, _ => some stNoObject

/-- R87: a yelm that is between layer operations and neither calibrating, programming nor in reset. -/
def State.tileFree (s : State) (y : Nat) : Bool :=
  let ye := s.yelm y
  !s.yelmActive y && ye.cal != 2 && !ye.resetting && !ye.arrays.any (fun a => a.2.st == .busy)

/-- TILE_READ and TILE_WRITE take place (R86): each element supplied that falls inside the effective rectangle is written, and
each replacement of R30 recorded. Where ROWS or COLS was 0 none is supplied. Log entry 116 (DESIGN CHOICE). -/
def State.doTile (s : State) (v e y : Nat) (pay : List Byte) (write : Bool) : State :=
  match tileShape (leAt pay 2 1) with
  | none => s
  | some (size, rows, cols, _) =>
    let id := leAt pay 2 1
    let t := tileRect pay size rows cols (!write)
    if write then
      let wide := leAt pay 14 2
      let cells := (List.range (min t.2.2.1 (leAt pay 12 2))).flatMap (fun r => (List.range (min t.2.2.2 wide)).map (fun c => (r, c)))
      let r := cells.foldl (fun (acc : Yelm × Nat) rc =>
        let w := tilePut acc.1 id (t.1 + rc.1) (t.2.1 + rc.2) (bytesAt pay (16 + (rc.1 * wide + rc.2) * size) size)
        (w.1, acc.2 + w.2)) (s.yelm y, 0)
      let ye := { r.1 with counts := addAt r.1.counts 6 r.2, seen := if r.2 = 0 then r.1.seen else r.1.seen ||| 16 }
      ((s.setYelm y ye).reportN { recOf 0x0204 3 v s.now with
        yelm := y, die := dieOfYelm y, detail := le 1 (if id = 3 then 1 else if id = 4 then 2 else 0) } r.2).outcome v e stOk
          (tileDesc pay false)
    else
      let cells := (List.range t.2.2.1).flatMap (fun r => (List.range t.2.2.2).map (fun c => (r, c)))
      s.outcome v e stOk (tileDesc pay true ++ cells.flatMap (fun rc => tileElem (s.yelm y) id (t.1 + rc.1) (t.2.1 + rc.2)))

/-- R87: tile commands of a yelm that waited take place in the order of their stamps. -/
def State.pumpTiles (s : State) (y : Nat) : State :=
  if (s.yelm y).tiles.isEmpty ∨ !s.tileFree y then s
  else
    let ts := sortBy (fun (a b : Nat × Nat) => match s.entry? a.1 a.2, s.entry? b.1 b.2 with
      | some m, some n => orderLt (entryPlace a.1 m) (entryPlace b.1 n)
      | _, _ => false) (s.yelm y).tiles
    let s := s.modYelm y (fun ye => { ye with tiles := [] })
    ts.foldl (fun s e => match s.entry? e.1 e.2 with
      | none => s
      | some n => s.doTile e.1 e.2 y (pPay n.req) (n.opcode == 0x0702)) s

/-- R86: a tile command: its findings, or it takes place as soon as the yelm allows (R87). -/
def effTile (write : Bool) : Effect := fun s c =>
  match s.vi? c.vi with
  | none => (s, none)
  | some x =>
    match tileFinding s c.vi x c.pay write with
    | some st => (s, some (st, tileDesc c.pay (!write)))
    | none =>
      let y := (physYelm c.vi x.part (leAt c.pay 0 2)).getD 0
      ((s.modYelm y (fun ye => { ye with tiles := ye.tiles ++ [(c.vi, c.entry)] })).pumpTiles y, none)

/-- TILE_READ. -/
def effTileRead : Effect := effTile false
/-- TILE_WRITE. -/
def effTileWrite : Effect := effTile true

def execTileRead (p : Packet) (s : State) : Host.Outcome State Fault Refusal := .next (s.takeAs 0x0701 p noStatic effTileRead)
def execTileWrite (p : Packet) (s : State) : Host.Outcome State Fault Refusal := .next (s.takeAs 0x0702 p noStatic effTileWrite)

/-- R87: tile commands anywhere that may now take place. -/
def State.pumpAllTiles (s : State) : State := (tkeys s.yelms).foldl (fun s y => s.pumpTiles y) s

/-- BAND_READ_END (R70, R75): tile commands of the yelm may then take place. -/
def execBandReadEnd (ts yelm array : Nat) (s : State) : Host.Outcome State Fault Refusal :=
  .next (((s.upto ts).bandReadEnd yelm array).pumpTiles yelm)

/-- ARRAY_PROGRAMMED (R201, R202). -/
def execArrayProgrammed (ts yelm array : Nat) (s : State) : Host.Outcome State Fault Refusal :=
  .next (((s.upto ts).arrayProgrammed yelm array).pumpTiles yelm)

/-- ARRAY_ERASE_DONE (R202, R212). -/
def execArrayEraseDone (ts yelm array : Nat) (s : State) : Host.Outcome State Fault Refusal :=
  .next (((s.upto ts).arrayEraseDone yelm array).pumpTiles yelm)

/-- REFRESH_SLICE_END (R214, R215): a slice of eight rows; rows that did not verify are named.
Log entry 27 (DESIGN CHOICE). -/
def execRefreshSliceEnd (ts yelm array : Nat) (bad : List Nat) (s : State) : Host.Outcome State Fault Refusal :=
  .next (((s.upto ts).refreshSliceEnd yelm array bad).pumpTiles yelm)

end Sys2Proof.Machine
end

