-- ==== Sys2Proof/Machine/Training.lean ====
section
/-! DEFINITION. Adapter sets and training commands (chapter 07, R285, R286): ADP_SET_CREATE, ADP_SET_XFER, ADP_SET_CLOSE,
ADP_FWD_SAVE, ADP_BWD and ADP_UPDATE, and the commit of a version (R163, R164). -/
namespace Sys2Proof.Machine

/-! ### The order of a set's commands (R165) -/

def Vi.modSet (x : Vi) (n : Nat) (f : AdpSet → AdpSet) : Vi := { x with sets := tmod x.sets n f }

/-- R164: what stands in the way of the next version of a set. -/
inductive VersionRoom where
  | free | stepsUse | savedUses
deriving DecidableEq, Repr

/-- R164: whether a bound version lies in the buffer that the next version takes. -/
def inOther (a : AdpSet) (version : Nat) : Bool := version != a.version && version % 2 == (a.version + 1) % 2

def State.versionRoom (s : State) (v : Nat) (x : Vi) (n : Nat) (a : AdpSet) : VersionRoom :=
  if x.seqs.any (fun q => q.2.set == some n && (match q.2.saved with
    | none => false
    | some sv => inOther a sv.version)) then .savedUses
  else if s.steps.any (fun t => t.2.vi == v && (match t.2.adp with
    | some (m, w) => t.2.inFlight && m == n && inOther a w
    | none => false)) then .stepsUse
  else .free

/-- R163: a tensor's working copy of a version, written from its master. -/
def Tensor.publish (t : Tensor) (version : Nat) : Tensor :=
  let w := t.master.map toBf
  if version % 2 = 0 then { t with work0 := w } else { t with work1 := w }

/-! ### ADP_SET_CREATE, ADP_SET_CLOSE (R161, R285) -/

/-- R161: whether the image defines everything that a specification names. -/
def specDefined (x : Vi) (pay : List Byte) : Bool :=
  let hooks := (x.img.image.map Image.hooks).getD []
  (specHooks pay).all (fun h => (hooks[h.1]?.map Prod.fst) == some 0) &&
    (specNorms pay).all (fun n => (hooks[n]?.map Prod.fst) == some 1) &&
    (!specBias pay || hooks.any (fun h => h.1 == 2))

/-- A tensor at creation: moments, gradient and the unused working copy are zero. -/
def Tensor.fresh (kind : TensorKind) (rows cols : Nat) (master : List F32) : Tensor :=
  let z := List.replicate (rows * cols) (0 : F32)
  ({ kind := kind, rows := rows, cols := cols, master := master, m := z, v := z, grad := z,
     work0 := List.replicate (rows * cols) 0, work1 := [] } : Tensor).publish 1

/-- R161: uniform draws in [−1/√n, 1/√n) by fresh numbers from one on. -/
def initialA (draws n count : Nat) : List F32 :=
  let b := fDiv fOne (fSqrt (fOfInt n))
  (List.range count).map (fun i => fMul (fSub (fMul 0x40000000#32 (uniform (Config.draw (draws + i)))) fOne) b)

/-- R161: the tensors of a hook; A takes one draw per element. -/
def hookTensors (draws : Nat) (h : Nat × Nat × F32 × Nat × Nat) : List Tensor :=
  let r := h.2.1
  [.fresh (.hookA h.1 r) r h.2.2.2.1 (initialA draws h.2.2.2.1 (r * h.2.2.2.1)),
    .fresh (.hookB h.1 r) h.2.2.2.2 r (List.replicate (h.2.2.2.2 * r) 0)]

/-- R161: the image's gain vector of a norm index. -/
def imageGain (im : Image) (n dim : Nat) : List F32 :=
  match im.program.find? (fun d => dKind d == 2 && leAt d 38 2 == n) with
  | none => List.replicate dim fOne
  | some d => ((bfTable im.digital (leAt d 16 8) dim).getD (List.replicate dim 0x3F80#16)).map ofBf

/-- R161: a set as its creation makes it, and the draws it took. -/
def newSet (im : Image) (draws : Nat) (pay : List Byte) : AdpSet × Nat :=
  let hooks := (specHooks pay).map (fun h => (h.1, h.2.1, h.2.2, (im.hooks.getD h.1 (0, 0, 0)).2.1, (im.hooks.getD h.1 (0, 0, 0)).2.2))
  let ht := hooks.foldl (fun (acc : List Tensor × Nat) h => (acc.1 ++ hookTensors acc.2 h, acc.2 + h.2.1 * h.2.2.2.1)) ([], draws)
  let gains := (specNorms pay).map (fun n =>
    let d := (im.hooks.getD n (0, 0, 0)).2.1
    Tensor.fresh (.gain n) 1 d (imageGain im n d))
  let bias := if specBias pay then [Tensor.fresh .bias 1 im.vocab (List.replicate im.vocab 0)] else []
  ({ hooks := hooks, gains := specNorms pay, bias := specBias pay, tensors := ht.1 ++ gains ++ bias, version := 1, t := 0,
     lastTrain := 0, lastVersion := 0, stale := false, damaged := false }, ht.2)

/-- R355: a set as ADP_STATE carries it. -/
def State.emitSet (s : State) (v n : Nat) (a : AdpSet) : State :=
  s.emit v none false (.adpState n a.version a.t a.hooks a.gains a.bias (a.tensors.map (fun t => (t.rows, t.cols, t.master, t.m, t.v))))

/-- R161: an index that the current image does not define is rejected. Log entry 44 (DEDUCED). -/
def staticAdpSetCreate : StaticCheck := fun s c =>
  match s.vi? c.vi with
  | none => none
  | some x => if specDefined x c.pay then none else some (stNoObject, setCreateReply c.pay 0 0)

/-- ADP_SET_CREATE (R161, R240), after the set's earlier commands (R165). Log entry 44 (DEDUCED). -/
def effAdpSetCreate : Effect := fun s c =>
  let n := leAt c.pay 0 2
  let bad := fun st => (s, some (st, setCreateReply c.pay 0 0))
  match s.vi? c.vi with
  | none => bad stNoObject
  | some x =>
    if 63 < n then bad stNoObject
    else if setBlocked c.vi x n (c.place s) then (s, none)
    else
      let im := x.img.image.getD ⟨0, [], 0, 0, [], [], [], [], [], [], [], [], [], [], 0⟩
      let a := newSet im s.draws c.pay
      if x.digitalUsed + a.1.bytes > x.part.digital * 1048576 then bad stNoResource
      else if thas x.sets n then bad stNotPermitted
      else (({ s with draws := a.2 }.modVi c.vi (fun x => { x with sets := tset x.sets n { a.1 with lastVersion := s.now } })).emitSet
          c.vi n a.1,
        some (stOk, setCreateReply c.pay 1 a.1.bytes))

def execAdpSetCreate (p : Packet) (s : State) : Host.Outcome State Fault Refusal :=
  .next (s.takeAs 0x0601 p staticAdpSetCreate effAdpSetCreate)

/-- ADP_SET_CLOSE (R161, R165): after the set's earlier commands; not while an open sequence names it. -/
def effAdpSetClose : Effect := fun s c =>
  let n := leAt c.pay 0 2
  let rep := bytesAt c.pay 0 2 ++ zeros 2
  match s.vi? c.vi with
  | none => (s, some (stNoObject, rep))
  | some x =>
    if setBlocked c.vi x n (c.place s) then (s, none)
    else if !thas x.sets n then (s, some (stNoObject, rep))
    else if x.seqs.any (fun q => q.2.set == some n) then (s, some (stNotPermitted, rep))
    else ((s.modVi c.vi (fun x => { x with sets := tdel x.sets n })).emit c.vi none false (.adpClosed n), some (stOk, rep))

def execAdpSetClose (p : Packet) (s : State) : Host.Outcome State Fault Refusal :=
  .next (s.takeAs 0x0603 p noStatic effAdpSetClose)

/-! ### ADP_SET_XFER (R286) -/

/-- R162: the record of a tensor. -/
def Tensor.record (t : Tensor) : List Byte :=
  let f := fun (v : List F32) => v.flatMap (fun e => le 4 e.toNat)
  let b := fun (v : List Bf16) => (v ++ List.replicate (t.rows * t.cols - v.length) (0 : Bf16)).flatMap (fun e => le 2 e.toNat)
  f t.master ++ f t.m ++ f t.v ++ f t.grad ++ b t.work0 ++ b t.work1

/-- R286: a tensor read from its record; the working copies are not read. -/
def Tensor.load (t : Tensor) (bs : List Byte) (o : Nat) : Tensor :=
  let e := t.rows * t.cols
  let f := fun k => (List.range e).map (fun i => fClean (BitVec.ofNat 32 (leAt bs (o + 4 * (k * e + i)) 4)))
  { t with master := f 0, m := f 1, v := f 2, grad := f 3 }

/-- R30: values of a set's record that are not finite. -/
def AdpSet.nonfinite (a : AdpSet) (bs : List Byte) : Nat :=
  (a.tensors.foldl (fun (acc : Nat × Nat) t =>
    (acc.1 + ((List.range (4 * (t.rows * t.cols))).filter (fun i => fNonfinite (BitVec.ofNat 32 (leAt bs (acc.2 + 4 * i) 4)))).length,
      acc.2 + 20 * t.rows * t.cols)) (0, 0)).1

/-- R286, R163: a set rewritten by a transfer, under its next version. -/
def AdpSet.load (a : AdpSet) (bs : List Byte) (now : Nat) : AdpSet :=
  let r := a.tensors.foldl (fun (acc : List Tensor × Nat) t =>
    (acc.1 ++ [(t.load bs acc.2).publish (a.version + 1)], acc.2 + 20 * t.rows * t.cols)) ([], 0)
  { a with tensors := r.1, version := a.version + 1, lastVersion := now, damaged := false }

def xferReply (pay : List Byte) (version bytes : Nat) : List Byte := bytesAt pay 0 2 ++ zeros 2 ++ le 4 version ++ le 8 bytes

/-- ADP_SET_XFER (R286, R163–R165): the transfer starts once the set's earlier commands and the buffer allow it. -/
def effAdpSetXfer : Effect := fun s c =>
  let n := leAt c.pay 0 2
  let dir := leAt c.pay 2 1
  let bad := fun st => (s, some (st, xferReply c.pay 0 0))
  match s.vi? c.vi with
  | none => bad stNoObject
  | some x =>
    if setBlocked c.vi x n (c.place s) then (s, none)
    else
      match tget x.sets n, tget x.regions (leAt c.pay 4 4) with
      | some a, some r =>
        if 1 < dir ∨ r.use ≠ 4 ∨ (dir = 0 ∧ a.damaged) then bad stNoObject
        else if dir = 1 ∧ s.versionRoom c.vi x n a = .savedUses then bad stNotPermitted
        else if dir = 1 ∧ a.stale then bad stStale
        else if leAt c.pay 8 8 + a.bytes > r.length then bad stNoResource
        else if dir = 1 ∧ s.versionRoom c.vi x n a = .stepsUse then (s, none)
        else if !s.connOk c.vi r.rc then (s, some (stNoObject, xferReply c.pay a.version a.bytes))
        else
          let s := s.modEntry c.vi c.entry (fun e => { e with state := .running })
          (s.rdma c.vi r.rc (.command c.entry) (decide (dir = 0)) (r.addr + leAt c.pay 8 8) a.bytes c.queue
            (if dir = 0 then a.tensors.flatMap Tensor.record else []), none)
      | _, _ => bad stNoObject

def execAdpSetXfer (p : Packet) (s : State) : Host.Outcome State Fault Refusal :=
  .next (s.takeAs 0x0602 p noStatic effAdpSetXfer)

/-- R30, R286: the transfer of ADP_SET_XFER has ended: with its data it takes effect, and each value that is not finite is
replaced and recorded; without it commits nothing. Log entry 48 (DEDUCED). -/
def State.xferDone (s : State) (v e : Nat) (pay : List Byte) (data : Option (List Byte)) : State :=
  let n := leAt pay 0 2
  match (s.vi? v).bind (fun x => tget x.sets n), data with
  | some a, some bs =>
    let a' := if leAt pay 2 1 = 1 then a.load bs s.now else a
    let s := (s.modVi v (fun x => x.modSet n (fun _ => a'))).reportN { recOf 0x0204 3 v s.now with detail := le 1 1 }
      (if leAt pay 2 1 = 1 then a.nonfinite bs else 0)
    let s := if leAt pay 2 1 = 1 then (s.emitSet v n a').emit v none false (.adpGrad n (a'.tensors.map Tensor.grad) a'.lastTrain) else s
    s.outcome v e stOk (xferReply pay a'.version a'.bytes)
  | some a, none => s.outcome v e stNoObject (xferReply pay a.version a.bytes)
  | none, _ => s.outcome v e stNoObject (xferReply pay 0 0)

/-! ### ADP_FWD_SAVE (R168) -/

def fwdTokens (pay : List Byte) : List Nat := tokensAt pay 12 (leAt pay 4 2)
def fwdTargets (pay : List Byte) : List (Option Nat) :=
  (tokensAt pay (12 + 4 * leAt pay 4 2) (leAt pay 4 2)).map (fun t => if t = 0xFFFFFFFF then none else some t)

/-- R168, R91: the findings that reject an ADP_FWD_SAVE. -/
def staticAdpFwdSave : StaticCheck := fun s c =>
  match s.vi? c.vi with
  | none => none
  | some x =>
    let rep := bareStepReply 0x0604 c.pay c.ts x x.img.gen
    if !s.seqOpen c.vi x (leAt c.pay 0 4) (c.place s) then some (stNoObject, rep)
    else if !kindCount 1 (leAt c.pay 4 2) then some (stBadLength, rep)
    else if (fwdTokens c.pay).any (fun t => decide (x.vocab ≤ t)) ||
        (fwdTargets c.pay).any (fun t => decide (x.vocab ≤ t.getD 0) && t.isSome) then some (stNoObject, rep)
    else none

/-- ADP_FWD_SAVE: a prefill-class step on a training sequence. -/
def effAdpFwdSave : Effect := fun s c =>
  match s.vi? c.vi with
  | none => (s, none)
  | some x =>
    let q := leAt c.pay 0 4
    let bad := fun st => (s, some (st, bareStepReply 0x0604 c.pay c.ts x x.img.gen))
    if ((tget x.seqs q).map Seq.train) = some false then bad stNotPermitted
    else if x.img.held ∧ c.failIfHeld then bad stHeld
    else
      let place := c.place s
      let s := s.touchSeq c.vi q place
      let t := Step.waiting c.vi q .fwdSave (some c.entry) place (fwdTokens c.pay)
      (s.addStep { t with failIfHeld := c.failIfHeld, targets := fwdTargets c.pay,
                          lossScale := fClampOr (BitVec.ofNat 32 (leAt c.pay 8 4)) 0 0x47800000#32 0 }, none)

def execAdpFwdSave (p : Packet) (s : State) : Host.Outcome State Fault Refusal :=
  .next (s.takeAs 0x0604 p staticAdpFwdSave effAdpFwdSave)

/-! ### ADP_BWD (R173) -/

def bwdReply (pay : List Byte) (n : Nat) (sq : F32) (commit : Nat) : List Byte :=
  bytesAt pay 0 4 ++ le 4 n ++ le 4 sq.toNat ++ zeros 4 ++ le 8 commit

/-- ADP_BWD: its first internal step waits for admission; with DISCARD it frees the saved area in its turn (R93).
Log entry 45 (DEDUCED). -/
def effAdpBwd : Effect := fun s c =>
  let q := leAt c.pay 0 4
  let bad := fun st => (s, some (st, bwdReply c.pay 0 0 0))
  match s.vi? c.vi with
  | none => bad stNoObject
  | some x =>
    if !s.seqOpen c.vi x q (c.place s) then bad stNoObject
    else
      if bitOf (leAt c.pay 4 1) 0 then
        (if s.blocked93 c.vi q (c.place s) then (s, none)
         else if ((tget x.seqs q).bind Seq.saved).isNone then bad stNoObject
         else (s.modVi c.vi (fun x => x.modSeq q (fun sq => { sq with saved := none })), some (stOk, bwdReply c.pay 0 0 0)))
      else if x.img.held ∧ c.failIfHeld then bad stHeld
      else
        let place := c.place s
        let s := s.touchSeq c.vi q place
        (s.addStep { Step.waiting c.vi q .backward (some c.entry) place [] with failIfHeld := c.failIfHeld }, none)

def execAdpBwd (p : Packet) (s : State) : Host.Outcome State Fault Refusal := .next (s.takeAs 0x0605 p noStatic effAdpBwd)

/-! ### ADP_UPDATE (R181, R182) -/

/-- R182: one element: master, m, v. -/
def adamElem (p : AdamW) (t : Nat) (k wd : F32) (e m v g0 : F32) : F32 × F32 × F32 :=
  let g := fMul g0 k
  let m := fAdd (fMul p.beta1 m) (fMul (fSub fOne p.beta1) g)
  let v := fAdd (fMul p.beta2 v) (fMul (fMul (fSub fOne p.beta2) g) g)
  let mh := fDiv m (fSub fOne (fPow p.beta1 (fOfInt t)))
  let vh := fDiv v (fSub fOne (fPow p.beta2 (fOfInt t)))
  (fSub e (fMul p.lr (fAdd (fDiv mh (fAdd (fSqrt vh) p.eps)) (fMul wd e))), m, v)

/-- Whether a tensor is a hook matrix. -/
def TensorKind.isHook : TensorKind → Bool
  | .hookA _ _ => true
  | .hookB _ _ => true
  | _ => false

def Tensor.adam (p : AdamW) (t : Nat) (k : F32) (n : Tensor) : Tensor :=
  let r := (List.range (n.rows * n.cols)).map (fun i =>
    adamElem p t k (if n.kind.isHook then p.decay else 0) (vGet n.master i) (vGet n.m i) (vGet n.v i) (vGet n.grad i))
  { n with master := r.map (fun e => e.1), m := r.map (fun e => e.2.1), v := r.map (fun e => e.2.2),
           grad := List.replicate (n.rows * n.cols) 0 }

/-- R180, R182: the compensated sum of squares of vectors. -/
def sqSum (vs : List (List F32)) : F32 := fSum (vs.flatMap (fun v => v.map (fun e => fMul e e)))

/-- R182: the update: the set under its next version, and gn. Log entry 47 (DESIGN CHOICE). -/
def AdpSet.update (a : AdpSet) (p : AdamW) (now : Nat) : AdpSet × F32 :=
  let gn := fSqrt (sqSum (a.tensors.map Tensor.grad))
  let k := if fLt 0 p.clip && fLt p.clip gn then fDiv p.clip gn else fOne
  ({ a with tensors := a.tensors.map (fun n => (n.adam p (a.t + 1) k).publish (a.version + 1)), version := a.version + 1,
            t := a.t + 1, lastVersion := now }, gn)

/-- ADP_UPDATE (R163–R165, R182, R185). -/
def effAdpUpdate : Effect := fun s c =>
  let n := leAt c.pay 0 2
  let p := adamAt c.pay
  let bad := fun st => (s, some (st, updateReply c.pay p 0 0 0 0))
  match s.vi? c.vi with
  | none => bad stNoObject
  | some x =>
    if setBlocked c.vi x n (c.place s) then (s, none)
    else
      match tget x.sets n with
      | none => bad stNoObject
      | some a =>
        if a.damaged then bad stNoObject
        else if s.versionRoom c.vi x n a = .savedUses then bad stNotPermitted
        else if a.stale then bad stStale
        else if s.versionRoom c.vi x n a = .stepsUse then (s, none)
        else
          let r := a.update p s.now
          ((s.modVi c.vi (fun x => x.modSet n (fun _ => r.1))).emitSet c.vi n r.1, some (stOk, updateReply c.pay p r.1.version r.1.t r.2 s.now))

def execAdpUpdate (p : Packet) (s : State) : Host.Outcome State Fault Refusal :=
  .next (s.takeAs 0x0606 p noStatic effAdpUpdate)

end Sys2Proof.Machine
end

