-- ==== Sys2Proof/Machine/Commit.lean ====
section
/-! DEFINITION. How steps end (R98–R100, R141, R147, R151, R173, R180): STEP_COMMIT and STEP_END, and the commands that wait
for steps and pages (R93, R143, R153–R155, R165). -/
namespace Sys2Proof.Machine

/-! ### Commands that wait -/

/-- Commands that take effect in their turn, once what they wait for has ended (R93, R148, R154, R165, R173). -/
def Entry.waits (e : Entry) : Bool :=
  e.state == .accepted && ([0x0401, 0x0403, 0x0501, 0x0502, 0x0503, 0x0601, 0x0602, 0x0603, 0x0606].contains e.opcode ||
    (e.opcode == 0x0605 && bitOf (leAt (pPay e.req) 4 1) 0))

/-- The effect of a command that waits. -/
def waitingEffect (op : Nat) : Effect :=
  match op with
  | 0x0401 => effSeqOpen
  | 0x0403 => effSeqFork
  | 0x0501 => effKvPin
  | 0x0502 => effKvEvict
  | 0x0503 => effKvPrefetch
  | 0x0601 => effAdpSetCreate
  | 0x0602 => effAdpSetXfer
  | 0x0603 => effAdpSetClose
  | 0x0605 => effAdpBwd
  | _ => effAdpUpdate

/-- The waiting commands of all VIs in the order of R309, those of a VI in reset or awaiting replay left out. -/
def State.waitList (s : State) : List (Nat × Nat) :=
  let all := s.vis.flatMap (fun x => (x.2.jrnl.entries.filter (fun e =>
    e.2.waits && !x.2.jrnl.replay.contains e.1 && !s.inReset x.1)).map (fun e => (entryPlace x.1 e.2, x.1, e.1)))
  (sortBy (fun (a b : Place5 × Nat × Nat) => orderLt a.1 b.1) all).map Prod.snd

/-- Try a waiting command again. -/
def State.retryWait (s : State) (w : Nat × Nat) : State :=
  match s.entry? w.1 w.2 with
  | none => s
  | some e => if e.waits then s.runEffect (waitingEffect e.opcode) (cmdOf w.1 w.2 e) else s

/-- R153–R155: KV_PIN and KV_PREFETCH complete once every page is RESIDENT, KV_EVICT once no page is SPILLING. -/
def kvDone (x : Vi) (e : Entry) : Bool :=
  let q := leAt (pPay e.req) 0 4
  e.state == .running &&
    (((e.opcode == 0x0501 || e.opcode == 0x0503) && x.allResident q) ||
      (e.opcode == 0x0502 && (x.seqPages q).all (fun p => p.2.state != .spilling)))

def State.kvWakeVi (s : State) (v : Nat) : State :=
  match s.vi? v with
  | none => s
  | some x => (x.jrnl.entries.filter (fun e => kvDone x e.2)).foldl (fun s e => s.outcome v e.1 stOk e.2.payload) s

/-- R145, R147: what a waiting step or a running KV_PIN or KV_PREFETCH needs starts to come, where room was lacking before. -/
def State.nudge (s : State) : State :=
  let steps := (s.steps.filter (fun e => !e.2.inFlight && e.2.kind != .recompute)).map (fun e => (e.2.vi, e.2.seq, stepPlace e.2))
  let cmds := s.vis.flatMap (fun x => (x.2.jrnl.entries.filter (fun e =>
    e.2.state == .running && (e.2.opcode == 0x0501 || e.2.opcode == 0x0503))).map (fun e =>
      (x.1, leAt (pPay e.2.req) 0 4, entryPlace x.1 e.2)))
  (steps ++ cmds).foldl (fun s (w : Nat × Nat × Place5) => s.touchSeq w.1 w.2.1 w.2.2) s

/-- What follows whenever a step or a transfer of pages has ended. -/
def State.wake (s : State) : State :=
  let s := (tkeys s.vis).foldl (fun s v => s.kvWakeVi v) s
  let s := s.waitList.foldl (fun s w => s.retryWait w) s
  s.nudge

/-- What follows when a step of a VI has ended: teardowns, a barrier's erase, and the waiting commands. -/
def State.afterStep (s : State) (v : Nat) : State := ((s.endWaits v).imgPump v).wake

/-- SPILL_COMPLETE (R144). -/
def execSpillComplete (ts vi page : Nat) (s0 : State) : Host.Outcome State Fault Refusal :=
  .next ((s0.upto ts).spillEnds vi page).wake

/-- FETCH_COMPLETE (R145). -/
def execFetchComplete (ts vi page : Nat) (data : List Byte) (s0 : State) : Host.Outcome State Fault Refusal :=
  .next ((s0.upto ts).fetchEnds vi page data).wake

/-! ### Pages at commit (R141, R151) -/

/-- A new page of a sequence at a layer and index. -/
def State.linkPage (s : State) (v q layer idx : Nat) (pg : Page) : State :=
  s.modVi v (fun x =>
    let id := x.kv.next
    { x with
      kv := { x.kv with pages := tset x.kv.pages id pg, next := id + 1 }
      seqs := tmod x.seqs q (fun sq => { sq with pages := sq.pages.set layer (tset (sq.pages.getD layer []) idx id) }) })

/-- A page of a sequence at a layer is no longer linked. -/
def State.unlinkPage (s : State) (v q layer idx : Nat) : State :=
  s.modVi v (fun x =>
    { x with seqs := tmod x.seqs q (fun sq => { sq with pages := sq.pages.set layer (tdel (sq.pages.getD layer []) idx) }) })

/-- R131, R141 item 3: slots from one to another of a page hold no committed position: they hold zeros. -/
def clearSlots (m : List Host.Cell) (base : Nat) (l : KvLayer) (fmt pos : Nat) (b : BlockPair) (lo hi : Nat) : List Host.Cell :=
  let n := elemBytes l fmt 1 / max 1 (2 * l.heads)
  let z : KvRow := ⟨List.replicate (2 * l.heads) (zeros n), List.replicate (2 * l.heads) (zeros (2 * scaleGroups l fmt))⟩
  (List.range hi).foldl (fun m i => if i < lo then m else writeRows m base l fmt pos i b z) m

/-- R141: write the staged rows of positions lo … hi − 1 of a layer into a page's blocks. -/
def writeStaged (m : List Host.Cell) (base : Nat) (l : KvLayer) (fmt pos layer : Nat) (t : Step) (b : BlockPair) (lo hi : Nat) :
    List Host.Cell :=
  (t.staged.filter (fun e => e.1 == layer && decide (lo ≤ e.2.1) && decide (e.2.1 < hi))).foldl (fun m e =>
    writeRows m base l fmt pos (e.2.1 % pos) b e.2.2) m

/-- R151: whether the tail page must be copied before it is written. -/
def mustCopy (pg : Page) (part : Nat) : Bool := pg.refs.length != 1 || pg.fill != part

/-- R141 item 1, R151: the block pair of a copy: the reserved one, or one from the arenas; none while none is free. -/
def State.copyBlock (s : State) (t : Step) (layer : Nat) (l : KvLayer) (sq : Seq) : Option (Nat × Nat × BlockPair × State) :=
  match t.copies.find? (fun c => c.1 == layer) with
  | some (_, mE, mS, b) => some (mE, mS, b, s)
  | none =>
    let o := pageOrders l sq.fmt sq.pagePos
    match (s.vi? t.vi).bind (fun x => x.kv.t1.takePair? o.1 o.2) with
    | none => none
    | some (b, a) => some (o.1, o.2, b, s.modVi t.vi (fun x => { x with kv := { x.kv with t1 := a } }))

/-- R141 items 1 and 2 at one layer: the tail page, copied where R151 asks for it, takes the positions kept. -/
def State.commitTail (s : State) (k layer : Nat) (l : KvLayer) (t : Step) (sq : Seq) (p p2 : Nat) : Option State :=
  let idx := p / sq.pagePos
  let part := p % sq.pagePos
  let base := t1Base t.vi
  let hi := min p2 ((idx + 1) * sq.pagePos)
  match (tget (sq.pages.getD layer []) idx).bind (fun n => ((s.vi? t.vi).bind (fun x => tget x.kv.pages n)).map (fun g => (n, g))) with
  | none => some s
  | some (n, g) =>
    if part = 0 then some s
    else if mustCopy g part then
      match s.copyBlock t layer l sq, g.t1 with
      | some (mE, mS, b, s), some old =>
        let m := (List.range part).foldl (fun m slot =>
          writeRows m base l sq.fmt sq.pagePos slot b (readRows s.hbm base l sq.fmt sq.pagePos slot old)) s.hbm
        let s := { s with hbm := writeStaged m base l sq.fmt sq.pagePos layer t b p hi }
        let s := s.modStep k (fun t => { t with copies := t.copies.filter (fun c => c.1 != layer) })
        let s := s.linkPage t.vi t.seq layer idx
          { layer := layer, index := idx, state := .resident, refs := [t.seq], pins := [], fill := hi - idx * sq.pagePos,
            t1 := some b, t2 := none, mElem := mE, mScale := mS }
        some (s.unref t.vi t.seq n)
      | _, _ => none
    else
      match g.t1 with
      | none => some s
      | some b =>
        some ({ s with hbm := writeStaged s.hbm base l sq.fmt sq.pagePos layer t b p hi }.modVi t.vi (fun x =>
          x.modPage n (fun g => { g with fill := hi - idx * sq.pagePos })))

/-- R134, R141 item 3: the pages that a sliding layer releases. -/
def State.releaseRing (s : State) (v q layer : Nat) (l : KvLayer) (sq : Seq) (p2 : Nat) : State :=
  if l.window = 0 then s
  else
    let gone := (((s.vi? v).bind (fun x => tget x.seqs q)).map (fun sq => sq.pages.getD layer [])).getD []
    (gone.filter (fun e => decide ((e.1 + 1) * sq.pagePos + l.window ≤ p2 + 1))).foldl (fun s e =>
      (s.unlinkPage v q layer e.1).unref v q e.2) s

/-- R140, R141 item 3: link the reserved blocks of a layer that hold positions kept; those of positions not kept are cleared. -/
def State.linkReserved (s : State) (k layer : Nat) (l : KvLayer) (t : Step) (sq : Seq) (p2 : Nat) : State :=
  let mine := t.reserved.filter (fun r => r.1 == layer && decide (r.2.1 * sq.pagePos < p2) &&
    (l.window == 0 || decide (p2 + 1 ≤ min ((r.2.1 + 1) * sq.pagePos) p2 - 1 + l.window)))
  mine.foldl (fun s r =>
    let lo := r.2.1 * sq.pagePos
    let hi := min (lo + sq.pagePos) p2
    let m := clearSlots s.hbm (t1Base t.vi) l sq.fmt sq.pagePos r.2.2.2.2 (hi - lo) (min (t.p0 + t.tokens.length - lo) sq.pagePos)
    let s := { s with hbm := m }
    let s := s.modStep k (fun t => { t with reserved := t.reserved.filter (fun o => o != r) })
    s.linkPage t.vi t.seq layer r.2.1
      { layer := layer, index := r.2.1, state := .resident, refs := [t.seq], pins := [], fill := hi - lo, t1 := some r.2.2.2.2,
        t2 := none, mElem := r.2.2.1, mScale := r.2.2.2.1 }) s

/-- R141: the pages of every layer; none while a copy waits for its block. -/
def State.commitPages (s : State) (k : Nat) (t : Step) (sq : Seq) (ls : List KvLayer) (p p2 : Nat) : Option State :=
  ((List.range ls.length).zip ls).foldl (fun acc e => acc.bind (fun s =>
    (s.commitTail k e.1 e.2 t sq p p2).map (fun s =>
      (s.releaseRing t.vi t.seq e.1 e.2 sq p2).linkReserved k e.1 e.2 t sq p2))) (some s)

/-! ### What a step returns (R99, R282) -/

/-- R99: drafts accepted in order. -/
def acceptDrafts : List Nat → List Nat → Nat
  | x :: xs, y :: ys => if y = x then acceptDrafts xs ys + 1 else 0
  | _, _ => 0

/-- The tokens sampled, in position order. -/
def Step.sampledTokens (t : Step) : List (Nat × F32) := t.toks.filterMap Tok.sampled

/-- R98, R99: how many positions a finished step keeps. -/
def Step.keeps (t : Step) : Nat :=
  match t.kind with
  | .decode | .verify => acceptDrafts (t.tokens.drop 1) (t.sampledTokens.map Prod.fst) + 1
  | _ => t.tokens.length

/-- R99: the tokens it returns. -/
def Step.returns (t : Step) : List (Nat × F32) :=
  match t.kind with
  | .decode | .verify => t.sampledTokens.take t.keeps
  | .prefill => t.sampledTokens
  | _ => []

/-- R282: the payload of a SEQ_STEP that has committed. -/
def stepReply (t : Step) (now p2 : Nat) : List Byte :=
  le 4 t.seq ++ le 2 t.gen ++ le 2 t.returns.length ++ le 8 t.stamp ++ le 8 now ++ le 4 p2 ++ zeros 4 ++
    t.returns.flatMap (fun r => le 4 r.1 ++ le 4 r.2.toNat)

/-- R285: the payload of an ADP_FWD_SAVE that has committed. -/
def fwdReply (t : Step) (now : Nat) : List Byte :=
  le 4 t.seq ++ le 2 t.gen ++ zeros 2 ++ le 4 ((t.adp.map Prod.snd).getD 0) ++ le 4 (t.targets.filter Option.isSome).length ++
    le 4 (cToF t.loss).toNat ++ zeros 4 ++ le 8 t.stamp ++ le 8 now

/-! ### The three kinds of commit -/

/-- R98: P advances and the tokens of the positions kept enter the token log. Log entry 43 (DEDUCED). -/
def State.advanceSeq (s : State) (t : Step) (p2 kept : Nat) : State :=
  s.modVi t.vi (fun x => x.modSeq t.seq (fun q =>
    { q with p := p2, tokens := q.tokens ++ t.tokens.take kept, last := (t.tokens.take kept).getLast? }))

/-- R180: staged gradients added into the set's GRAD in ascending element order, with LAST_TRAIN_STAMP. -/
def AdpSet.addGrads (a : AdpSet) (gs : List (List F32)) (now : Nat) : AdpSet :=
  { a with lastTrain := now,
           tensors := ((List.range a.tensors.length).zip a.tensors).map (fun e =>
             match gs.getD e.1 [] with
             | [] => e.2
             | g => { e.2 with grad := zipF fAdd e.2.grad g }) }

/-- R171, R172, R180: what ADP_FWD_SAVE leaves: the saved area grown, the head bias's gradient in the set. -/
def State.commitSaved (s : State) (t : Step) (p : Nat) : State :=
  let grow := fun (q : Seq) => match q.saved with
    | none => { q with saved := some ⟨t.gen, (t.adp.map Prod.snd).getD 0, p, t.saved, t.train⟩ }
    | some a => { q with saved := some { a with items := a.items ++ t.saved, bytes := a.bytes + t.train } }
  let s := s.modVi t.vi (fun x => x.modSeq t.seq grow)
  match t.adp with
  | none => s
  | some (n, _) => (s.modVi t.vi (fun x => x.modSet n (fun a => a.addGrads t.grads s.now))).emit t.vi (some t.seq) false
      (.adpGrad n t.grads s.now)

/-- R355: the keys and values of positions of a step as a COMMIT record carries them, by KV layer. -/
def State.mirrorRows (s : State) (x : Vi) (sq : Seq) (t : Step) (lo hi : Nat) : List (Nat × Nat × List (List Byte) × List (List Byte)) :=
  (List.range x.layers.length).flatMap (fun l => (List.range hi).filterMap (fun p =>
    if p < lo then none else (s.rowAt x sq t l p).map (fun r => (l, p, r.elems, r.scales))))

/-- R359: bytes of the records that the send buffer holds; the bodies of pages are held by reference. -/
def bodyBuffer : MirrorBody → Nat
  | .entry h p => h.length + p.bytes.length
  | .outcome _ _ _ _ pay => 40 + pay.length
  | .seqOpen pay => pay.length
  | .commit _ _ tokens _ => 8 + 4 * tokens.length
  | .adpGrad _ gs _ => 10 + sumNat (gs.map (fun g => 4 * g.length))
  | .adpState _ _ _ _ _ _ ts => 10 + sumNat (ts.map (fun t => 12 * t.1 * t.2.1))
  | .recipe _ r _ => 10 + r.length
  | .queue r _ _ acc => 10 + r.length + 4 * acc.length
  | .digest d => d.length
  | _ => 16

def Pair.buffered (p : Pair) : Nat := sumNat (p.unacked.map (fun r => 32 + bodyBuffer r.body))

/-- R359: whether the records of a step's commit fit in the send buffer. -/
def bufferRoom (x : Vi) (t : Step) : Bool :=
  x.pair.role != 1 || !x.pair.sending ||
    decide (x.pair.buffered + 256 + 8 * t.tokens.length + sumNat (t.grads.map (fun g => 4 * g.length)) ≤ 67108864)

/-- STEP_COMMIT of a decode, prefill, verify or ADP_FWD_SAVE step. -/
def State.commitForward (s : State) (k : Nat) (t : Step) (x : Vi) (sq : Seq) : State :=
  let kept := t.keeps
  let p2 := sq.p + kept
  let rows := s.mirrorRows x sq t sq.p p2
  match s.commitPages k t sq x.layers sq.p p2 with
  | none => s.reclaimT1 t.vi
  | some s =>
    let s := (s.advanceSeq t p2 kept).emit t.vi (some t.seq) false (.commit sq.p kept (t.tokens.take kept) rows)
    let s := if t.kind = .fwdSave then s.commitSaved t sq.p else s
    let s := s.dropStep k
    match t.entry with
    | none => s
    | some e => s.outcome t.vi e stOk (if t.kind = .fwdSave then fwdReply t s.now else stepReply t s.now p2)

/-- R147: the pages of one index that a recompute gives back, at one layer: one new page for every sequence that still
references the dropped one. -/
def State.relink (s : State) (k layer : Nat) (t : Step) (d : Drop) (upto lo : Nat) : State :=
  match s.vi? t.vi, t.reserved.find? (fun r => r.1 == layer && r.2.1 == d.index) with
  | some x, some r =>
    let old := x.kv.pages.filter (fun p => p.2.layer == layer && p.2.index == d.index && p.2.state == .dropped &&
      p.2.refs.any d.seqs.contains)
    let refs := distinct (old.flatMap (fun p => p.2.refs))
    if refs = [] then s
    else
      let s := s.modStep k (fun t => { t with reserved := t.reserved.filter (fun o => o != r) })
      let id := x.kv.next
      let pg : Page := { layer := layer, index := d.index, state := .resident, refs := refs, pins := [], fill := upto - lo,
                         t1 := some r.2.2.2.2, t2 := none, mElem := r.2.2.1, mScale := r.2.2.2.1 }
      s.modVi t.vi (fun x =>
        { x with
          kv := { x.kv with next := id + 1, pages := tset (x.kv.pages.filter (fun p => !(tkeys old).contains p.1)) id pg }
          seqs := tmapv x.seqs (fun q sq => if refs.contains q then
            { sq with pages := sq.pages.set layer (tset (sq.pages.getD layer []) d.index id) } else sq) })
  | _, _ => s

/-- STEP_COMMIT of a part of a recompute (R147): the dropped pages that it has computed are linked; the next part follows with
all that has been staged. Log entry 16 (DEDUCED). -/
def State.commitRecompute (s : State) (k : Nat) (t : Step) (x : Vi) (sq : Seq) : State :=
  let stop := t.p0 + t.tokens.length
  let ds := (x.dropsOf t.seq).filter (fun d => decide (max t.keepFrom t.p0 ≤ d.first) && decide (x.dropEnd d ≤ stop))
  let tails := (ds.filter (fun d => decide (x.dropEnd d = sq.p))).map (fun d => (d, s.mirrorRows x sq t d.first sq.p))
  let s := ds.foldl (fun s d => (List.range x.layers.length).foldl (fun s l =>
    s.relink k l t d (x.dropEnd d) (d.index * sq.pagePos)) s) s
  let s := tails.foldl (fun (s : State) (d : Drop × List (Nat × Nat × List (List Byte) × List (List Byte))) =>
    s.emit t.vi (some t.seq) true (.commit d.1.first (sq.p - d.1.first) [] d.2)) s
  let s := (s.modVi t.vi (fun x => { x with kv := { x.kv with drops := x.kv.drops.filter (fun d => !ds.contains d) } })).dropStep k
  if stop < t.keepTo then s.addStep (recomputePart t.vi t.seq sq (stepPlace t) stop t.keepFrom t.keepTo t.staged) else s

/-- STEP_COMMIT of an internal backward step (R173, R177, R180): the next chunk waits, and goes on from the accumulators and the
staging that this one leaves; or the command commits. Log entry 45 (DEDUCED). -/
def State.commitBackward (s : State) (k : Nat) (t : Step) (x : Vi) (sq : Seq) : State :=
  match t.entry, t.entry.bind (fun e => tget x.bwd e) with
  | some e, some b =>
    let grads := t.grads
    if b.first < t.p0 then
      let b' := { b with upto := t.p0, grads := grads, dkv := t.dkv }
      let s := (s.modVi t.vi (fun x => { x with bwd := tset x.bwd e b' })).dropStep k
      s.addStep { Step.waiting t.vi t.seq .backward (some e) (stepPlace t) [] with failIfHeld := t.failIfHeld }
    else
      match sq.set with
      | none => s
      | some n =>
        if setBlocked t.vi x n (stepPlace t) then s
        else
          let s := (s.modVi t.vi (fun x =>
            { (x.modSet n (fun a => a.addGrads grads s.now)).modSeq t.seq (fun q => { q with saved := none }) with
              bwd := tdel x.bwd e })).emit t.vi (some t.seq) false (.adpGrad n grads s.now)
          (s.dropStep k).outcome t.vi e stOk
            (le 4 t.seq ++ le 4 b.total ++ le 4 (sqSum grads).toNat ++ zeros 4 ++ le 8 s.now)
  | _, _ => s

/-- STEP_COMMIT (R98, R106, R141): a step in flight all of whose positions have finished, unless it is to end. -/
def execStepCommit (ts step : Nat) (s0 : State) : Host.Outcome State Fault Refusal :=
  let s := s0.upto ts
  .next (match s.step? step with
    | none => s
    | some t =>
      match s.vi? t.vi with
      | none => s
      | some x =>
        match tget x.seqs t.seq with
        | none => s
        | some sq =>
          if !t.inFlight ∨ t.ending ∨ !t.toks.all Tok.done ∨ 1 < s.pwr.state ∨ s.hbmHeld ∨ !bufferRoom x t then s
          else
            let s := match t.kind with
              | .recompute => s.commitRecompute step t x sq
              | .backward => s.commitBackward step t x sq
              | _ => s.commitForward step t x sq
            s.afterStep t.vi)

/-- R343, R315: whether a step that is to end runs again after the reset of its VI: its command has not been ended by a
teardown. -/
def State.endsForReset (s : State) (t : Step) : Bool :=
  s.err.resets.any (fun r => r.domain == 3 && r.target == t.vi) &&
    (match t.entry with
     | none => true
     | some e => ((s.entry? t.vi e).map Entry.open_) == some true) &&
    (match s.vi? t.vi with
     | none => false
     | some x => x.closing.isNone && !t.closed && !x.ends.any (fun w => w.queue == some t.queue))

/-- STEP_END (R106, R347): a step marked to end has come to its next layer boundary, the last of which is the end of all its
positions. -/
def execStepEnd (ts step : Nat) (s0 : State) : Host.Outcome State Fault Refusal :=
  let s := s0.upto ts
  .next (match s.step? step with
    | none => s
    | some t =>
      if !t.ending ∨ !(t.crossed || t.toks.all Tok.done) then s
      else
        let s :=
          if !s.endsForReset t then s.failStep step stAbandoned
          else if t.entry.isNone then s.requeue step
          else s.dropStep step
        s.afterStep t.vi)

end Sys2Proof.Machine
end

