-- ==== Sys2Proof/Machine/Precision.lean ====
section
/-! DEFINITION. Precision (chapter 09): RECIPE_SET (R222–R226), the flag windows (R218), and the clears of counters (R231,
R232). -/
namespace Sys2Proof.Machine

/-! ### Recipes (R222–R226) -/

/-- R225: the masked fields set and clamped; K_HARD clamped to K_SOFT–64. -/
def maskRecipe (old : Recipe) (mask : Nat) (n : Recipe) (from_ : Nat) : Recipe :=
  let soft := if bitOf mask 5 then fClampOr n.kSoft 0x40000000#32 0x41800000#32 old.kSoft else old.kSoft
  let hard := if bitOf mask 6 then (if fNan n.kHard then old.kHard else fClean n.kHard) else old.kHard
  { rowBand := if bitOf mask 0 then nearestPow2 (clampN n.rowBand 64 1024) else old.rowBand,
    actTrits := if bitOf mask 1 then clampN n.actTrits 2 4 else old.actTrits,
    ovrMode := if bitOf mask 2 then min n.ovrMode 1 else old.ovrMode,
    outlierN := if bitOf mask 3 then min n.outlierN 128 else old.outlierN,
    budgetQ := if bitOf mask 4 then min n.budgetQ 32 else old.budgetQ,
    kSoft := soft, kHard := fMax soft (fMin hard 0x42800000#32), since := from_ }

/-- The record of an index with every change that is pending on it. -/
def ImgState.latestRecipe (m : ImgState) (i : Nat) : Option Recipe :=
  match (m.pendingRecipes.filter (fun e => e.2.1 == i)).getLast? with
  | some e => some e.2.2
  | .none => m.recipes[i]?

/-- RECIPE_SET (R224, R225). Log entry 49 (DEDUCED). -/
def effRecipeSet : Effect := fun s c =>
  let i := leAt c.pay 0 2
  match (s.vi? c.vi).bind (fun x => (x.img.latestRecipe i).map (fun r => (x, r))) with
  | none => (s, some (stNoObject, le 2 i ++ zeros 26))
  | some (x, old) =>
    let from_ := s.nextBoundary
    let r := maskRecipe old (leAt c.pay 2 2) (recipeEntry c.pay 4) from_
    ((s.modImg c.vi (fun m => { m with pendingRecipes := m.pendingRecipes ++ [(from_, i, r)] })).emit c.vi none false
        (.recipe i (recipeBytes r) from_),
      some (stOk, le 2 i ++ le 2 x.img.gen ++ recipeBytes r ++ le 8 from_))

def execRecipeSet (p : Packet) (s : State) : Host.Outcome State Fault Refusal :=
  .next (s.takeAs 0x0801 p noStatic effRecipeSet)

/-- R225, R307: pending recipes come into force. -/
def State.recipeBoundary (s : State) : State :=
  { s with vis := tmapv s.vis (fun _ x =>
      let due := x.img.pendingRecipes.filter (fun e => decide (e.1 ≤ s.now))
      let m := { x.img with recipes := due.foldl (fun rs e => rs.set e.2.1 e.2.2) x.img.recipes,
                            pendingRecipes := x.img.pendingRecipes.filter (fun e => !decide (e.1 ≤ s.now)) }
      { x with img := m }) }

/-! ### Flag windows (R218, R219) -/

/-- R218: the counters with a threshold: cause, its count, and the counts of its denominator. -/
def thresholdTable : List (Nat × Nat × List Nat) :=
  [(1, cOvr, [cBands]), (2, cSat, [cBands]), (3, cZero, [12, cZero]), (4, cSoft, [cBands]), (5, cHard, [cBands]),
    (6, cRepeat, [cBands]), (7, cOutl, [cTokens]), (8, cTovr, [cTbands])]

/-- R218: the denominator of a cause in a window. -/
def denomOf (w : List Nat) (e : Nat × Nat × List Nat) : Nat := sumNat (e.2.2.map (fun i => lget w i 0))

/-- R218: the causes for which a unit's window is evaluated, and of those the causes that flag. -/
def windowCauses (th w : List Nat) : List (Nat × Nat × List Nat) × List Nat :=
  let ev := thresholdTable.filter (fun e => decide (4096 ≤ denomOf w e))
  (ev, (ev.filter (fun e => decide (lget th (e.1 - 1) 0 * denomOf w e < 1000000 * lget w e.2.1 0) &&
    lget th (e.1 - 1) 0 != 0xFFFFFF)).map Prod.fst)

/-- R218: a window whose evaluated counts start again; the others are carried. -/
def windowRest (ev : List (Nat × Nat × List Nat)) (w : List Nat) : List Nat :=
  let gone := ev.flatMap (fun e => e.2.1 :: e.2.2)
  (List.range 13).map (fun i => if gone.contains i then 0 else lget w i 0)

/-- R218, R219: the evaluation of a VI's window, unit by unit in rising number. -/
def State.evalWindow (s : State) (v : Nat) : State :=
  match s.vi? v with
  | none => s
  | some x =>
    x.prec.units.foldl (fun s u =>
      let r := windowCauses x.prec.thresholds u.2.window
      let s := s.modVi v (fun x => { x with prec := { x.prec with
        units := tmod x.prec.units u.1 (fun n => { n with window := windowRest r.1 n.window }) } })
      r.2.foldl (fun s cause => s.raiseFlag v u.1 cause) s) s

/-- R218: a window of a VI that has lasted FLAG_WINDOW boundaries is evaluated, and the next begins.
Log entry 50 (DEDUCED). -/
def State.windowEnds (s : State) (v : Nat) : State :=
  match s.vi? v with
  | none => s
  | some x =>
    if !x.prec.started ∨ x.prec.beat < x.prec.window then s
    else (s.evalWindow v).modVi v (fun x => { x with prec := { x.prec with beat := x.prec.beat - x.prec.window } })

/-- FLAG_WINDOW_END (R218, R307): the evaluation of a window that has ended. A beat boundary makes it in its order, so that after
one nothing is left to evaluate. Log entry 50 (DEDUCED). -/
def execFlagWindowEnd (ts vi : Nat) (s0 : State) : Host.Outcome State Fault Refusal :=
  .next ((s0.upto ts).windowEnds vi)

/-- R218, R306: a window series is discarded; a new one starts at a boundary. Log entry 50 (DEDUCED). -/
def Prec.discard (p : Prec) (started : Bool) : Prec :=
  { p with started := started, beat := 0, units := tmapv p.units (fun _ u => { u with window := List.replicate 13 0 }) }

/-- R218, R307 order 5: a boundary passes for the windows; those that end are evaluated. Log entry 50 (DEDUCED). -/
def State.windowBoundary (s : State) : State :=
  let s := s.modTime (fun t => { t with series := some ((t.series.map (· + 1)).getD 0) })
  let s := { s with vis := tmapv s.vis (fun _ x =>
      { x with prec := if x.prec.started then { x.prec with beat := x.prec.beat + 1 } else { x.prec with started := true, beat := 0 } }) }
  (tkeys s.vis).foldl (fun s v => s.windowEnds v) s

/-! ### Clears and FLAG_WINDOW (R218, R231, R232) -/

/-- R231: the VI whose values the block shows to a VI. -/
def State.precVi (s : State) (v : Nat) : Nat := if v = 0 then s.precView else v

/-- R217, R231: the unit UNIT_SEL shows. Log entry 49 (DEDUCED). -/
def Vi.unitSel (x : Vi) : Nat := min x.sel.unit (((x.img.image.map (fun im => im.units.length)).getD 1) - 1)

/-- CLR_UNIT: the selected unit's counters, those of its window included. -/
def State.clearUnit (s : State) (v : Nat) : State :=
  s.modVi (s.precVi v) (fun x => { x with prec := { x.prec with
    units := tmod x.prec.units x.unitSel (fun u => { u with counts := List.replicate 12 0, window := List.replicate 13 0 }) } })

/-- CLR_ALL: every unit's counters and the VI totals. -/
def State.clearUnits (s : State) (v : Nat) : State :=
  s.modVi (s.precVi v) (fun x => { x with prec := { x.prec with
    totals := List.replicate 12 0,
    units := tmapv x.prec.units (fun _ u => { u with counts := List.replicate 12 0, window := List.replicate 13 0 }) } })

/-- CLR_UNIT (R231, R232): bit 1 of the register. -/
def execClrUnit (ts vi : Nat) (value : Reg) (s0 : State) : Host.Outcome State Fault Refusal :=
  let s := s0.upto ts
  .next (if bitOf value.toNat 1 && !s.gated 3 then s.clearUnit vi else s)

/-- CLR_ALL (R231, R232): bit 0 of the register. -/
def execClrAll (ts vi : Nat) (value : Reg) (s0 : State) : Host.Outcome State Fault Refusal :=
  let s := s0.upto ts
  .next (if bitOf value.toNat 0 && !s.gated 3 then s.clearUnits vi else s)

/-- R218, R231: a write to FLAG_WINDOW: clamped to at least 1, the counts in progress discarded. -/
def State.setWindow (s : State) (v n : Nat) : State :=
  s.modView (s.precVi v) (fun x => { x with prec := { x.prec with window := max 1 (n % 65536) }.discard false })

/-- FLAG_WINDOW_WRITE (R218). -/
def execFlagWindowWrite (ts vi : Nat) (value : Reg) (s0 : State) : Host.Outcome State Fault Refusal :=
  let s := s0.upto ts
  .next (if s.gated 3 then s else s.setWindow vi value.toNat)

end Sys2Proof.Machine
end

