-- ==== Sys2Proof/Machine/Calibration.lean ====
section
/-! DEFINITION. Calibration and trimming (chapter 15): stored sets and interpolation (R377–R379), the rotation (R380, R381),
CAL_RUN, CAL_REQ and CAL_TABLE_READ (R382, R383). -/
namespace Sys2Proof.Machine

/-! ### Interpolation (R377, R379) -/

/-- Round to the nearest integer, halves away from zero. -/
def ratRoundAway (r : Rat) : Int := if 0 ≤ r then (r + 1 / 2).floor else -((1 / 2 - r).floor)

/-- R62: the ranges of DLY_TRIM and OFS_TRIM. -/
def clampDly (v : Int) : Nat := (clampI v 0 63).toNat
def clampOfs (v : Int) : Int := clampI v (-512) 511

/-- R379: the stored sets with non-zero weight at a temperature, with the weights. -/
def trimWeights (t : Rat) : List (Nat × Rat) :=
  if t < 40 then [(0, 1)]
  else if 100 ≤ t then [(4, 1)]
  else
    let k := ((t - 40) / 15).floor.toNat
    let w := (t - (40 + 15 * (k : Rat))) / 15
    if w = 0 then [(k, 1)] else [(k, 1 - w), (k + 1, w)]

/-- The trims of a key in a stored set; a key the store does not list holds the factory values (log entry 6). -/
def storedAt (sets : List Trims) (i key : Nat) : Nat × Int := tgetD (sets.getD i []) key (0, 0)

/-- R379: the value in force for a key at a temperature. -/
def trimAt (sets : List Trims) (t : Rat) (key : Nat) : Nat × Int :=
  let ws := trimWeights t
  let d := ws.foldl (fun (acc : Rat) e => acc + e.2 * ((storedAt sets e.1 key).1 : Rat)) 0
  let o := ws.foldl (fun (acc : Rat) e => acc + e.2 * ((storedAt sets e.1 key).2 : Rat)) 0
  (clampDly (ratRoundAway d), clampOfs (ratRoundAway o))

/-- The keys that any stored set lists. -/
def trimKeys (sets : List Trims) : List Nat :=
  tkeys (sets.foldl (fun (t : Trims) s => s.foldl (fun t e => tset t e.1 e.2) t) [])

/-- R379: the set in force at a temperature. -/
def interpolate (sets : List Trims) (t : Rat) : Trims := (trimKeys sets).map (fun k => (k, trimAt sets t k))

/-- R379, R395: the filtered reading of a die's precise diode, where it is valid. -/
def State.diode (s : State) (d : Nat) : Option F32 :=
  match tget s.mon.filt d with
  | some (v, _, true) => some v
  | _ => none

/-- R379: a yelm is interpolated afresh at a boundary. -/
def State.reinterpolate (s : State) (t : F32) (y : Yelm) : Yelm :=
  { y with trims := interpolate y.stored (fRat t), trimTemp := t, trimStamp := s.now, trimDue := false }

/-- R379: whether T has moved by INTERP_HYST since an interpolation. -/
def State.trimMoved (s : State) (t old : F32) : Bool :=
  decide (mkRat s.cal.interpHyst 16 ≤ (if fRat old ≤ fRat t then fRat t - fRat old else fRat old - fRat t))

/-- R307 order 3, R379: interpolation at a beat boundary, for the yelms that hold something and, by die, for the others.
Log entry 53 (DESIGN CHOICE). -/
def State.trimBoundary (s : State) : State :=
  let s := { s with yelms := tmapv s.yelms (fun k y =>
    let t := (s.diode (dieOfYelm k)).getD y.trimTemp
    if y.trimDue || s.trimMoved t y.trimTemp then s.reinterpolate t y else y) }
  (List.range 48).foldl (fun s d =>
    match s.diode d with
    | none => s
    | some t =>
      let old := (tgetD s.cal.dieTrim d (0x42200000#32, 0)).1
      if s.trimMoved t old then s.modCal (fun b => { b with dieTrim := tset b.dieTrim d (t, s.now) }) else s) s

/-- R327, R377: the trims of a yelm come again from the persistent store. -/
def State.reloadTrims (s : State) (y : Nat) : State := s.modYelm y (fun ye => s.reinterpolate ye.trimTemp ye)

/-! ### Requests (R380, R382) -/

/-- R382: whether a request asks for a yelm, in calibrations that start at a stamp or later. Log entry 52 (DEDUCED). -/
def State.requestStamp (s : State) (r : Nat × Option Nat × List Nat × Nat) : Option Nat :=
  match r.2.1 with
  | none => none
  | some e => (s.entry? r.1 e).map Entry.stamp

/-- R340, R382: VI 0 or a failed converter test asks for a physical yelm. -/
def State.requestCal (s : State) (y : Nat) : State :=
  (s.modYelm y (fun ye => { ye with cal := if ye.cal = 0 then 1 else ye.cal })).modCal (fun b =>
    { b with requests := b.requests ++ [(0, none, [y], 0)] })

/-- CAL_REQ (R382, R385): values above 3,071 and other writers are ignored. -/
def State.calReqWrite (s : State) (vi value : Nat) : State :=
  let y := value % 4096
  if vi ≠ 0 ∨ Config.yelmCount ≤ y then s else s.requestCal y

def execCalReq (ts vi : Nat) (value : Reg) (s0 : State) : Host.Outcome State Fault Refusal :=
  let s := s0.upto ts
  .next (if s.gated 8 then s else s.calReqWrite vi value.toNat)

/-- CAL_RUN (R288, R382). -/
def effCalRun : Effect := fun s c =>
  match s.vi? c.vi with
  | none => (s, some (stNoObject, zeros 8))
  | some x =>
    let n := leAt c.pay 0 2
    let ys := if n = 0xFFFF then x.yelmsOf c.vi else (physYelm c.vi x.part n).toList
    if n ≠ 0xFFFF ∧ ys = [] then (s, some (stNoObject, zeros 8))
    else if ys = [] then (s, some (stOk, zeros 4 ++ le 4 s.cal.setId))
    else
      let s := ys.foldl (fun s y => s.modYelm y (fun ye => { ye with cal := if ye.cal = 0 then 1 else ye.cal })) s
      let s := s.modEntry c.vi c.entry (fun e => { e with state := .running })
      (s.modCal (fun b => { b with
        requests := b.requests.filter (fun r => !(r.1 == c.vi && r.2.1 == some c.entry)) ++ [(c.vi, some c.entry, ys, 0)] }), none)

def execCalRun (p : Packet) (s : State) : Host.Outcome State Fault Refusal := .next (s.takeAs 0x0802 p noStatic effCalRun)

/-- R382: a calibration of a yelm that started at a stamp has ended: the requests that it serves lose the yelm, and those
that have none left complete. Log entry 52 (DEDUCED). -/
def State.serveRequests (s : State) (y start : Nat) (changed : Bool) : State :=
  let serve := fun (r : Nat × Option Nat × List Nat × Nat) =>
    match r.2.1, s.requestStamp r with
    | some _, some t => if r.2.2.1.contains y ∧ t ≤ start then (r.1, r.2.1, r.2.2.1.erase y, r.2.2.2 + b2n changed) else r
    | _, _ => r
  let all := s.cal.requests.map serve
  let done := all.filter (fun r => r.2.2.1.isEmpty)
  let s := s.modCal (fun b => { b with requests := all.filter (fun r => !r.2.2.1.isEmpty && (r.2.1.isNone || (s.requestStamp r).isSome)) })
  done.foldl (fun s r => match r.2.1 with
    | some e => s.outcome r.1 e stOk (le 2 r.2.2.2 ++ zeros 2 ++ le 4 s.cal.setId)
    | none => s) s

/-- R385: what Y_CAL_STATE returns to when a calibration ends. -/
def State.calRest (s : State) (y : Nat) : Nat := b2n (s.cal.requests.any (fun r => r.2.2.1.contains y))

/-! ### The rotation (R380, R381) -/

/-- R307, R380: ROTATION_PASS at a beat boundary, ROT_PERIOD after the start of the pass before. Log entry 52 (DEDUCED). -/
def State.startPass (s : State) : State :=
  s.modCal (fun b => { b with
    passActive := true, passStart := s.now, queue := List.range Config.yelmCount, src := b.srcPend.getD b.src, srcPend := none,
    refUv := b.refUvPend.getD b.refUv, refUvPend := none })

def execRotationPass (ts : Nat) (s0 : State) : Host.Outcome State Fault Refusal :=
  let s := s0.upto ts
  .next (if s.cal.rotEn ∧ !s.cal.passActive ∧ s.now % s.period = 0 ∧ s.pwr.state ≤ 1 ∧ s.pwr.want.isNone ∧
      s.cal.passStart + s.cal.rotPeriod * 1000000000 ≤ s.now then s.startPass else s)

/-- R380: a pass ends when no yelm is left to calibrate. Log entry 52 (DEDUCED). -/
def State.endPass (s : State) : State :=
  if s.cal.passActive ∧ s.cal.queue = [] ∧ !s.yelms.any (fun y => y.2.cal == 1 || y.2.cal == 2) then
    s.modCal (fun b => { b with passActive := false, lastPass := s.now, passCount := bump b.passCount })
  else s

/-- R381: whether a calibration of a yelm may start now. -/
def State.mayCalibrate (s : State) (y : Nat) : Bool :=
  let ye := s.yelm y
  decide (ye.cal ≤ 1) && !ye.resetting && !ye.arrays.any (fun a => a.2.st == .busy) && !s.yelmActive y &&
    !s.err.runs.any (fun r => r.left.any (fun a => a.1 == y))

/-- R380, R382: the yelm that a course calibrates next: requested ones first, then those the pass has left, each the first
that can start. -/
def State.nextCal (s : State) (course : Nat) : Option Nat :=
  let ys := (List.range 16).map (fun i => 16 * course + i)
  if ys.any (fun y => (s.yelm y).cal == 2) then none
  else
    let asked := ys.filter (fun y => (s.yelm y).cal == 1)
    let left := s.cal.queue.filter (fun y => y / 16 == course && (s.yelm y).cal == 0)
    (asked ++ left).find? s.mayCalibrate

/-- YELM_CALIBRATION_START (R375 step 1, R381). -/
def execYelmCalibrationStart (ts yelm : Nat) (s0 : State) : Host.Outcome State Fault Refusal :=
  let s := s0.upto ts
  .next (if s.pwr.state > 1 ∨ s.pwr.want.isSome ∨ s.pulsesOff ∨ s.nextCal (yelm / 16) ≠ some yelm then s
    else
      (s.modYelm yelm (fun ye => { ye with cal := 2, calStart := s.now })).modCal (fun b =>
        { b with queue := b.queue.filter (· != yelm),
                 requests := b.requests.filter (fun r => !(r.2.1.isNone && r.2.2.1.contains yelm)) }))

/-- R375 steps 3–5, R376: the trims that a tap's measurements give, and whether the tap counts in TAP_LIMIT. -/
def tapTrims (f : TapFound) : Nat × Int := (min f.dly 63, clampOfs (ratRoundAway (mkRat (64 * f.codeSum) 1250)))

def tapLimited (f : TapFound) : Bool :=
  let t := tapTrims f
  (decide (250 < f.offsetMilli.natAbs) || decide (500 < f.gainMilliPct.natAbs)) &&
    (t.1 == 0 || t.1 == 63 || t.2 == -512 || t.2 == 511)

/-- YELM_CALIBRATION_END (R373, R375 step 6). Braked, the step in progress is still to be repeated (R381). -/
def execYelmCalibrationEnd (ts yelm : Nat) (found : List TapFound) (s0 : State) : Host.Outcome State Fault Refusal :=
  let s := s0.upto ts
  let ye := s.yelm yelm
  .next (if ye.cal ≠ 2 ∨ s.pulsesOff then s
    else
      let s :=
        if s.cal.refBad then
          let s := s.serveRequests yelm ye.calStart false
          s.modYelm yelm (fun ye => { ye with cal := s.calRest yelm, found := [] })
        else
          (s.modYelm yelm (fun ye =>
            { ye with cal := 3, found := found, calTemp := (s.diode (dieOfYelm yelm)).getD 0x42200000#32 })).modCal (fun b =>
              { b with tapLimit := satAdd b.tapLimit (found.filter tapLimited).length })
      (s.endPass.pumpAllTiles))

/-- R62, R375: the key of a tap in a trim table. -/
def tapKey (f : TapFound) : Nat := f.bank * 1040 + f.conv * 8 + f.tap

/-- R378: one tap's commit: the difference from the value in force goes to each stored set of non-zero weight. -/
def commitTap (t : Rat) (sets : List Trims) (f : TapFound) : List Trims :=
  let k := tapKey f
  let i := trimAt sets t k
  let m := tapTrims f
  let dd := (m.1 : Int) - (i.1 : Int)
  let dofs := m.2 - i.2
  (trimWeights t).foldl (fun (sets : List Trims) w =>
    let old := storedAt sets w.1 k
    sets.set w.1 (tset (sets.getD w.1 []) k (clampDly ((old.1 : Int) + dd), clampOfs (old.2 + dofs)))) sets

/-- CAL_STORE_WRITE_DONE (R377 stage 2, R378): the trims come into force at the next boundary. -/
def execCalStoreWriteDone (ts yelm : Nat) (s0 : State) : Host.Outcome State Fault Refusal :=
  let s := s0.upto ts
  let ye := s.yelm yelm
  .next (if ye.cal ≠ 3 then s
    else
      let sets := ye.found.foldl (commitTap (fRat ye.calTemp)) ye.stored
      let s := s.modCal (fun b => { b with setId := bump b.setId, yelmCals := bump b.yelmCals })
      let s := s.serveRequests yelm ye.calStart (sets != ye.stored)
      (s.modYelm yelm (fun ye => { ye with
        stored := sets, setId := s.cal.setId, lastCal := s.now, trimDue := true, found := [], cal := s.calRest yelm })).endPass)

/-! ### CAL_TABLE_READ (R288, R383) -/

/-- R88, R288: DLY_TRIM in bits [21:16] and OFS_TRIM in bits [9:0]. -/
def trimWord (t : Nat × Int) : Nat := t.1 * 65536 + twos 10 t.2

/-- Nominal temperatures of the stored sets, FP32 (R377). -/
def nominalTemps : List F32 := [0x42200000#32, 0x425C0000#32, 0x428C0000#32, 0x42AA0000#32, 0x42C80000#32]

def effCalTableRead : Effect := fun s c =>
  let n := leAt c.pay 0 2
  let bank := leAt c.pay 2 1
  let set := leAt c.pay 3 1
  let echo := le 2 n ++ le 1 bank ++ le 1 set
  match (s.vi? c.vi).bind (fun x => physYelm c.vi x.part n) with
  | none => (s, some (stNoObject, echo ++ zeros 4168))
  | some y =>
    if bank > 19 ∨ (set > 4 ∧ set ≠ 0xFF) then (s, some (stNoObject, echo ++ zeros 4168))
    else
      let ye := s.yelm y
      let table := if set = 0xFF then ye.trims else ye.stored.getD set []
      let temp := if set = 0xFF then ye.trimTemp else nominalTemps.getD set 0
      let words := (List.range 1040).flatMap (fun i =>
        le 4 (if bank ≥ 16 ∧ i ≥ 1024 then 0 else trimWord (tgetD table (bank * 1040 + i) (0, 0))))
      (s, some (stOk, echo ++ le 4 ye.setId ++ le 4 temp.toNat ++ words))

def execCalTableRead (p : Packet) (s : State) : Host.Outcome State Fault Refusal :=
  .next (s.takeAs 0x0803 p noStatic effCalTableRead)

end Sys2Proof.Machine
end

