-- ==== Sys2Proof/Machine/Power.lean ====
section
/-! DEFINITION. Power, temperature and clocks (chapter 17): the cap and the governor (R404–R409), the brake (R410, R411),
thermal levels and their enforcement (R412–R416), the entry into Doze and Deep (R402, R403), what a loss of power takes
(R243, R403, R451), and the clock references (R419). -/
namespace Sys2Proof.Machine

/-! ### Notices and deadlines -/

/-- The VIs that are open. -/
def State.openVis (s : State) : List Nat := (s.vis.filter (fun e => e.2.closing.isNone)).map Prod.fst

/-- A notice to every open VI (R405, R414). Log entry 57 (DEDUCED). -/
def State.noticeAll (s : State) (op : Nat) (pay : List Byte) : State := s.openVis.foldl (fun s v => s.notice v op pay) s

/-- The first beat boundary at or after a stamp, and never one that has passed (R308). -/
def State.boundaryAt (s : State) (t : Nat) : Nat := max s.nextBoundary (ceilDiv t s.period * s.period)

/-- R396, R414: THERM_ALERT_L and THERM_TRIP_L follow the sentinel's latches and the warning state. -/
def State.syncPins (s : State) : State :=
  let alert := s.mon.alert || s.pwr.dies.any (fun d => d.2.warn)
  { s with pins := { s.pins with thermAlertL := !alert, thermTripL := !s.mon.trip } }

/-! ### The cap (R405) -/

/-- R294: CAP_W to 200–850 W, then to the nearest multiple of 5 W. -/
def clampCap (w : Nat) : Nat := (clampN w 200 850 + 2) / 5 * 5

/-- PWR_CAP_SET (R294, R405). -/
def effPwrCapSet : Effect := fun s c =>
  let w := clampCap (leAt c.pay 0 2)
  let low := decide (w < s.pwr.capEnf)
  let from_ := if low then s.boundaryAt (c.ts + s.pwr.graceMs * 1000000) else s.nextBoundary
  let s := s.modPwr (fun b => { b with capReq := w, capFrom := from_, pendCap := some (from_, w) })
  let s := if low then
      (s.noticeAll 0x0D81 (le 2 w ++ zeros 2 ++ le 4 s.pwr.power.toNat ++ le 8 from_)).modPwr (fun b =>
        { b with notices := satAdd b.notices s.openVis.length })
    else s
  (s, some (stOk, le 2 w ++ zeros 2 ++ le 8 from_))

def execPwrCapSet (p : Packet) (s : State) : Host.Outcome State Fault Refusal := .next (s.takeAs 0x0D01 p noStatic effPwrCapSet)

/-! ### The governor (R404, R406, R407, R409) -/

/-- R395: one step of the filter of a quantity, exact and rounded once. Log entry 65 (DESIGN CHOICE). -/
def filterStep (old : Option (F32 × Nat)) (now tau : Nat) (x : Rat) : F32 :=
  match old with
  | none => fOfRat x
  | some (y, t) => fOfRat (fRat y + (x - fRat y) * min 1 (mkRat (now - t) tau))

/-- R404: package power, exact. Log entry 65 (DESIGN CHOICE). -/
def railPower (rails : List RailSample) : Rat := rails.foldl (fun (p : Rat) r => p + fRat r.volts * fRat r.amps) 0

/-- R404: one sample of the rails: POWER_W, ENERGY_MJ and the rail fields. Log entry 65 (DESIGN CHOICE). -/
def State.powerSample (s : State) (rails : List RailSample) : State :=
  let p := railPower rails
  s.modPwr (fun b =>
    let dt := s.now - b.lastTick.getD s.now
    let mj := b.energyFrac + p * (dt : Rat) / 1000000
    { b with power := filterStep (b.lastTick.map (fun t => (b.power, t))) s.now 100000 p, lastTick := some s.now,
             energyMj := b.energyMj + mj.floor.toNat, energyFrac := mj - (mj.floor : Rat),
             rails := (List.range 9).map (fun i => match rails[i]? with
               | some r => (fMul r.volts r.amps, r.amps)
               | none => b.rails.getD i (0, 0)) })

/-- R406: POWER_W against CAP_ENF_W. -/
def PwrBlk.tooHigh (b : PwrBlk) : Bool := decide ((b.capEnf : Rat) < fRat b.power)
def PwrBlk.under (b : PwrBlk) : Bool := decide (fRat b.power < mkRat 97 100 * (b.capEnf : Rat))

/-- R406: the governor's step of GOV_LIT. -/
def govern (now : Nat) (b : PwrBlk) : PwrBlk :=
  if b.tooHigh then { b with govLit := max 1 (b.govLit - 1), lowSince := none }
  else if !b.under then { b with lowSince := none }
  else
    match b.lowSince with
    | none => { b with lowSince := some now }
    | some t => if t + 100000 ≤ now then { b with govLit := min 16 (b.govLit + 1), lowSince := some now } else b

/-- GOVERNOR_TICK (R404, R406). -/
def execGovernorTick (ts : Nat) (rails : List RailSample) (s0 : State) : Host.Outcome State Fault Refusal :=
  let s := s0.upto ts
  .next (if s.pwr.state > 1 ∨ !s.pins.mainUp then s else (s.powerSample rails).modPwr (govern s.now))

/-- R407: the governor's admission limit at a boundary; `prev` steps were admitted in the beat that ends. -/
def governAdmit (prev : Nat) (b : PwrBlk) : PwrBlk :=
  if b.govLit = 1 ∧ b.tooHigh then
    let n := max 1 (3 * prev / 4)
    { b with govAdmit := some (match b.govAdmit with
      | some l => min l n
      | none => n) }
  else
    match b.govAdmit with
    | some l =>
      if b.under then
        let n := ceilDiv (5 * l) 4
        { b with govAdmit := if 512 < n then none else some n }
      else b
    | none => b

/-- R421: CAP_BINDING. -/
def PwrBlk.binding (b : PwrBlk) : Bool := decide (b.govLit < 16) || b.govAdmit.isSome

/-! ### Temperature (R412–R415) -/

/-- A die that nothing has sampled. -/
def DieBlk.cold : DieBlk := ⟨40000, false, false, 0, none, false, 16, 0⟩

/-- THERM_SET (R294, R413). Log entry 57 (DEDUCED). -/
def effThermSet : Effect := fun s c =>
  let b := s.pwr
  let pick := fun (o old top : Nat) => if leAt c.pay o 1 = 0 then old else min (leAt c.pay o 1) top
  let sd := max 60 (pick 2 b.shutdownC 112)
  let th := max 60 (min sd (pick 1 b.throttleC 102))
  let wa := max 60 (min th (pick 0 b.warnC 95))
  let g := clampN (leAt c.pay 4 2) 10 2000
  let from_ := (s.now / 10000 + 1) * 10000
  (s.modPwr (fun b => { b with warnC := wa, throttleC := th, shutdownC := sd, graceMs := g }),
    some (stOk, le 1 wa ++ le 1 th ++ le 1 sd ++ zeros 1 ++ le 2 g ++ zeros 2 ++ le 8 from_))

def execThermSet (p : Packet) (s : State) : Host.Outcome State Fault Refusal := .next (s.takeAs 0x0D02 p noStatic effThermSet)

/-- R414: a notice of a trip. -/
def State.thermalNotice (s : State) (die level : Nat) (temp : Int) (deadline : Nat) : State :=
  s.noticeAll 0x0D80 (le 1 die ++ le 1 level ++ zeros 2 ++ le 4 (fOfRat (mkRat temp 1000)).toNat ++ le 8 deadline)

/-- R413: temperatures in 1/1,000 °C of a level and of its clear level. -/
def trips (temp : Int) (c : Nat) : Bool := decide ((1000 * c : Int) ≤ temp)
def clears (temp : Int) (c : Nat) : Bool := decide (temp < 1000 * (c : Int) - 5000)

/-- R413, R414: the warning level of a die at a sample. -/
def State.warnSample (s : State) (die : Nat) (temp : Int) : State :=
  let d := tgetD s.pwr.dies die .cold
  if !d.warn ∧ trips temp s.pwr.warnC then
    (s.modPwr (fun b => { b with
      dies := tset b.dies die { d with warn := true }, warnSeen := true, warnEvents := bump b.warnEvents })).thermalNotice die 1 temp 0
  else if d.warn ∧ clears temp s.pwr.warnC then s.modPwr (fun b => { b with dies := tset b.dies die { d with warn := false } })
  else s

/-- R413, R414: the throttle level of a die at a sample. -/
def State.throttleSample (s : State) (die : Nat) (temp : Int) : State :=
  let d := tgetD s.pwr.dies die .cold
  if !d.throt ∧ trips temp s.pwr.throttleC then
    let dl := s.boundaryAt (s.now + s.pwr.graceMs * 1000000)
    (s.modPwr (fun b => { b with
      dies := tset b.dies die { d with throt := true, deadline := some dl, before := lget b.admitted 1 0 },
      throttleSeen := true, throttleEvents := bump b.throttleEvents })).thermalNotice die 2 temp dl
  else if d.throt ∧ clears temp s.pwr.throttleC then s.modPwr (fun b => { b with dies := tset b.dies die { d with throt := false } })
  else s

/-- R414: one die at a boundary: its deadline, and the halving, holding and rising of its limit. -/
def dieBoundary (now throttleC : Nat) (d : DieBlk) : DieBlk :=
  let due : Bool := match d.deadline with
    | some t => decide (t ≤ now)
    | none => false
  let cleared := clears d.temp throttleC
  let d := if due then { d with deadline := none } else d
  if due ∧ !cleared then { d with enforcing := true, lit := max 1 (d.lit / 2) }
  else if !d.enforcing then d
  else if trips d.temp throttleC then { d with lit := max 1 (d.lit / 2) }
  else if cleared then
    let l := min 16 (d.lit + 2)
    { d with lit := l, enforcing := decide (l < 16) }
  else d

/-- R414: the thermal admission limit. -/
def thermAdmitOf (dies : Tbl DieBlk) : Option Nat :=
  match dies.filter (fun d => d.2.enforcing) with
  | [] => none
  | e :: es =>
    let lit := (es.foldl (fun n d => min n d.2.lit) e.2.lit)
    let before := (es.foldl (fun n d => min n d.2.before) e.2.before)
    some (max 1 (before * lit / 16))

/-- R307 order 7: the cap, the throttle deadlines and the governor's admission limit at a boundary. -/
def State.powerBoundary (s : State) : State :=
  if s.pwr.state > 1 then s
  else
    s.modPwr (fun b =>
      let b := match b.pendCap with
        | some (t, w) => if t ≤ s.now then { b with capEnf := w, pendCap := none } else b
        | none => b
      let dies := tmapv b.dies (fun _ d => dieBoundary s.now b.throttleC d)
      let b := governAdmit (lget b.admitted 0 0) { b with dies := dies, thermAdmit := thermAdmitOf dies }
      { b with capBeats := if b.binding then bump b.capBeats else b.capBeats })

/-- R421: the highest digital die temperature, with its die. -/
def PwrBlk.hot (b : PwrBlk) : Option (Nat × Int) :=
  b.dies.foldl (fun (h : Option (Nat × Int)) d =>
    match h with
    | some (_, t) => if t < d.2.temp then some (d.1, d.2.temp) else h
    | none => some (d.1, d.2.temp)) none

/-- R421: 1/16 °C from 1/1,000 °C, rounded half away from zero. -/
def sixteenths (t : Int) : Int := ratRoundAway (mkRat (16 * t) 1000)

/-- R409: a limit is in force. -/
def State.trimming (s : State) : Bool :=
  decide (s.pwr.govLit < 16) || s.pwr.dies.any (fun d => decide (d.2.lit < 16)) || s.pwr.admitLimit.isSome || s.pwr.brakeOn

/-- R402, R421: PWR_STATE. -/
def State.powerState (s : State) : Nat := if s.pwr.state = 0 ∧ s.trimming then 1 else s.pwr.state

/-! ### What a loss of power takes (R243, R403, R451) -/

/-- R39, R199: what a yelm keeps without power: cells, spares, retirements, marks, trims; nothing that was in progress. -/
def Yelm.unpowered (y : Yelm) : Yelm :=
  { y with
    accHold := false, corrBypass := false, input := [], acc := [], output := [], recv := [], cache := [], reads := [],
    litNow := 0, resetting := false, cal := 0, found := [], transposeCycles := 0, tiles := [],
    arrays := tmapv y.arrays (fun _ a =>
      let a := { a with retire := none, v := 0, pg := 0, h := 0 }
      match a.st with
      | .lit | .transpose => { a with st := .idle }
      | .busy => { a with st := match a.prog.map Prog.job with
                            | some (.refresh _) => .idle
                            | _ => .spare, prog := none }
      | _ => a) }

/-- R199, R200, R243: a VI as it returns: its records, the mapping of its arrays, image generation 0, queue 0 with a tag one
above its last. Log entry 60 (DEDUCED). -/
def Vi.reborn (x : Vi) (q0 : Nat) : Vi :=
  let v := Vi.fresh x.addr x.part q0
  { v with img := { ImgState.none with lastGen := x.img.lastGen, units := x.img.units, map := x.img.map } }

/-- R243: every VI comes back by its records; VI 0 has no T1 arenas. Log entry 60 (DEDUCED). -/
def State.rebornVis (s : State) : State :=
  let tag := fun v => tgetD s.store.q0Tags v 0 % 65535 + 1
  { s with
    vis := tmapv s.vis (fun v x => let y := x.reborn (tag v); if v = 0 then { y with kv := .empty 0 } else y)
    store := { s.store with q0Tags := s.vis.foldl (fun t e => tset t e.1 (tag e.1)) s.store.q0Tags } }

/-- R403, R451: what goes when the main rails go: HBM with the journals and pages, everything on the ridge and the yelms that is
not in arrays or in the persistent store. Log entry 42 (DEDUCED), 59 (DEDUCED), 96 (DESIGN CHOICE). -/
def State.darken (s : State) : State :=
  let s := s.linksGone.rebornVis
  { s with
    steps := [], waves := [], hbm := [], net := .reset,
    yelms := tmapv s.yelms (fun _ y => y.unpowered),
    err := { s.err with ring := .empty, missed := 0, sinceRidge := none, outOfService := false, starts := [], packs := [],
                        runs := [], resets := [] },
    cal := { s.cal with passActive := false, queue := [], requests := [] },
    clk := { s.clk with clkEn := 0x7FF, ywinEn := 0xFFF },
    sec := { s.sec with batch := [], batchStart := none, waitingBatches := [], fwPackage := none, recovery := none },
    precView := 0, pairView := 0 }

/-! ### Doze and Deep (R402, R403, R415) -/

/-- R399, R233: the logical port that listens in Doze. -/
def State.wakePort (s : State) : Nat := if s.portExists s.mon.wakeLport then s.mon.wakeLport else s.mon.wakeLport / 4 * 4

/-- R397: the lowest level margin among a yelm's arrays that hold an image. -/
def Yelm.lowMargin (y : Yelm) : Option F32 :=
  bestBy fLt ((y.arrays.filter (fun a => a.2.idx.isSome && a.2.st != .retired)).map (fun a => a.2.margin))

/-- R397: on leaving Run the sentinel records the margins with a dose of 0. -/
def State.recordMargins (s : State) : State :=
  if s.pwr.state > 1 then s
  else s.modMon (fun b => { b with
    margins := s.yelms.filterMap (fun y => y.2.lowMargin.map (fun m => (y.1, (m, (0 : F32), s.now)))) })

/-- R314: a checkpoint of every VI's journal, in two copies. -/
def State.checkpoint (s : State) : State :=
  { s with vis := tmapv s.vis (fun _ x =>
      let j := x.jrnl
      let c : Checkpoint :=
        { head := (j.entries.head?.map Prod.fst).getD j.next, tail := j.next,
          stamp := j.entries.foldl (fun t e => max t e.2.stamp) 0, windows := x.queues.map (fun q => (q.1, q.2.win)) }
      { x with jrnl := { j with ckptA := c, ckptB := c } }) }

/-- What holds of the power block while the device sleeps. Log entry 59 (DEDUCED). -/
def PwrBlk.asleep (b : PwrBlk) (state : Nat) : PwrBlk :=
  { b with state := state, want := none, dies := [], govLit := 16, govAdmit := none, thermAdmit := none, lowSince := none,
           lastTick := none, power := if state = 3 then 0 else b.power, brakeOn := false, brakeLit := 16, admitted := [0, 0] }

/-- R403: into Doze: yelms, engines and ports but WAKE_LPORT go off; HBM keeps. Log entry 59 (DEDUCED), 97 (DESIGN CHOICE). -/
def State.enterDoze (s : State) : State :=
  let keep := s.net.linkUp &&& 2 ^ s.wakePort
  let s := (List.range 2).foldl (fun s p => if s.wakePort = 4 * p then s else s.sourceLost p) s
  let s := s.recordMargins.modPwr (fun b => b.asleep 2)
  { s with net := { s.net with linkUp := keep, paused := [], blocked := [], xoffSent := [] },
           yelms := tmapv s.yelms (fun _ y => y.unpowered) }

/-- R403, R452: into Deep: only the sarking die keeps; PWR_REQ goes low. Log entry 59 (DEDUCED). -/
def State.enterDeep (s : State) : State :=
  let s := (List.range 2).foldl (fun s p => s.sourceLost p) s
  let s := (s.recordMargins.modPwr (fun b => b.asleep 3)).darken
  let dark := fun i => decide (64 ≤ i) && i != 72 && i != 73 && i != 74
  let s := s.modMon (fun b => { b with filt := b.filt.map (fun f => if dark f.1 then (f.1, f.2.1, f.2.2.1, false) else f) })
  { s with pins := { s.pins with pwrReq := false } }

/-- R398: the earliest source that fires wakes a sleeping device; while a state is being entered it is kept until then. -/
def State.wakeBy (s0 : State) (cause : Nat) : State :=
  let s := s0.modPwr (fun b => { b with back := if cause = 5 then b.back else none })
  if s.mon.trip ∨ (s.pwr.state = 3 ∧ s.pwr.trippedPrev ∧ 2 < cause) then s0
  else if s.pwr.state ≤ 1 then
    (if s.pwr.want.isSome ∧ s.pwr.wakePend.isNone then s.modPwr (fun b => { b with wakePend := some cause }) else s)
  else if s.pwr.waking then s
  else
    let s := (s.modPwr (fun b => { b with waking := true })).modMon (fun b =>
      { b with wakeCause := cause, wakes := bump b.wakes })
    { s with pins := { s.pins with pwrReq := true } }

/-- R415: a shutdown trip. -/
def State.shutdown (s : State) (die : Nat) (t16 : Int) : State :=
  let s := (s.modMon (fun b => { b with trip := true, maintActive := false })).modPwr (fun b =>
    { b with tripDie := die, tripTemp := t16, tripStamp := s.now, trippedPrev := true, waking := false, wakePend := none, back := none })
  (if s.pwr.state = 3 then { s with pins := { s.pins with pwrReq := false } } else s.enterDeep).syncPins

/-- THERMAL_SAMPLE (R412–R414). The digital sensors have power in Run and Trim alone. Log entry 17 (DESIGN CHOICE), 57
(DEDUCED). -/
def execThermalSample (ts die : Nat) (temp : Int) (s0 : State) : Host.Outcome State Fault Refusal :=
  let s := s0.upto ts
  .next (if s.pwr.state > 1 ∨ !s.pins.mainUp ∨ Config.dieCount ≤ die then s
    else
      let hot := if trips temp s.pwr.shutdownC then (tgetD s.pwr.dies die .cold).hot + 1 else 0
      let s := s.modPwr (fun b => { b with
        dies := tset b.dies die { (tgetD b.dies die .cold) with temp := temp, hot := hot } })
      if 2 ≤ hot then s.shutdown die (sixteenths temp)
      else ((s.warnSample die temp).throttleSample die temp).syncPins)

/-- PWR_STATE_SET (R294, R402, R403): the reply to Doze or Deep leaves when the state is entered. Log entry 59 (DEDUCED). -/
def effPwrStateSet : Effect := fun s c =>
  let st := leAt c.pay 0 1
  let rep := le 1 st ++ zeros 3
  if st = 0 then (s, some (stOk, rep ++ le 8 s.now))
  else if st ≠ 2 ∧ st ≠ 3 then (s, some (stNoObject, rep ++ zeros 8))
  else
    (s.modPwr (fun b => { b with want := some (st, ((b.want.map Prod.snd).getD []).filter (· != c.entry) ++ [c.entry]) }), none)

def execPwrStateSet (p : Packet) (s : State) : Host.Outcome State Fault Refusal :=
  .next (s.takeAs 0x0D03 p noStatic effPwrStateSet)

/-- R398, R403: what an entry into Doze or Deep waits for. -/
def State.drained (s : State) : Bool :=
  !s.steps.any (fun e => e.2.inFlight) && s.err.runs.isEmpty && s.err.resets.isEmpty &&
    !s.yelms.any (fun y => y.2.cal == 2 || y.2.cal == 3 || y.2.arrays.any (fun a => a.2.st == .busy || a.2.due)) &&
    s.vis.all (fun x => x.2.img.op.isNone && x.2.img.refresh.isEmpty)

/-- R403: the reply with FROM_STAMP, sent before the device powers down. -/
def State.replyEntry (s : State) (st e : Nat) : State :=
  let s := s.outcome 0 e stOk (le 1 st ++ zeros 3 ++ le 8 s.now)
  match s.vi? 0 with
  | none => s
  | some x =>
    match tget x.jrnl.entries e with
    | none => s
    | some n =>
      match tget x.queues n.queue with
      | none => s
      | some q => if n.state = .recorded then s.sendOne 0 n.queue e x q n else s

/-- POWER_STATE_ENTRY (R403): the drain has ended. -/
def execPowerStateEntry (ts : Nat) (s0 : State) : Host.Outcome State Fault Refusal :=
  let s := s0.upto ts
  .next (match s.pwr.want with
    | none => s
    | some (st, es) =>
      if s.pwr.state > 1 ∨ !s.drained then s
      else
        let s := es.foldl (fun s e => s.replyEntry st e) s.checkpoint
        let pend := s.pwr.wakePend
        let s := (if st = 3 then s.enterDeep else s.enterDoze).modPwr (fun b => { b with
          trippedPrev := if st = 3 then false else b.trippedPrev, wakePend := none })
        let s := s.syncPins
        match pend with
        | some c => s.wakeBy c
        | none => s)

/-! ### The brake (R410, R411) -/

/-- PBRAKE_ASSERT (R410): no effect in Doze or Deep. -/
def execPbrakeAssert (ts : Nat) (s0 : State) : Host.Outcome State Fault Refusal :=
  let s := s0.upto ts
  let s := { s with pins := { s.pins with pbrakeL := false } }
  .next (if s.pwr.state > 1 ∨ s.pwr.brakeOn then s
    else s.modPwr (fun b => { b with
      brakeOn := true, brakeSeen := true, brakeEvents := bump b.brakeEvents, brakeStart := s.now, brakeLit := 0 }))

/-- PBRAKE_RELEASE (R411): the brake's share of LIT_LIMIT rises from 1. -/
def execPbrakeRelease (ts : Nat) (s0 : State) : Host.Outcome State Fault Refusal :=
  let s := s0.upto ts
  let s := { s with pins := { s.pins with pbrakeL := true } }
  .next (if !s.pwr.brakeOn then s
    else (s.modPwr (fun b => { b with
      brakeOn := false, brakeLit := 1, brakeUs := satAdd b.brakeUs ((s.now - b.brakeStart) / 1000) })).pumpAllTiles)

/-- BRAKE_RAMP_TICK (R411). -/
def execBrakeRampTick (ts : Nat) (s0 : State) : Host.Outcome State Fault Refusal :=
  let s := s0.upto ts
  .next (if s.pwr.brakeOn then s else s.modPwr (fun b => { b with brakeLit := min 16 (b.brakeLit + 1) }))

/-! ### Clock references (R418, R419) -/

/-- R418: the PLLs that a reference feeds: 0 REFCLK, 1 and 2 the SerDes references of the ports. -/
def pllsOf (ref : Nat) : List Nat := if ref = 0 then [0, 1, 2, 3, 4, 5, 6] else [6 + ref]

/-- R418: the frequency a PLL coasts at: HBM is in self-refresh and links are down without theirs. -/
def coastMhz (pll : Nat) : Nat := if pll < 6 then Config.coastMhz else 0

/-- REF_LOSS (R419). -/
def execRefLoss (ts ref : Nat) (s0 : State) : Host.Outcome State Fault Refusal :=
  let s := s0.upto ts
  .next (if 2 < ref ∨ !lget s.clk.refOk ref false then s
    else
      let b := s.clk
      let s := { s with clk := { b with
        refOk := b.refOk.set ref false, relock := b.relock.set ref false, coast := 1, lossEvents := bump b.lossEvents,
        pllState := (pllsOf ref).foldl (fun ps i => ps.set i 3) b.pllState,
        pllMhz := (pllsOf ref).foldl (fun ps i => ps.set i (coastMhz i)) b.pllMhz,
        coastStart := match b.coastStart with
          | some t => some t
          | none => some s.now } }
      if ref = 0 then s else (List.range 4).foldl (fun s i => s.dropLink (4 * (ref - 1) + i)) s)

/-- REF_RETURN (R419): the PLLs relock at the next beat boundary. -/
def execRefReturn (ts ref : Nat) (s0 : State) : Host.Outcome State Fault Refusal :=
  let s := s0.upto ts
  .next (if 2 < ref ∨ lget s.clk.refOk ref false then s
    else { s with clk := { s.clk with refOk := s.clk.refOk.set ref true, relock := s.clk.relock.set ref true } })

/-- R419: relocking at a boundary; COAST_US counts the time that any PLL coasted. -/
def State.clockBoundary (s : State) : State :=
  let b := s.clk
  let plls := (List.range 3).flatMap (fun r => if lget b.relock r false then pllsOf r else [])
  let st := plls.foldl (fun ps i => ps.set i 2) b.pllState
  let done := !st.contains 3
  { s with clk := { b with
    relock := [false, false, false], pllState := st, pllMhz := plls.foldl (fun ps i => ps.set i (lget Config.pllMhz i 0)) b.pllMhz,
    coastUs := (match b.coastStart with
      | some t => if done then satAdd b.coastUs ((s.now - t) / 1000) else b.coastUs
      | none => b.coastUs),
    coastStart := if done then none else b.coastStart } }

end Sys2Proof.Machine
end

