-- ==== Sys2Proof/Machine/Sentinel.lean ====
section
/-! DEFINITION. The sentinel and the monitor converter (chapter 16): conversions, filters and what the sentinel decides
(R387–R397), and the sources that wake the device (R398, R399, R401). -/
namespace Sys2Proof.Machine

/-! ### Entries (R391–R394, R400) -/

/-- R393, R400: the configuration word of an entry from its fields. -/
def cfgWord (scan ref avg gain sub ch : Nat) : Nat :=
  scan * 2 ^ 22 + ref * 2 ^ 20 + avg * 2 ^ 16 + gain * 2 ^ 14 + sub * 2 ^ 6 + ch

/-- R393: the fixed program of entries 0–13; entries 14–23 hold nothing. -/
def sentinelCfg (src e : Nat) : Nat :=
  match e with
  | 0 => cfgWord 0 0 4 0 0 0
  | 1 => cfgWord 0 2 4 0 0 (if src = 0 then 0 else 1)
  | 11 => cfgWord 0 0 4 0 0 11
  | 12 => cfgWord 1 3 2 0 0 16
  | 13 => cfgWord 1 3 2 0 0 17
  | _ => if 2 ≤ e ∧ e ≤ 10 then cfgWord 0 0 2 0 0 e else 0

/-- R400: the configuration in force of an entry. -/
def State.seqCfg (s : State) (e : Nat) : Nat := if e < 24 then sentinelCfg s.cal.src e else lget s.mon.cfg e 0

def cfgScan (w : Nat) : Bool := bitOf w 22
def cfgRef (w : Nat) : Nat := bitsOf w 21 20
def cfgAvg (w : Nat) : Nat := bitsOf w 19 16
def cfgGain (w : Nat) : Nat := bitsOf w 15 14
def cfgSub (w : Nat) : Nat := bitsOf w 13 6
def cfgCh (w : Nat) : Nat := bitsOf w 5 0

/-- R400: a configuration as it is written: AVG at most 8, SUB within its channel. -/
def cfgClamp (v : Nat) : Nat :=
  let ch := cfgCh v
  let sub := if ch = 16 then min (cfgSub v) 63 else if ch = 17 then min (cfgSub v) 191 else cfgSub v
  cfgWord (b2n (cfgScan v)) (cfgRef v) (min (cfgAvg v) 8) (cfgGain v) sub ch

/-- R391, R393, R394: whether an entry is enabled. -/
def State.seqOn (s : State) (e : Nat) : Bool := decide (e < 14) || (decide (24 ≤ e) && decide (e < 32) && bitOf s.mon.userEn (e - 24))

/-- R389: whether a channel has power: in Deep the sarking die's own alone. Log entry 54 (DEDUCED). -/
def State.chanOn (s : State) (ch : Nat) : Bool :=
  s.pwr.state != 3 || !((decide (2 ≤ ch) && decide (ch ≤ 9)) || (decide (17 ≤ ch) && decide (ch ≤ 47)))

def State.seqRuns (s : State) (e : Nat) : Bool := s.seqOn e && s.chanOn (cfgCh (s.seqCfg e))

/-- R391: the SUB with which an entry's scan ends. -/
def scanLast (w : Nat) : Option Nat :=
  if !cfgScan w then none else if cfgCh w = 16 then some 63 else if cfgCh w = 17 then some 191 else none

/-- SEQ_CFG_WRITE (R392, R393, R400): user entries, by VI 0. -/
def State.seqCfgSet (s : State) (vi e value : Nat) : State :=
  if vi ≠ 0 ∨ e < 24 ∨ 31 < e then s
  else s.modMon (fun b => { b with cfgPend := tset b.cfgPend e (cfgClamp value), res := b.res.set e (lget b.res e 0 % 2 ^ 31) })

def execSeqCfgWrite (ts vi entry : Nat) (value : Reg) (s0 : State) : Host.Outcome State Fault Refusal :=
  .next ((s0.upto ts).seqCfgSet vi entry value.toNat)

/-! ### Conversion (R388, R390, R392) -/

/-- R388: code and over-range flag of one conversion; the ratio V / V_ref in units of 10⁻⁹. -/
def convOne (gain : Nat) (ratio : Int) : Nat × Bool :=
  let x : Rat := 16384 * mkRat ratio 1000000000 * ((2 ^ gain : Nat) : Rat)
  ((clampI (ratRoundAway x) 0 16383).toNat, decide (mkRat 32767 2 ≤ x) || decide (x < mkRat (-1) 2))

/-- R392: the mean code, and the over-range flag of any. -/
def convMean (gain : Nat) (ratios : List Int) : Nat × Bool :=
  let cs := ratios.map (convOne gain)
  ((ratRoundAway (mkRat (sumNat (cs.map Prod.fst) : Nat) cs.length)).toNat, cs.any Prod.snd)

/-- R390, R395: the reference a REF field names, with REF 3 the chain reference, and its voltage as the device takes it. -/
def State.refOf (s : State) (ref : Nat) : Nat := if ref = 3 then (if s.cal.src = 0 then 1 else 0) else ref

def State.refVolts (s : State) (ref : Nat) : Rat :=
  match s.refOf ref with
  | 0 => mkRat 125 100
  | 1 => mkRat s.cal.refUv 1000000
  | _ => match tget s.mon.filt 72 with
    | some (v, _, true) => fRat v
    | _ => mkRat 18 10

/-- R395: the voltage that a code stands for. Log entry 54 (DEDUCED), 61 (DESIGN CHOICE). -/
def State.codeVolts (s : State) (w code : Nat) : Rat :=
  (code : Rat) * s.refVolts (cfgRef w) / (16384 * ((2 ^ cfgGain w : Nat) : Rat))

/-! ### Filters (R395) -/

/-- R395: FILT index (reference DACs from 105 on), time constant in ns and value of an entry's quantity. -/
def quantity (e sub : Nat) (v : Rat) : Option (Nat × Nat × Rat) :=
  match e with
  | 0 => some (73, 64000000, v)
  | 1 => some (74, 64000000, v)
  | 12 => some (sub, 16000000, v / mkRat 25 10000 - mkRat 27315 100)
  | 13 => some (105 + sub, 32000000, v * 1000000)
  | _ =>
    if e = 2 ∧ 18 ≤ sub ∧ sub ≤ 47 then some (sub + 57, 4000000, 4 * v)
    else if 2 ≤ e ∧ e ≤ 10 then some (62 + e, 4000000, 4 * v) else none

/-- R395: a sample of a quantity. Log entry 54 (DEDUCED). -/
def State.filterSample (s : State) (i tau : Nat) (x : Rat) : State :=
  let old := match tget s.mon.filt i with
    | some (v, t, true) => some (v, t)
    | _ => none
  s.modMon (fun b => { b with filt := tset b.filt i (filterStep old s.now tau x, s.now, true) })

/-! ### What the sentinel decides (R396, R397) -/

/-- The valid filtered die temperatures. -/
def State.diodes (s : State) : List (Nat × F32) :=
  (List.range Config.dieCount).filterMap (fun d => (s.diode d).map (fun t => (d, t)))

/-- R396 orders 1 and 2, R415: the filtered temperature of a die. -/
def State.dieDecides (s : State) (die : Nat) : State :=
  match s.diode die with
  | none => s
  | some t =>
    let cool := s.diodes.all (fun d => decide (fRat d.2 < (s.pwr.warnC : Rat) - 5))
    let s := if s.mon.trip ∧ cool then s.modMon (fun b => { b with trip := false }) else s
    let s := if (s.pwr.shutdownC : Rat) ≤ fRat t ∧ !s.mon.trip then s.shutdown die (ratRoundAway (16 * fRat t)) else s
    let s := if (s.pwr.warnC : Rat) ≤ fRat t then s.modMon (fun b => { b with alert := true })
      else if cool then s.modMon (fun b => { b with alert := false }) else s
    s.syncPins

/-- R373, R396 order 4: the reference check of entry 1. -/
def State.refDecides (s : State) (bad : Bool) : State :=
  s.modCal (fun b =>
    if bad then { b with refFault := true, refFaults := bump b.refFaults, refBad := true } else { b with refBad := false })

/-- R374, R396 order 5: a reference DAC's code follows its stored voltage. -/
def State.rdacCodeOf (s : State) (course : Nat) : Nat := tgetD s.cal.rdacCode course (Config.rdacFactory course).toNat

def State.rdacDecides (s0 : State) (course : Nat) (uv : Int) : State :=
  let s := s0.modCal (fun b => { b with rdacUv := tset b.rdacUv course uv.toNat })
  if uv = ((Config.rdacVolts course).toNat : Int) then s
  else s.modCal (fun b => { b with
    rdacCode := tset b.rdacCode course (Config.rdacAdjust course (s.rdacCodeOf course) uv.toNat).toNat })

/-- R396, R400: the window of a rail by FILT index; none for what is no rail. -/
def State.windowOf (s : State) (i : Nat) : Option (F32 × F32) :=
  if i < 64 ∨ i = 73 ∨ i = 74 ∨ 104 < i then none else some (tgetD s.mon.win i (0, 0x7F7FFFFF#32))

def inWindow (w : F32 × F32) (v : F32) : Bool := fLe w.1 v && fLe v w.2

/-- R396 order 6: a filtered rail that leaves its window. Log entry 55 (DEDUCED). -/
def State.railDecides (s : State) (i : Nat) (before : Option F32) : State :=
  match s.windowOf i, tget s.mon.filt i with
  | some w, some (v, _, _) =>
    let was := (before.map (inWindow w)).getD true
    if was ∧ !inWindow w v then
      s.modMon (fun b => { b with
        railAlarm := 1, alarmFirst := if b.railAlarm = 0 then i else b.alarmFirst, railAlarms := bump b.railAlarms })
    else s
  | _, _ => s

/-- R397: the dose that a time in ns at a temperature adds. -/
def doseRate (t : F32) : F32 := fDiv (fPow 0x40000000#32 (fDiv (fSub t 0x428C0000#32) 0x4164CCCD#32)) 0x4AED4E00#32

/-- R397: the projected margin. -/
def projected (m : F32 × F32 × Nat) : F32 := fSub m.1 (fMul 0x3F1EB852#32 m.2.1)

/-- R397: WAKE_MARGIN as a margin. -/
def State.wakeLevel (s : State) : F32 := fOfRatio s.mon.wakeMargin 1000

/-- R397, R400: doses accumulate at the end of a round while the device sleeps; NEXT_MAINT at the temperatures of the moment.
Log entry 55 (DEDUCED). -/
def State.dose (s : State) : State :=
  if s.pwr.state ≤ 1 then s
  else
    let temp := fun y => (s.diode (dieOfYelm y)).getD 0x42200000#32
    let ms := tmapv s.mon.margins (fun y (m : F32 × F32 × Nat) =>
      (m.1, fAdd m.2.1 (fMul (fOfRat (mkRat (s.now - m.2.2) 1000000000)) (doseRate (temp y))), s.now))
    let stamps := ms.map (fun m =>
      let left := fDiv (fMax 0 (fSub (projected m.2) s.wakeLevel)) (fMul 0x3F1EB852#32 (doseRate (temp m.1)))
      s.now + (fRat left * 1000000000).floor.toNat)
    s.modMon (fun b => { b with margins := ms, nextMaint := (bestBy (fun (a c : Nat) => decide (a < c)) stamps).getD 0 })

/-- R396 order 8, R397: a maintenance wake. -/
def State.maintain (s : State) : State :=
  let low := (s.mon.margins.filter (fun m => fLt (projected m.2) s.wakeLevel)).map Prod.fst
  if s.pwr.state ≤ 1 ∨ s.pwr.waking ∨ !s.mon.maintEn ∨ low = [] ∨ s.mon.trip ∨ (s.pwr.state = 3 ∧ s.pwr.trippedPrev) then s
  else
    let s := s.modPwr (fun b => { b with back := some b.state })
    let s := { s with yelms := tmapv s.yelms (fun k y =>
      if low.contains k then
        { y with arrays := tmapv y.arrays (fun _ a => if a.idx.isSome ∧ a.st ≠ ArrState.retired then { a with due := true } else a) }
      else y) }
    (s.modMon (fun b => { b with maintActive := true, maintWakes := bump b.maintWakes })).wakeBy 5

/-- R397: at a boundary after a maintenance wake: once nothing remains due the device asks for the state it came from, unless a
host has come in the meantime. -/
def State.maintBoundary (s : State) : State :=
  if !s.mon.maintActive ∨ s.pwr.state > 1 ∨ s.yelms.any (fun y => y.2.arrays.any (fun a => a.2.due)) then s
  else
    let s := s.modMon (fun b => { b with maintActive := false })
    match s.pwr.back with
    | none => s
    | some st => s.modPwr (fun b => { b with want := some (st, (b.want.map Prod.snd).getD []), back := none })

/-! ### MONITOR_CONVERSION and rounds (R391) -/

/-- R391: the end of a round: new configurations, STALE of what was skipped, and what is decided once a round.
Log entry 55 (DEDUCED). -/
def State.endRound (s : State) : State :=
  let skipped := (List.range 32).filter (fun e => !s.seqRuns e)
  let s := s.modMon (fun b => { b with
    rounds := bump b.rounds, roundUs := min ((s.now - b.roundStart) / 1000) 0xFFFFFFFF, roundStart := s.now,
    res := skipped.foldl (fun r e => r.set e (lget r e 0 ||| 2 ^ 28)) b.res,
    cfg := b.cfgPend.foldl (fun c e => c.set e.1 e.2) b.cfg, cfgPend := [] })
  s.dose.maintain

/-- R391: whether a conversion ends the round. -/
def State.lastOfRound (s : State) (e sub : Nat) : Bool :=
  ((List.range 32).filter s.seqRuns).getLast? == some e &&
    (match scanLast (s.seqCfg e) with
     | some l => sub == l
     | none => true)

/-- R400: the result register. -/
def resWord (code sub : Nat) (ovr settled : Bool) : Nat :=
  2 ^ 31 + b2n ovr * 2 ^ 30 + b2n settled * 2 ^ 29 + sub % 256 * 2 ^ 20 + code

/-- MONITOR_CONVERSION (R388–R396). Log entry 61 (DESIGN CHOICE). -/
def execMonitorConversion (ts entry sub : Nat) (ratios : List Int) (settled : Bool) (s0 : State) :
    Host.Outcome State Fault Refusal :=
  let s := s0.upto ts
  let w := s.seqCfg entry
  let extra : Bool := decide (entry = 2) && decide (18 ≤ sub) && decide (sub ≤ 47)
  .next (if !s.pins.vddAon ∨ ratios = [] ∨ (if extra then !s.chanOn sub else !s.seqRuns entry) then s
    else
      let r := convMean (cfgGain w) ratios
      let sb := if cfgCh w = 16 ∨ cfgCh w = 17 then (if cfgScan w then sub else cfgSub w) else 0
      let s := s.modMon (fun b => { b with
        seqBusy := true, refNow := s.refOf (cfgRef w), refSettled := settled,
        res := if extra then b.res else b.res.set entry (resWord r.1 sb r.2 settled) })
      let q := quantity entry (if extra then sub else sb) (s.codeVolts w r.1)
      let before := q.bind (fun q => match tget s.mon.filt q.1 with
        | some (v, _, true) => some v
        | _ => none)
      let s := match q with
        | some (i, tau, x) => s.filterSample i tau x
        | none => s
      let s := if entry = 0 then s.modCal (fun b => { b with refMeas := (ratRoundAway (s.codeVolts w r.1 * 1000000)).toNat }) else s
      let s := if entry = 12 then s.dieDecides sb else s
      let s := if entry = 1 then s.refDecides (r.2 || !settled) else s
      let s := if entry = 13 then s.rdacDecides sb (ratRoundAway (s.codeVolts w r.1 * 1000000)) else s
      let s := match q with
        | some (i, _, _) => s.railDecides i before
        | none => s
      if !extra && s.lastOfRound entry sb then s.endRound else s)

/-- REF_SETTLE_TIMEOUT (R390): the converter converts anyway, its reference unsettled. -/
def execRefSettleTimeout (ts : Nat) (s0 : State) : Host.Outcome State Fault Refusal :=
  .next ((s0.upto ts).modMon (fun b => { b with refSettled := false }))

/-! ### Waking (R398, R399, R401) -/

/-- WAKE_L (R398): a falling edge held for 1 µs. Log entry 56 (DEDUCED). -/
def execWakeL (ts : Nat) (s0 : State) : Host.Outcome State Fault Refusal := .next ((s0.upto ts).wakeBy 1)

/-- WAKE_AT (R398): the time of record reaches the armed stamp. Log entry 56 (DEDUCED). -/
def execWakeAt (ts : Nat) (s0 : State) : Host.Outcome State Fault Refusal :=
  let s := s0.upto ts
  .next (if !s.mon.wakeArmed ∨ s.now < s.mon.wakeAt then s
    else (s.modMon (fun b => { b with wakeArmed := false })).wakeBy 4)

/-- R401: the pair takes effect when its high half is written; a stamp in the past wakes a sleeping device and is cleared.
Log entry 56 (DEDUCED). -/
def State.armWake (s : State) (vi hi : Nat) : State :=
  if vi ≠ 0 then s
  else
    let t := hi % 2 ^ 32 * 2 ^ 32 + s.mon.wakeLo
    if t ≠ 0 ∧ t ≤ s.now then
      let asleep := decide (1 < s.pwr.state)
      let s := s.modMon (fun b => { b with wakeAt := if asleep then 0 else t, wakeLo := if asleep then 0 else b.wakeLo, wakeArmed := false })
      if asleep then s.wakeBy 4 else s
    else s.modMon (fun b => { b with wakeAt := t, wakeArmed := decide (t ≠ 0) })

def execWakeAtHiWrite (ts vi : Nat) (value : Reg) (s0 : State) : Host.Outcome State Fault Refusal :=
  .next ((s0.upto ts).armWake vi value.toNat)

/-- R399: bytes in the hold buffer. -/
def heldBytes (fs : List Frame) : Nat := sumNat (fs.map (fun f => ((f.sloson.map (fun p => p.bytes.length)).getD 0)))

/-- R399: checks 1–3 of R266 on a packet in Doze. -/
def State.wakeOk (s : State) (p : Packet) : Bool :=
  match s.steer p.lport p.vlan p.dstIp with
  | none => false
  | some v => p.dstPort == s.net.udp && headerOk p && pVi p == v && !bitOf (pFlags p) 0 &&
      (s.vi? v).any (fun x => x.closing.isNone)

/-- WAKE_PACKET (R399). -/
def execWakePacket (f : Frame) (s0 : State) : Host.Outcome State Fault Refusal :=
  let s := s0.upto f.ts
  .next (if s.pwr.state ≠ 2 ∨ f.lport ≠ s.wakePort then s
    else
      match s.rxPort f.lport f.rx with
      | (false, s) => s
      | (true, s) =>
        match f.sloson with
        | some p =>
          if !s.wakeOk p then s
          else if heldBytes s.mon.held + p.bytes.length ≤ Config.holdBytes then
            (s.modMon (fun b => { b with held := b.held ++ [f] })).wakeBy 3
          else (s.modMon (fun b => { b with wakeDropped := bump b.wakeDropped })).wakeBy 3
        | none =>
          match f.body with
          | .resolveRequest t =>
            match s.vis.find? (fun (e : Nat × Vi) => e.2.addr.vlan == f.vlan && bitOf e.2.addr.ports f.lport && isAddrOf e.2.addr t) with
            | none => s
            | some (v, x) => s.rxOn f v x
          | .echo =>
            match s.steer f.lport f.vlan f.dstIp with
            | none => s
            | some v =>
              match s.vi? v with
              | none => s
              | some x => s.rxOn f v x
          | _ => s)

end Sys2Proof.Machine
end

