-- ==== Sys2Proof/Machine/Security.lean ====
section
/-! DEFINITION. Boot, identity and attestation (chapter 18): packages and slots (R424–R430), operator keys (R431, R433),
attestation (R434–R437) and MACsec associations (R438–R441). -/
namespace Sys2Proof.Machine

/-! ### Packages (R424–R426) -/

/-- R426: the signed digest of a package. -/
def pkgDigest (bs : List Byte) : List Byte := sha384 (bs.take 32 ++ (bs.drop 80).take (bs.length - 2128))

/-- R425, R426: a package of a kind that is whole and verifies under a signer's keys. -/
def pkgOk (kind signer : Nat) (key : Nat → Option (List Byte)) (tag bs : List Byte) : Bool :=
  decide (2128 ≤ bs.length) && bytesAt bs 0 4 == tag4 0x51 0x46 0x50 0x4B && leAt bs 4 2 == kind && leAt bs 8 4 == bs.length &&
    bytesAt bs 32 48 == pkgDigest bs && sigOk signer key tag (bs.drop (bs.length - 2048)) (pkgDigest bs)

/-- R427: the Quineip keys. -/
def romKey (slot : Nat) : Option (List Byte) := if slot < 4 then some (Config.quineipKey slot) else none

/-- R425, R429: whether a firmware package verifies, with an SVN that is not below MIN_SVN. -/
def fwOk (b : SecBlk) (bs : List Byte) : Bool :=
  pkgOk 1 0 romKey (tag4 0x51 0x46 0x46 0x57) bs && decide (b.minSvn ≤ leAt bs 16 4)

/-- R426: what a slot holds of a package: PKG_VERSION is FW_MAJOR, FW_MINOR and FW_BUILD as at 0x0000_0008 (R12). -/
def slotOf (bs : List Byte) : Slot :=
  { valid := true, svn := leAt bs 16 4, major := leAt bs 15 1, minor := leAt bs 14 1, build := leAt bs 12 2, digest := bytesAt bs 32 48 }

def Slot.none : Slot := ⟨false, 0, 0, 0, 0, zeros 48⟩
def SecBlk.slot (b : SecBlk) (i : Nat) : Slot := b.slots.getD i .none

/-! ### Boot (R427, R428, R430) -/

/-- R427: whether a slot runs. -/
def SecBlk.runs (b : SecBlk) (i : Nat) : Bool := (b.slot i).valid && decide (b.minSvn ≤ (b.slot i).svn)

/-- R427: the ROM loader tries the preferred slot, then the other. -/
def SecBlk.boot (b : SecBlk) : SecBlk :=
  let b := { b with staged := false, fwPackage := none, recovery := none }
  let o := 1 - b.preferred
  if b.runs b.preferred then { b with bootSlot := b.preferred, romLoader := false }
  else if b.runs o then { b with bootSlot := o, romLoader := false, fallback := true }
  else { b with romLoader := true }

/-- R430: the heartbeat has ended the firmware; the third time in succession a slot on trial loses its preference.
Log entry 62 (DEDUCED). -/
def SecBlk.trialFails (b : SecBlk) : SecBlk :=
  if !b.trial ∨ b.bootSlot ≠ b.preferred then b
  else if 2 ≤ b.trialCount then { b with trial := false, trialCount := 0, preferred := 1 - b.preferred, fallback := true }
  else { b with trialCount := b.trialCount + 1 }

/-- R441: associations as they resume from the store. Log entry 63 (DEDUCED). -/
def Assoc.resume (tx : Bool) (a : Assoc) : Assoc :=
  if tx then { a with pn := a.stored, stored := a.stored + pnStep } else { a with pn := a.stored + pnStep }

def MacSec.restore (pufFail : Bool) (m : MacSec) : MacSec :=
  if pufFail then { m with tx := none, rx := [] }
  else { m with tx := m.tx.map (Assoc.resume true), rx := tmapv m.rx (fun _ as => as.map (Assoc.resume false)) }

/-- R441: the associations come back at a device reset and at power-up. Log entry 63 (DEDUCED). -/
def State.restoreMac (s : State) : State := s.modSec (fun b => { b with ms := b.ms.map (MacSec.restore b.pufFail) })

/-- SVN_COMMIT (R430). -/
def State.svnCommit (s : State) (vi value : Nat) : State :=
  if vi ≠ 0 ∨ !bitOf value 0 then s
  else s.modSec (fun b => { b with trial := false, trialCount := 0, minSvn := max b.minSvn (b.slot b.bootSlot).svn })

def execSvnCommit (ts vi : Nat) (value : Reg) (s0 : State) : Host.Outcome State Fault Refusal :=
  let s := s0.upto ts
  .next (if s.gated 10 then s else s.svnCommit vi value.toNat)

/-! ### FW_UPDATE (R293, R429) -/

/-- R429: a range that runs past its region, or more than 32 MiB; a region that is no USE 0 region.
Log entry 62 (DEDUCED). -/
def staticFwUpdate : StaticCheck := fun s c =>
  match (s.vi? c.vi).bind (fun x => tget x.regions (leAt c.pay 0 4)) with
  | none => some (stNoObject, zeros 4)
  | some r =>
    if r.use ≠ 0 then some (stNoObject, zeros 4)
    else if Config.firmwareBytes < leAt c.pay 16 8 ∨ r.length < leAt c.pay 8 8 + leAt c.pay 16 8 then some (stNoResource, zeros 4)
    else none

/-- R429: the package is read; a second FW_UPDATE waits until the first completes. -/
def effFwUpdate : Effect := fun s c =>
  match s.vi? c.vi with
  | none => (s, some (stNoObject, zeros 4))
  | some x =>
    if x.jrnl.entries.any (fun e => e.2.opcode == 0x0C03 && e.2.state == .running && e.1 != c.entry) then (s, none)
    else
      match tget x.regions (leAt c.pay 0 4) with
      | none => (s, some (stNoObject, zeros 4))
      | some r =>
        if !s.connOk c.vi r.rc then (s, some (stNoObject, zeros 4))
        else
        let s := s.modEntry c.vi c.entry (fun e => { e with state := .running })
        (s.rdma c.vi r.rc (.command c.entry) false (r.addr + leAt c.pay 8 8) (leAt c.pay 16 8) c.queue [], none)

def execFwUpdate (p : Packet) (s : State) : Host.Outcome State Fault Refusal :=
  .next (s.takeAs 0x0C03 p staticFwUpdate effFwUpdate)

/-- R429: once an update has completed the next one begins. -/
def State.fwNext (s : State) : State :=
  match s.vi? 0 with
  | none => s
  | some x =>
    (x.jrnl.entries.filter (fun e => e.2.opcode == 0x0C03 && e.2.state == .accepted && !x.jrnl.replay.contains e.1)).foldl (fun s e =>
      s.runEffect effFwUpdate (cmdOf 0 e.1 e.2)) s

/-- R429: the package has been read: rejected, or written into the slot that is not running, which is invalid until then.
Log entry 62 (DEDUCED). -/
def State.fwArrives (s : State) (e : Nat) (data : Option (List Byte)) : State :=
  match data with
  | none => (s.outcome 0 e stNoObject (zeros 4)).fwNext
  | some bs =>
    if !fwOk s.sec bs then (s.outcome 0 e stNoObject (zeros 4)).fwNext
    else
      let w := 1 - s.sec.bootSlot
      s.modSec (fun b => { b with slots := b.slots.set w { b.slot w with valid := false }, fwPackage := some (w, e, bs) })

/-- FW_SLOT_WRITTEN (R429). -/
def execFwSlotWritten (ts : Nat) (verified : Bool) (s0 : State) : Host.Outcome State Fault Refusal :=
  let s := s0.upto ts
  .next (match s.sec.fwPackage with
    | none => s
    | some (w, e, bs) =>
      let s := s.modSec (fun b => { b with fwPackage := none })
      if !verified then (s.outcome 0 e stNoObject (zeros 4)).fwNext
      else
        let n := slotOf bs
        let s := s.modSec (fun b => { b with
          slots := b.slots.set w n, preferred := w, trialCount := 0, staged := true, trial := true })
        (s.outcome 0 e stOk (le 1 n.major ++ le 1 n.minor ++ le 2 n.build)).fwNext)

/-! ### Operator keys (R431) -/

/-- OPKEY_COMMIT. -/
def State.opkeyCommit (s : State) (vi value : Nat) : State :=
  if vi ≠ 0 ∨ !bitOf value 0 then s
  else s.modSec (fun b => { b with
    opDigest := b.opDigest.set b.opSel b.opWrite, opValid := b.opValid ||| 2 ^ b.opSel, opDirty := false })

/-- OPKEY_REVOKE: the test packs signed with the slot go at once. -/
def State.opkeyRevoke (s : State) (vi value : Nat) : State :=
  if vi ≠ 0 ∨ !bitOf value 1 then s
  else
    let k := s.sec.opSel
    (s.modSec (fun b => { b with
      opDigest := b.opDigest.set k (zeros 48), opValid := if bitOf b.opValid k then b.opValid - 2 ^ k else b.opValid,
      opDirty := false })).modErr (fun b => { b with packs := b.packs.filter (fun p => p.2.signer != k) })

def execOpkeyCommit (ts vi : Nat) (value : Reg) (s0 : State) : Host.Outcome State Fault Refusal :=
  let s := s0.upto ts
  .next (if s.gated 10 then s else s.opkeyCommit vi value.toNat)

def execOpkeyRevoke (ts vi : Nat) (value : Reg) (s0 : State) : Host.Outcome State Fault Refusal :=
  let s := s0.upto ts
  .next (if s.gated 10 then s else s.opkeyRevoke vi value.toNat)

/-! ### Attestation (R434–R437) -/

/-- R424, R435: keys, digests and signatures at the sizes of their fields. Log entry 64 (DEDUCED). -/
def idPub : List Byte := bytesAt Config.identityPub 0 97
def lmsPub (k : Nat) : List Byte := bytesAt (Config.lmsPub k) 0 56
def idSign (m : List Byte) : List Byte := bytesAt (Config.identitySign m) 0 96
def lmsSign (k leaf : Nat) (m : List Byte) : List Byte := bytesAt (Config.lmsSign k leaf m) 0 1772

/-- R434: DEVICE_ID. -/
def deviceId : List Byte := sha384 (idPub ++ lmsPub 0)

/-- R12: FW_VERSION as a register value. -/
def SecBlk.fwVersion (b : SecBlk) : Nat :=
  let n := b.slot b.bootSlot
  n.major * 2 ^ 24 + n.minor * 2 ^ 16 + n.build

/-- The tenant VIs, ascending. -/
def State.tenants (s : State) : List (Nat × Vi) := s.vis.filter (fun e => e.1 != 0)

/-- R435: IMAGE_DIGEST and PART_DIGEST. -/
def State.imageDigest (s : State) (v : Nat) (x : Vi) : List Byte :=
  let own := fun (x : Vi) => if x.img.gen = 0 then zeros 48 else ((x.img.image.map Image.digest).getD (zeros 48))
  if v ≠ 0 then own x
  else sha384 ((s.tenants.filter (fun e => e.2.img.gen != 0)).flatMap (fun e => le 2 e.1 ++ le 2 e.2.img.gen ++ own e.2))

def State.partDigest (s : State) (v : Nat) (x : Vi) : List Byte :=
  if v ≠ 0 then sha384 (partBytes v x.part)
  else sha384 ((s.tenants.filter (fun e => e.2.closing.isNone)).flatMap (fun e => le 2 e.1 ++ partBytes e.1 e.2.part))

/-- R435: the key digests of the operator slots, zeros where a slot is not valid. -/
def SecBlk.opKeys (b : SecBlk) : List Byte := (List.range 4).flatMap (fun i => (b.opKey i).getD (zeros 48))

/-- R435: the flags of a report. -/
def State.reportFlags (s : State) : Nat :=
  b2n (!traced s.time) + 2 * b2n s.sec.imgSigReq + 4 * b2n s.sec.fallback + 8 * b2n s.sec.trial + 16 * b2n s.sec.pufFail

/-- R435: bytes 0–567. -/
def State.reportBody (s : State) (v : Nat) (x : Vi) (nonce : List Byte) : List Byte :=
  let packs := tvals s.err.packs
  tag4 0x51 0x46 0x41 0x52 ++ le 2 1 ++ le 2 v ++ le 8 s.now ++ nonce ++ deviceId ++ le 4 s.sec.fwVersion ++
    le 4 (s.sec.slot s.sec.bootSlot).svn ++ bytesAt Config.romDigest 0 48 ++ (s.sec.slot s.sec.bootSlot).digest ++ le 4 s.cal.setId ++
    le 2 (if v = 0 then 0 else x.img.gen) ++ le 1 packs.length ++ le 1 s.sec.opValid ++ le 4 s.reportFlags ++ zeros 4 ++
    s.imageDigest v x ++ s.partDigest v x ++
    (if packs = [] then zeros 48 else sha384 (packs.flatMap (fun p => le 4 p.id ++ pkgDigest p.bytes))) ++ sha384 s.sec.opKeys ++
    idPub ++ zeros 3 ++ le 4 s.sec.lmsTree ++ lmsPub s.sec.lmsTree

/-- R436: leaves and nodes. -/
def leafHash (body : List Byte) : List Byte := sha256 ((0x00 : Byte) :: body)
def nodeHash (l r : List Byte) : List Byte := sha256 ((0x01 : Byte) :: (l ++ r))

/-- R436: one level of the batch tree up. -/
def levelUp : List (List Byte) → List (List Byte)
  | l :: r :: t => nodeHash l r :: levelUp t
  | t => t

/-- R436: padded to a power of two with zero leaves. -/
def padLeaves (ls : List (List Byte)) : List (List Byte) :=
  let n := if ls.length ≤ 1 then 1 else 2 ^ (Nat.log2 (ls.length - 1) + 1)
  ls ++ List.replicate (n - ls.length) (zeros 32)

/-- R436: the siblings of a leaf from the bottom up, and the root. -/
def pathOf : Nat → List (List Byte) → Nat → List (List Byte) × List Byte
  | 0, ls, _ => ([], ls.getD 0 (zeros 32))
  | fuel + 1, ls, i =>
    if ls.length ≤ 1 then ([], ls.getD 0 (zeros 32))
    else
      let r := pathOf fuel (levelUp ls) (i / 2)
      (ls.getD (if i % 2 = 0 then i + 1 else i - 1) (zeros 32) :: r.1, r.2)

/-- R435, R437: LINK_SIG of the tree in use. -/
def linkSig (k : Nat) : List Byte :=
  if k = 0 then zeros 1772
  else lmsSign (k - 1) (Config.lmsLeaves - 1) (tag4 0x51 0x46 0x4C 0x4B ++ le 4 k ++ lmsPub k)

/-- R435, R436: what follows the body of a report in a signed batch. -/
def reportTail (tree leaf stamp i n : Nat) (leaves : List (List Byte)) (body : List Byte) : List Byte :=
  let p := pathOf 9 leaves i
  idSign (tag4 0x51 0x46 0x41 0x54 ++ body) ++ le 8 stamp ++ le 2 i ++ le 2 n ++
    bytesAt (p.1.flatMap id) 0 256 ++
    lmsSign tree leaf (tag4 0x51 0x46 0x41 0x42 ++ le 8 stamp ++ le 2 n ++ p.2) ++ linkSig tree

/-- R436: the order of the leaves. Log entry 64 (DEDUCED). -/
def State.batchOrder (s : State) (b : List (Nat × Nat × List Byte)) : List (Nat × Nat × List Byte) :=
  let place := fun (r : Nat × Nat × List Byte) => (s.entry? r.1 r.2.1).map (fun e => entryPlace r.1 e)
  sortBy (fun a c => match place a, place c with
    | some p, some q => orderLt p q
    | _, _ => false) b

/-- R436, R437: sign a batch with the next leaf; each of its commands completes. When one leaf is left the next tree is
derived. Log entry 96 (DESIGN CHOICE). -/
def State.signBatch (s : State) (stamp : Nat) (b0 : List (Nat × Nat × List Byte)) : State :=
  let b := s.batchOrder b0
  let leaf := Config.lmsLeaves - s.sec.lmsLeft
  let tree := s.sec.lmsTree
  let leaves := padLeaves (b.map (fun r => leafHash r.2.2))
  let s := s.modSec (fun k => { k with
    lmsLeft := k.lmsLeft - 1, treeWork := decide (k.lmsLeft - 1 ≤ 1), batches := bump k.batches, reports := satAdd k.reports b.length })
  ((List.range b.length).zip b).foldl (fun s r =>
    s.outcome r.2.1 r.2.2.1 stOk (r.2.2.2 ++ reportTail tree leaf stamp r.1 b.length leaves r.2.2.2)) s

/-- R436: the open batch closes at the stamp of the moment. While a tree is being derived it waits. -/
def State.closeBatch (s : State) : State :=
  let b := s.sec.batch
  if b = [] then s.modSec (fun k => { k with batchStart := none })
  else
    let s1 := s.modSec (fun k => { k with batch := [], batchStart := none })
    if s.sec.treeWork then s1.modSec (fun k => { k with waitingBatches := k.waitingBatches ++ [(s.now, b)] })
    else s1.signBatch s.now b

/-- ATTEST_GET (R293, R435, R436). -/
def effAttestGet : Effect := fun s c =>
  match s.vi? c.vi with
  | none => (s, none)
  | some x =>
    let body := s.reportBody c.vi x (bytesAt c.pay 0 32)
    if s.sec.pufFail then (s, some (stOk, body ++ zeros 3908))
    else
      let s := s.modEntry c.vi c.entry (fun e => { e with state := .running })
      let s := s.modSec (fun k => { k with
        batch := k.batch ++ [(c.vi, c.entry, body)], batchStart := match k.batchStart with
          | some t => some t
          | none => some c.ts })
      (if 256 ≤ s.sec.batch.length then s.closeBatch else s, none)

def execAttestGet (p : Packet) (s : State) : Host.Outcome State Fault Refusal := .next (s.takeAs 0x0C01 p noStatic effAttestGet)

/-- ATTEST_BATCH_CLOSE (R436): ATTEST_BATCH_S seconds after the batch was opened. -/
def execAttestBatchClose (ts : Nat) (s0 : State) : Host.Outcome State Fault Refusal :=
  let s := s0.upto ts
  .next (match s.sec.batchStart with
    | none => s
    | some t => if s.now < t + s.sec.batchS * 1000000000 then s else s.closeBatch)

/-- LMS_TREE_DERIVED (R437): the link is signed with the last leaf, and batches that waited proceed under the new tree.
Log entry 96 (DESIGN CHOICE). -/
def execLmsTreeDerived (ts : Nat) (s0 : State) : Host.Outcome State Fault Refusal :=
  let s := s0.upto ts
  .next (if !s.sec.treeWork then s
    else
      let w := s.sec.waitingBatches
      let s := s.modSec (fun k => { k with
        treeWork := false, lmsTree := k.lmsTree + 1, lmsLeft := Config.lmsLeaves, waitingBatches := [] })
      w.foldl (fun s b => s.signBatch b.1 b.2) s)

/-- R436: a reset ends what batches hold of the VIs it touches; their commands run again. Log entry 64 (DEDUCED). -/
def State.dropBatches (s : State) (vis : List Nat) : State :=
  let keep := fun (b : List (Nat × Nat × List Byte)) => b.filter (fun r => !vis.contains r.1)
  s.modSec (fun k =>
    let b := keep k.batch
    { k with batch := b, batchStart := if b = [] then none else k.batchStart,
             waitingBatches := (k.waitingBatches.map (fun w => (w.1, keep w.2))).filter (fun w => !w.2.isEmpty) })

/-! ### MACsec (R438, R439) -/

/-- R438: delete the association that a key of zeros names. -/
def MacSec.delete (m : MacSec) (dir ch an : Nat) : MacSec :=
  if dir = 0 then { m with tx := m.tx.filter (fun a => a.an != an) }
  else
    let left := (tgetD m.rx ch []).filter (fun a => a.an != an)
    { m with rx := if left = [] then tdel m.rx ch else tset m.rx ch left }

/-- MACSEC_KEY (R293, R438). A transmit association is installed when the reply leaves. -/
def effMacsecKey : Effect := fun s c =>
  let lp := leAt c.pay 0 1
  let dir := leAt c.pay 1 1
  let ch := leAt c.pay 2 1
  let an := leAt c.pay 3 1
  let rep := bytesAt c.pay 0 4 ++ zeros 4
  let zeroKey := (bytesAt c.pay 36 32).all (· == 0)
  if !s.portExists lp ∨ 1 < dir ∨ 3 < an ∨ (dir = 1 ∧ 7 < ch) then (s, some (stNoObject, rep))
  else
    let m := lget s.sec.ms lp .off
    let m' :=
      if zeroKey then m.delete dir ch an
      else if dir = 0 then m
      else { m with rx := tset m.rx ch ((tgetD m.rx ch []).filter (fun a => a.an != an) ++ [macAssoc c.pay]) }
    (s.modSec (fun b => { b with ms := b.ms.set lp m' }), some (stOk, rep))

def execMacsecKey (p : Packet) (s : State) : Host.Outcome State Fault Refusal := .next (s.takeAs 0x0C02 p noStatic effMacsecKey)

/-- R439: delete every association of a logical port. -/
def State.macClear (s : State) (lp : Nat) : State :=
  s.modSec (fun b => { b with ms := b.ms.set lp { lget b.ms lp .off with tx := none, rx := [] } })

/-- MS_OFF (R439). -/
def State.msOff (s : State) (vi value : Nat) : State := if vi ≠ 0 ∨ !bitOf value 0 then s else s.macClear s.sec.msSel

def execMsOff (ts vi : Nat) (value : Reg) (s0 : State) : Host.Outcome State Fault Refusal :=
  let s := s0.upto ts
  .next (if s.gated 10 then s else s.msOff vi value.toNat)

end Sys2Proof.Machine
end

