-- ==== Sys2Proof/Machine/Recovery.lean ====
section
/-! DEFINITION. Draining and exporting error records (chapter 13, R335, R336) and test-pattern packs (R337–R340). -/
namespace Sys2Proof.Machine

/-! ### ERR_DRAIN (R290, R335) -/

/-- R335: the ring that a VI drains. -/
def State.ringOf (s : State) (v : Nat) : Ring := if v = 0 then s.err.ring else ((s.vi? v).map Vi.ring).getD .empty

def State.modRing (s : State) (v : Nat) (f : Ring → Ring) : State :=
  if v = 0 then s.modErr (fun b => { b with ring := f b.ring }) else s.modVi v (fun x => { x with ring := f x.ring })

/-- R335: what is left once n records have been drained. -/
def Ring.drained (g : Ring) (n : Nat) : Ring := { g with recs := g.recs.drop n, lost := 0, lostFirst := 0, lostLast := 0 }

/-- ERR_DRAIN. -/
def effErrDrain : Effect := fun s c =>
  let g := s.ringOf c.vi
  let out := g.recs.take (clampN (leAt c.pay 0 2) 1 127)
  (s.modRing c.vi (fun g => g.drained out.length),
    some (stOk, le 2 out.length ++ zeros 2 ++ le 4 g.lost ++ out.flatMap recBytes))

def execErrDrain (p : Packet) (s : State) : Host.Outcome State Fault Refusal := .next (s.takeAs 0x0A03 p noStatic effErrDrain)

/-! ### CPER_EXPORT (R336); the UEFI layout is PRESUMED (log entry 19) -/

/-- A GUID as UEFI stores it: three little-endian fields, then eight bytes. Log entry 19 (PRESUMED). -/
def guid (a b c : Nat) (d : List Nat) : List Byte := le 4 a ++ le 2 b ++ le 2 c ++ d.flatMap (le 1)

/-- R336: the GUID of the section and of the creator. -/
def cperGuid : List Byte := guid 0x3C6F0A71 0x6448 0x4E1B [0x9D, 0x2F, 0x51, 0xE7, 0xA0, 0xC0, 0xB4, 0xE5]
def memoryGuid : List Byte := guid 0xA5BC1114 0x6F64 0x4EDE [0xB8, 0x63, 0x3E, 0x83, 0xED, 0x7C, 0x83, 0xB1]

def bcd (n : Nat) : Nat := n / 10 % 10 * 16 + n % 10

def leapYear (y : Nat) : Bool := y % 4 == 0 && (y % 100 != 0 || y % 400 == 0)
def monthDays (y m : Nat) : Nat := if m = 2 then (if leapYear y then 29 else 28) else if [4, 6, 9, 11].contains m then 30 else 31

/-- Year and day of the year of a day counted from 1970-01-01; month and day of the month. -/
def yearOf : Nat → Nat → Nat → Nat × Nat
  | 0, y, d => (y, d)
  | fuel + 1, y, d =>
    let n := if leapYear y then 366 else 365
    if d < n then (y, d) else yearOf fuel (y + 1) (d - n)

def monthOf (y : Nat) : Nat → Nat → Nat → Nat × Nat
  | 0, m, d => (m, d + 1)
  | fuel + 1, m, d => if d < monthDays y m then (m, d + 1) else monthOf y fuel (m + 1) (d - monthDays y m)

/-- R336: the UTC offset of the active PTP master, or 37 s without one. -/
def TimeBlk.utc (t : TimeBlk) : Int := if t.active < 2 then t.utcOffset else 37

/-- R336: a stamp as a CPER timestamp. Log entry 19 (PRESUMED). -/
def cperTime (t : TimeBlk) (stamp : Nat) : List Byte :=
  let sec := ((stamp / 1000000000 : Nat) - t.utc).toNat
  let yd := yearOf 700 1970 (sec / 86400)
  let md := monthOf yd.1 12 1 yd.2
  [bcd (sec % 60), bcd (sec / 60 % 60), bcd (sec / 3600 % 24), b2n (traced t), bcd md.2, bcd md.1, bcd (yd.1 % 100),
    bcd (yd.1 / 100)].flatMap (le 1)

/-- R336: the CPER severity. -/
def cperSeverity (n : Nat) : Nat := if n = 0 then 2 else if n = 1 then 0 else if n = 2 then 1 else 3

/-- R336: the body of the section: a Platform Memory Error section for CLASS 2, else the record itself.
Log entry 19 (PRESUMED). -/
def cperBody (r : Rec) : List Byte :=
  if r.code / 256 = 3 then
    let addr := if r.code = 0x0301 then bytesAt r.detail 1 8 else bytesAt r.detail 2 8
    le 8 0xA ++ zeros 8 ++ addr ++ zeros 8 ++ le 2 r.die ++ zeros 46
  else recBytes r

/-- R336: one CPER record. Log entry 19 (PRESUMED). -/
def cperBytes (t : TimeBlk) (r : Rec) : List Byte :=
  let body := cperBody r
  let sev := le 4 (cperSeverity r.severity)
  tag4 0x43 0x50 0x45 0x52 ++ le 2 0x0101 ++ le 4 0xFFFFFFFF ++ le 2 1 ++ sev ++ le 4 3 ++ le 4 (200 + body.length) ++
    cperTime t r.last ++ le 4 Config.serialLo.toNat ++ le 4 Config.serialHi.toNat ++ zeros 8 ++ zeros 16 ++ cperGuid ++
    zeros 16 ++ zeros 8 ++ zeros 4 ++ zeros 8 ++ zeros 12 ++
    le 4 200 ++ le 4 body.length ++ le 2 0x0300 ++ zeros 2 ++ zeros 4 ++
    (if r.code / 256 = 3 then memoryGuid else cperGuid) ++ zeros 16 ++ sev ++ zeros 20 ++ body

/-- R336: the records exported: those that fit whole, in ring order. -/
def cperFit : Nat → List (List Byte) → List (List Byte)
  | _, [] => []
  | room, b :: bs => if b.length ≤ room then b :: cperFit (room - b.length) bs else []

/-- CPER_EXPORT (R290, R336): it completes when its RDMA WRITE has been acknowledged. -/
def effCperExport : Effect := fun s c =>
  let rep := fun bytes n => le 8 bytes ++ le 4 n ++ zeros 4
  let bad := (s, some (stNoObject, rep 0 0))
  match (s.vi? c.vi).bind (fun x => tget x.regions (leAt c.pay 0 4)) with
  | none => bad
  | some r =>
    let len := leAt c.pay 16 8
    if r.use ≠ 4 ∨ r.length < leAt c.pay 8 8 + len then bad
    else
      let mine := (s.ringOf c.vi).recs.filter (fun e => decide (2 ≤ e.code / 256) && decide (e.code / 256 ≤ 4))
      let fit := cperFit len (mine.map (cperBytes s.time))
      let data := fit.flatten
      if data = [] then (s, some (stOk, rep 0 0))
      else if !s.connOk c.vi r.rc then bad
      else
        let s := s.modEntry c.vi c.entry (fun e => { e with state := .running, payload := rep data.length fit.length })
        (s.rdma c.vi r.rc (.command c.entry) true (r.addr + leAt c.pay 8 8) data.length c.queue data, none)

def execCperExport (p : Packet) (s : State) : Host.Outcome State Fault Refusal :=
  .next (s.takeAs 0x0A04 p noStatic effCperExport)

/-- R336: the write has ended. -/
def State.cperEnds (s : State) (v e : Nat) (ok : Bool) : State :=
  if ok then s.outcome v e stOk (((s.entry? v e).map Entry.payload).getD []) else s.outcome v e stNoObject (zeros 16)

/-! ### Test-pattern packs (R337–R340) -/

/-- TEST_PACK_LOAD (R290, R337): the pack is read from its region. -/
def effTestPackLoad : Effect := fun s c =>
  match (s.vi? c.vi).bind (fun x => tget x.regions (leAt c.pay 0 4)) with
  | none => (s, some (stNoObject, zeros 8))
  | some r =>
    let len := leAt c.pay 16 8
    if r.use ≠ 0 ∨ r.length < leAt c.pay 8 8 + len then (s, some (stNoObject, zeros 8))
    else if Config.packBytes < len ∨ Config.packMax ≤ s.err.packs.length then (s, some (stNoResource, zeros 8))
    else if !s.connOk c.vi r.rc then (s, some (stNoObject, zeros 8))
    else
      let s := s.modEntry c.vi c.entry (fun e => { e with state := .running })
      (s.rdma c.vi r.rc (.command c.entry) false (r.addr + leAt c.pay 8 8) len c.queue [], none)

def execTestPackLoad (p : Packet) (s : State) : Host.Outcome State Fault Refusal :=
  .next (s.takeAs 0x0A01 p noStatic effTestPackLoad)

/-- R337, R425, R426, R432: whether a test pack verifies under the operator key it names. -/
def packOk (b : SecBlk) (bs : List Byte) : Bool := pkgOk 2 1 b.opKey (tag4 0x51 0x46 0x54 0x50) bs

/-- R337: the pack has been read. -/
def State.packArrives (s : State) (v e : Nat) (data : Option (List Byte)) : State :=
  match data with
  | none => s.outcome v e stNoObject (zeros 8)
  | some bs =>
    if !packOk s.sec bs then s.outcome v e stNoObject (zeros 8)
    else if Config.packMax ≤ s.err.packs.length then s.outcome v e stNoResource (zeros 8)
    else
      let id := leAt bs 12 4
      let at_ := tfree s.err.packs 0 Config.packMax
      (s.modErr (fun b => { b with packs := tset b.packs at_ ⟨id, bs, leAt bs (bs.length - 2043) 1⟩ })).outcome v e stOk (le 4 id ++ zeros 4)

/-- R338: the tests of a pack, at most 1,024 (free value, log entry 7). -/
def Pack.tests (p : Pack) : Nat := min 1024 (Config.packTests (bytesAt p.bytes 80 (p.bytes.length - 2128)))

/-- R340: a run whose tests have all ended completes. -/
def State.endRuns (s : State) : State :=
  let done := s.err.runs.filter (fun r => r.left == [])
  let s := s.modErr (fun b => { b with runs := b.runs.filter (fun r => r.left != []) })
  done.foldl (fun s r => (s.modErr (fun b => { b with packRuns := bump b.packRuns })).outcome 0 r.entry stOk
    (le 4 r.tested.length ++ le 4 r.failed.length)) s

/-- TEST_PACK_RUN (R290, R339). -/
def effTestPackRun : Effect := fun s c =>
  let first := leAt c.pay 4 2
  match (tvals s.err.packs).find? (fun p => p.id == leAt c.pay 0 4) with
  | none => (s, some (stNoObject, zeros 8))
  | some p =>
    if Config.yelmCount ≤ first then (s, some (stNoObject, zeros 8))
    else
      let n := min (leAt c.pay 6 2) (Config.yelmCount - first)
      let left := (List.range n).flatMap (fun i => (List.range p.tests).map (fun t => (first + i, t)))
      let s := s.modEntry c.vi c.entry (fun e => { e with state := .running })
      let s := s.modErr (fun b => { b with runs := b.runs.filter (fun r => r.entry != c.entry) ++ [⟨c.entry, p.id, left, [], []⟩] })
      (s.endRuns, none)

def execTestPackRun (p : Packet) (s : State) : Host.Outcome State Fault Refusal :=
  .next (s.takeAs 0x0A02 p noStatic effTestPackRun)

/-- Put an element into a list that does not hold it. -/
def addNew (xs : List (Nat × Nat)) (x : Nat × Nat) : List (Nat × Nat) := if xs.contains x then xs else xs ++ [x]

/-- R340: what a failed test leaves. -/
def State.testFails (s : State) (pack y a : Nat) (r : TestResult) : State :=
  if 2 ≤ r.kind then s.requestCal y
  else (s.suspect y a 1 r.row).report
    { recOf 0x0108 3 (((s.owner y).map Prod.fst).getD 0xFFFF) s.now with
      yelm := y, array := a, die := dieOfYelm y, detail := le 4 pack ++ le 2 r.test ++ le 1 (bankOf a) }

/-- TEST_END (R339, R340). -/
def execTestEnd (ts pack yelm array : Nat) (result : TestResult) (s0 : State) : Host.Outcome State Fault Refusal :=
  let s := s0.upto ts
  .next (match s.err.runs.find? (fun r => r.pack == pack && r.left.contains (yelm, result.test)) with
    | none => s
    | some r =>
      if !s.serving ∨ 1024 ≤ array then s
      else
        let r' := { r with left := r.left.erase (yelm, result.test), tested := addNew r.tested (yelm, array),
                           failed := if result.pass then r.failed else addNew r.failed (yelm, array) }
        let s := s.modErr (fun b => { b with runs := b.runs.map (fun o => if o.entry = r.entry then r' else o) })
        (if result.pass then s else s.testFails pack yelm array result).endRuns)

end Sys2Proof.Machine
end

