-- ==== Sys2Proof/Machine/Pairs.lean ====
section
/-! DEFINITION. Redundant pairs (chapter 14): joining (R351–R353), the mirror's side of the stream (R354–R358), held replies,
lease and fencing (R359–R363), takeover (R364–R367) and leaving (R368, R369). -/
namespace Sys2Proof.Machine

/-! ### Mirrored sequences (R356, R357) -/

/-- R357: what is left in T1 of a mirror's sequence, highest page index first. -/
def Vi.mirrorIndices (x : Vi) (q : Nat) : List Nat :=
  sortBy (fun a b => decide (b < a)) (((x.seqPages q).filter (fun p => p.2.state == .resident)).map (fun p => p.2.index))

/-- R357: one index of the sequence whose last COMMIT is oldest becomes mirror-dropped; none when nothing is left. -/
def State.mirrorDrop (s : State) (v : Nat) : Option State :=
  match s.vi? v with
  | none => none
  | some x =>
    let qs := sortBy (fun (a b : Nat × Seq) => decide (a.2.lastCpl < b.2.lastCpl)) x.seqs
    match qs.findSome? (fun q => (x.mirrorIndices q.1).head?.map (fun i => (q.1, i))) with
    | none => none
    | some (q, i) =>
      let mine := x.kv.pages.filter (fun p => p.2.index == i && p.2.refs.contains q && p.2.state == .resident)
      let n := mine.length
      some ((s.dropIndex v i (distinct (mine.flatMap (fun p => p.2.refs)))).modPair v (fun p => { p with dropped := satAdd p.dropped n }))

/-- R357: a block pair from the mirror's arenas, with room made where there is none. -/
def State.mirrorPair (s : State) (v mE mS : Nat) : Nat → Option (BlockPair × State)
  | 0 => none
  | fuel + 1 =>
    match (s.vi? v).bind (fun x => x.kv.t1.takePair? mE mS) with
    | some (b, a) => some (b, s.modVi v (fun x => { x with kv := { x.kv with t1 := a } }))
    | none =>
      match s.mirrorDrop v with
      | none => none
      | some s => s.mirrorPair v mE mS fuel

/-- R357, R146: a page held as DROPPED: its positions enter the drop record of its index. -/
def State.noteDrop (s : State) (v q index first last : Nat) : State :=
  s.modVi v (fun x =>
    let ds := x.kv.drops
    if ds.any (fun d => d.index == index && d.seqs.contains q) then
      { x with kv := { x.kv with drops := ds.map (fun d =>
        if d.index = index ∧ d.seqs.contains q then { d with last := max d.last last } else d) } }
    else { x with kv := { x.kv with drops := ds ++ [⟨index, first, last, [q]⟩] } })

/-- R355: the rows of a COMMIT at a layer and a range of positions. -/
def mirrorRowsAt (kv : List (Nat × Nat × List (List Byte) × List (List Byte))) (layer lo hi : Nat) : List (Nat × KvRow) :=
  (kv.filter (fun e => e.1 == layer && decide (lo ≤ e.2.1) && decide (e.2.1 < hi))).map (fun e => (e.2.1, ⟨e.2.2.1, e.2.2.2⟩))

/-- Write rows into a page's blocks. -/
def State.putRows (s : State) (v : Nat) (l : KvLayer) (sq : Seq) (b : BlockPair) (rows : List (Nat × KvRow)) : State :=
  { s with hbm := rows.foldl (fun m r => writeRows m (t1Base v) l sq.fmt sq.pagePos (r.1 % sq.pagePos) b r.2) s.hbm }

/-- A page without blocks, mirror-dropped from the start. -/
def State.linkDropped (s : State) (v q layer idx fill mE mS : Nat) (sq : Seq) : State :=
  ((s.linkPage v q layer idx ⟨layer, idx, .dropped, [q], [], fill, none, none, mE, mS⟩).noteDrop v q idx (idx * sq.pagePos)
    (idx * sq.pagePos + fill - 1)).modPair v (fun p => { p with dropped := bump p.dropped })

/-- R356: one page of a COMMIT at one layer: rewritten, copied and extended (R151), created, or mirror-dropped. -/
def State.mirrorPage (s : State) (v q layer : Nat) (l : KvLayer) (sq : Seq) (p p2 idx : Nat)
    (kv : List (Nat × Nat × List (List Byte) × List (List Byte))) : State :=
  let lo := max p (idx * sq.pagePos)
  let hi := min p2 ((idx + 1) * sq.pagePos)
  let fill := hi - idx * sq.pagePos
  let rows := mirrorRowsAt kv layer lo hi
  let whole := rows.length == hi - lo
  let again := decide (p2 ≤ sq.p)
  let o := pageOrders l sq.fmt sq.pagePos
  let here := (s.vi? v).bind (fun x => ((tget x.seqs q).bind (fun c => tget (c.pages.getD layer []) idx)).bind (fun k =>
    (tget x.kv.pages k).map (fun g => (k, g))))
  match here with
  | none =>
    if !whole then s.linkDropped v q layer idx fill o.1 o.2 sq
    else
      match s.mirrorPair v o.1 o.2 65536 with
      | none => s.linkDropped v q layer idx fill o.1 o.2 sq
      | some (b, s) => (s.putRows v l sq b rows).linkPage v q layer idx ⟨layer, idx, .resident, [q], [], fill, some b, none, o.1, o.2⟩
  | some (k, g) =>
    match g.t1 with
    | none =>
      if again && whole && lo == idx * sq.pagePos then
        match s.mirrorPair v g.mElem g.mScale 65536 with
        | none => s
        | some (b, s) =>
          ((s.putRows v l sq b rows).modVi v (fun x => x.modPage k (fun g => { g with state := .resident, t1 := some b }))).modVi v
            (fun x => { x with kv := { x.kv with drops := x.kv.drops.filter (fun d => !(d.index == idx && d.seqs.contains q)) } })
      else (s.modVi v (fun x => x.modPage k (fun g => { g with fill := max g.fill fill }))).noteDrop v q idx (idx * sq.pagePos) (hi - 1)
    | some b =>
      if again then s.putRows v l sq b rows
      else if mustCopy g (p - idx * sq.pagePos) then
        let s := s.unlinkPage v q layer idx
        match s.mirrorPair v o.1 o.2 65536 with
        | none => (s.linkDropped v q layer idx fill o.1 o.2 sq).unref v q k
        | some (nb, s) =>
          let m := (List.range (p - idx * sq.pagePos)).foldl (fun m slot =>
            writeRows m (t1Base v) l sq.fmt sq.pagePos slot nb (readRows s.hbm (t1Base v) l sq.fmt sq.pagePos slot b)) s.hbm
          (({ s with hbm := m }.putRows v l sq nb rows).linkPage v q layer idx
            ⟨layer, idx, .resident, [q], [], fill, some nb, none, o.1, o.2⟩).unref v q k
      else (s.putRows v l sq b rows).modVi v (fun x => x.modPage k (fun g => { g with fill := fill }))

/-- R141, R356: a COMMIT applied by the mirror. -/
def State.mirrorCommit (s : State) (v q stamp p kept : Nat) (tokens : List Nat)
    (kv : List (Nat × Nat × List (List Byte) × List (List Byte))) : State :=
  match (s.vi? v).bind (fun x => (tget x.seqs q).map (fun c => (x, c))) with
  | none => s
  | some (x, sq) =>
    let p2 := p + kept
    if kept = 0 then s
    else
      let ls := (List.range x.layers.length).zip x.layers
      let s := ls.foldl (fun s e =>
        let idxs := (List.range ((p2 - 1) / sq.pagePos + 1)).filter (fun i => decide (p / sq.pagePos ≤ i) &&
          (e.2.window == 0 || decide (p2 + 1 < (i + 1) * sq.pagePos + e.2.window)))
        let s := idxs.foldl (fun s i => s.mirrorPage v q e.1 e.2 sq p p2 i kv) s
        s.releaseRing v q e.1 e.2 sq (max p2 sq.p)) s
      s.modVi v (fun x => x.modSeq q (fun c =>
        { c with p := max c.p p2, tokens := c.tokens ++ tokens, last := (c.tokens ++ tokens).getLast?, lastCpl := stamp }))

/-! ### The mirror applies the stream (R355–R358) -/

/-- R355: a set as ADP_STATE gives it; its gradient is zero. -/
def mirrorSet (old : Option AdpSet) (version t now : Nat) (hooks : List (Nat × Nat × F32 × Nat × Nat)) (gains : List Nat)
    (bias : Bool) (ts : List (Nat × Nat × List F32 × List F32 × List F32)) : AdpSet :=
  let kinds : List TensorKind := hooks.flatMap (fun h => [.hookA h.1 h.2.1, .hookB h.1 h.2.1]) ++ gains.map .gain ++
    (if bias then [.bias] else [])
  { hooks := hooks, gains := gains, bias := bias, version := version, t := t, lastTrain := (old.map AdpSet.lastTrain).getD 0,
    lastVersion := now, stale := (old.map AdpSet.stale).getD false, damaged := false,
    tensors := (kinds.zip ts).map (fun e =>
      ({ kind := e.1, rows := e.2.1, cols := e.2.2.1, master := e.2.2.2.1, m := e.2.2.2.2.1, v := e.2.2.2.2.2,
         grad := List.replicate (e.2.1 * e.2.2.1) 0, work0 := [], work1 := [] } : Tensor).publish version) }

/-- R355: the last entry of a queue and PSN. -/
def Pair.entryKey (p : Pair) (queue psn : Nat) : Option Nat :=
  (p.entries.reverse.find? (fun e => e.2.queue == queue && e.2.psn == psn)).map Prod.fst

/-- R355: a queue as its QUEUE record gives it; on this device it is in push mode with packet completions (R365). -/
def mirrorQueue (x : Vi) (rec_ : List Byte) (gen : Nat) (h : Option Nat) (accepted : List Nat) : Queue :=
  { queueAt x rec_ with gen := gen, pull := false, rdma := false, win := ⟨h, accepted⟩ }

/-- R356: one record applied. -/
def State.mirrorApply (s : State) (v : Nat) (r : MirrorRecord) : State :=
  match s.vi? v with
  | none => s
  | some x =>
    match r.body with
    | .entry _ p =>
      s.modPair v (fun q =>
        let qu := tgetD q.queues (pQueue p) (Queue.zero 1)
        let k := ((q.entries.getLast?).map Prod.fst).getD 0 + 1
        { q with entries := q.entries ++ [(k, entryOf p qu)],
                 queues := tmod q.queues (pQueue p) (fun u => u.mark p) })
    | .outcome queue psn _ status pay =>
      s.modPair v (fun q => match q.entryKey queue psn with
        | none => q
        | some k => { q with entries := tmod q.entries k (fun e =>
            { e with state := .recorded, status := status, payload := pay, cplStamp := r.stamp }) })
    | .retireUpto queue upto =>
      s.modPair v (fun q => { q with entries := q.entries.filter (fun e =>
        !((queue == 0xFFFF || e.2.queue == queue) && e.2.state == .recorded && decide (e.2.cplStamp ≤ upto))) })
    | .retireOne queue psn =>
      s.modPair v (fun q => match q.entryKey queue psn with
        | none => q
        | some k => { q with entries := tdel q.entries k })
    | .seqOpen pay =>
      let sq : Seq :=
        { p := 0, ctx := leAt pay 12 4, pagePos := leAt pay 16 2, fmt := leAt pay 18 1, train := bitOf (leAt pay 19 1) 0,
          set := if leAt pay 20 2 = 0xFFFF then none else some (leAt pay 20 2), samp := samplingAt pay 22 24, tokens := [], last := none,
          pinned := false, lastCpl := r.stamp, opened := 0, pages := x.layers.map (fun _ => []), saved := none }
      let s := s.modVi v (fun x => { x with seqs := tset x.seqs r.seq sq })
      match tget x.seqs (leAt pay 4 4) with
      | none => s
      | some o => s.sharePages v (leAt pay 4 4) r.seq o (leAt pay 8 4)
    | .seqFork child =>
      match tget x.seqs r.seq with
      | none => s
      | some sq =>
        (s.modVi v (fun x => { x with seqs := tset x.seqs child { sq with pinned := false, lastCpl := r.stamp, opened := 0, saved := none } })).sharePages
          v r.seq child sq sq.p
    | .seqClose => s.freeSeq v r.seq
    | .kvPin on => s.modVi v (fun x => x.modSeq r.seq (fun q => { q with pinned := on }))
    | .commit p kept tokens kv => s.mirrorCommit v r.seq r.stamp p kept tokens kv
    | .adpGrad n gs last => s.modVi v (fun x => x.modSet n (fun a => a.addGrads gs last))
    | .adpState n version t hooks gains bias ts =>
      s.modVi v (fun x => { x with sets := tset x.sets n (mirrorSet (tget x.sets n) version t r.stamp hooks gains bias ts) })
    | .adpClosed n => s.modVi v (fun x => { x with sets := tdel x.sets n })
    | .recipe i rec_ from_ =>
      s.modImg v (fun m => { m with pendingRecipes := m.pendingRecipes ++ [(from_, i, { recipeEntry rec_ 0 with since := from_ })] })
    | .queue rec_ gen h acc => s.modPair v (fun q => { q with queues := tset q.queues (leAt rec_ 0 2) (mirrorQueue x rec_ gen h acc) })
    | .queueGone n =>
      s.modPair v (fun q => { q with queues := tdel q.queues n, entries := q.entries.filter (fun e => e.2.queue != n) })
    | .digest d => s.modPair v (fun q => { q with digest := d })
    | .keepalive => s
    | .epoch _ =>
      s.modPair v (fun q => { q with ckpt :=
        ⟨((q.entries.head?).map Prod.fst).getD 0, ((q.entries.getLast?).map Prod.fst).getD 0 + 1, r.stamp, q.queues.map (fun u => (u.1, u.2.win))⟩ })
    | .snapshotEnd _ =>
      let s := s.modPair v (fun q => { q with state := 2, snapshots := bump q.snapshots, joinEntry := none })
      match x.pair.joinEntry with
      | none => s
      | some (w, e) => s.outcome w e stOk (le 2 v ++ le 1 1 ++ zeros 1 ++ le 2 x.pair.leaseMs ++ le 2 x.pair.peerVi)

/-- R360: the records whose group the mirror acknowledges. Log entry 66 (DEDUCED). -/
def acksAfter : MirrorBody → Bool
  | .entry _ _ => true
  | .outcome _ _ _ _ _ => true
  | .keepalive => true
  | .epoch _ => true
  | .snapshotEnd _ => true
  | _ => false

/-- R360: an acknowledgement. -/
def State.sendAck (s : State) (v : Nat) : State :=
  match s.vi? v with
  | none => s
  | some x => s.pairSend v x.pair.rc (.ack x.pair.applied x.pair.appliedStamp)

/-- R353, R357, R368: a mirror's mirrored state goes: sequences, sets, queues, entries. -/
def State.clearMirror (s : State) (v : Nat) : State :=
  match s.vi? v with
  | none => s
  | some x =>
    let s := (tkeys x.seqs).foldl (fun s q => s.freeSeq v q) s
    (s.modVi v (fun x => { x with sets := [] })).modPair v (fun p =>
      { p with group := [], expect := 0, applied := 0, appliedStamp := 0, digest := [], entries := [], queues := [], ckpt := .empty })

/-- R356: a whole group, applied as one action. Log entry 66 (DEDUCED). -/
def State.mirrorGroup (s : State) (v : Nat) (g : List MirrorRecord) (seqno stamp : Nat) : State :=
  let s := g.foldl (fun s r => s.mirrorApply v r) s
  let s := s.modPair v (fun p => { p with group := [], applied := seqno, appliedStamp := stamp, ackStamp := stamp })
  if g.any (fun r => acksAfter r.body) then s.sendAck v else s

/-- MIRROR_RECORD (R354, R356, R366). -/
def execMirrorRecord (ts vi : Nat) (r : MirrorRecord) (s0 : State) : Host.Outcome State Fault Refusal :=
  let s := s0.upto ts
  .next (match s.vi? vi with
    | none => s
    | some x =>
      match x.pair.former with
      | some rc => s.pairSend vi rc .deposed
      | none =>
        if x.pair.role ≠ 2 ∨ !(x.pair.state == 1 || x.pair.state == 2) then s
        else
          -- R353, R356: a new snapshot starts at SEQNO 0 while the pair is JOINING.
          let s := if x.pair.state = 1 ∧ r.seqno = 0 ∧ r.crcOk then s.clearMirror vi else s
          let p := ((s.vi? vi).map Vi.pair).getD x.pair
          if !r.crcOk ∨ r.seqno ≠ p.expect ∨ 16777216 < r.length then
            (if p.state = 2 then s.modPair vi (fun p => { p with state := 1, broken := true, group := [] }) else s)
          else
            let g := p.group ++ [r]
            let s := s.modPair vi (fun p => { p with expect := r.seqno + 1, group := g })
            if r.groupEnd then s.mirrorGroup vi g r.seqno r.stamp else s)

/-! ### PAIR_JOIN (R292, R352) -/

/-- R292: the VI that a command of group 0x0B names: a tenant only itself, VI 0 any tenant. Log entry 69 (DEDUCED). -/
def pairTarget (s : State) (c : Cmd) : Option (Nat × Vi) :=
  let v := leAt c.pay 0 2
  if v ≠ 0 ∧ (c.vi = 0 ∨ c.vi = v) then (s.vi? v).map (fun x => (v, x)) else none

def joinReply (c : Cmd) (lease : Nat) : List Byte := le 2 (leAt c.pay 0 2) ++ le 1 (leAt c.pay 2 1) ++ zeros 1 ++ le 2 lease ++ le 2 (leAt c.pay 8 2)

/-- R292: LEASE_MS in force. -/
def leaseOf (n : Nat) : Nat := if n = 0 then 500 else clampN n 50 5000

/-- R352: what one side checks of itself. Log entry 67 (DEDUCED). -/
def State.joinOk (s : State) (x : Vi) (role : Nat) : Bool :=
  x.closing.isNone && x.pair.role == 0 && x.img.gen != 0 && x.img.op.isNone && traced s.time &&
    decide (x.digitalUsed + 65 * 1048576 ≤ x.part.digital * 1048576) &&
    (role == 0 || (x.seqs.isEmpty && x.sets.isEmpty && x.queues.length == 1))

/-- PAIR_JOIN (R292, R352): a ROLE with no meaning and a PEER_VI that no device has (R370) are NO_OBJECT (R274). Log entry 69
(DEDUCED). -/
def effPairJoin : Effect := fun s c =>
  let role := leAt c.pay 2 1
  let rc := leAt c.pay 4 2
  let lease := leaseOf (leAt c.pay 6 2)
  let bad := fun st => (s, some (st, joinReply c lease))
  match pairTarget s c with
  | none => bad stNoObject
  | some (v, x) =>
    if !thas x.conns rc ∨ 1 < role ∨ 255 < leAt c.pay 8 2 then bad stNoObject
    else if !s.joinOk x role then bad stNotPermitted
    else
      let s := s.modEntry c.vi c.entry (fun e => { e with state := .running })
      let s := s.modPair v (fun p =>
        { p.ended with role := role + 1, state := 1, leaseMs := lease, peerVi := leAt c.pay 8 2, rc := rc, former := none,
                       joinEntry := some (c.vi, c.entry), joinStart := s.now, checking := decide (role = 0) })
      (if role = 0 then s.rdma v rc .pairCheck false 0 64 0 [] else s, none)

def execPairJoin (p : Packet) (s : State) : Host.Outcome State Fault Refusal := .next (s.takeAs 0x0B01 p noStatic effPairJoin)

/-- A PAIR_JOIN that is not complete ends with NOT_PERMITTED. -/
def State.joinFails (s : State) (v : Nat) : State :=
  match s.vi? v with
  | none => s
  | some x =>
    match x.pair.joinEntry with
    | none => s
    | some (w, e) =>
      (s.modPair v (fun p => { p with joinEntry := none })).outcome w e stNotPermitted
        (le 2 v ++ le 1 (x.pair.role - 1) ++ zeros 1 ++ le 2 x.pair.leaseMs ++ le 2 x.pair.peerVi)

/-- R318, R352: kind and identity of the source of time. -/
def State.sourceIdentity (s : State) : Nat × Nat :=
  if s.time.active < 2 then (0, (((srcOf s.time s.time.active).master).map AnnounceMsg.clockId).getD 0) else (1, s.store.refId)

def Vi.imageDigestBytes (x : Vi) : List Byte := (x.img.image.map Image.digest).getD []

/-- R352, R363: whether the peer's facts let the pair form. Log entry 67 (DEDUCED). -/
def State.factsOk (s : State) (v : Nat) (x : Vi) (f : PeerFacts) : Bool :=
  x.img.gen != 0 && f.digest == x.imageDigestBytes &&
    (x.pair.rejoin || (f.peerVi == v && f.role == 1 && f.traced && traced s.time && (f.sourceKind, f.sourceId) == s.sourceIdentity &&
      decide (f.timeDiffNs ≤ 10000) && f.openSeqs == 0 && f.adapterSets == 0 && f.queues == 1 && decide (x.part.jrnl ≤ f.jrnlMib) &&
      decide (x.part.digital ≤ f.digitalMib) && !f.busy && x.img.op.isNone))

/-- R352: the answer to the check has come, or the connection has failed. -/
def State.pairChecked (s : State) (v : Nat) (f : Option PeerFacts) : State :=
  match s.vi? v with
  | none => s
  | some x =>
    if !x.pair.checking then s
    else
      let ok := match f with
        | none => false
        | some f => s.factsOk v x f
      if ok then s.modPair v (fun p => { p with checking := false, snapDue := true })
      else if x.pair.rejoin then s.modPair v (fun p => { p with checking := false, rejoin := false, state := 4 })
      else (s.joinFails v).modPair v Pair.ended

/-- JOIN_TIMEOUT (R352): a mirror whose home has not answered within 10 s. Log entry 67 (DEDUCED). -/
def execJoinTimeout (ts vi : Nat) (s0 : State) : Host.Outcome State Fault Refusal :=
  let s := s0.upto ts
  .next (match s.vi? vi with
    | none => s
    | some x =>
      if x.pair.role ≠ 2 ∨ x.pair.state ≠ 1 ∨ x.pair.joinEntry.isNone ∨ 0 < x.pair.expect ∨ s.now < x.pair.joinStart + 10000000000 then s
      else (s.joinFails vi).modPair vi Pair.ended)

/-! ### The snapshot (R353) -/

/-- The longest prefix that a sequence shares with one of the sequences before it. -/
def sharedPrefix (before : List (Nat × Seq)) (sq : Seq) : Option (Nat × Nat) :=
  let shared := fun (o : Seq) => (List.range sq.pages.length).foldl (fun n l =>
    ((sq.pages.getD l []).filter (fun e => tget (o.pages.getD l []) e.1 == some e.2)).foldl (fun n e => max n ((e.1 + 1) * sq.pagePos)) n) 0
  let found := (before.map (fun o => (o.1, min (shared o.2) (min o.2.p sq.p)))).filter (fun e => decide (0 < e.2))
  bestBy (fun a b => decide (b.2 < a.2)) found

/-- R353: the keys and values of the committed pages that a sequence has in T1, from a position on. -/
def State.snapshotRows (s : State) (v : Nat) (x : Vi) (sq : Seq) (n : Nat) : List (Nat × Nat × List (List Byte) × List (List Byte)) :=
  ((List.range x.layers.length).zip x.layers).flatMap (fun e =>
    (sq.pages.getD e.1 []).flatMap (fun t =>
      match (tget x.kv.pages t.2).bind (fun g => (if g.state = .resident ∨ g.state = .spilling then g.t1 else none)) with
      | none => []
      | some b =>
        ((List.range sq.pagePos).map (fun i => t.1 * sq.pagePos + i)).filterMap (fun pos =>
          if pos < n ∨ sq.p ≤ pos then none
          else
            let r := readRows s.hbm (t1Base v) e.2 sq.fmt sq.pagePos (pos % sq.pagePos) b
            some (e.1, pos, r.elems, r.scales))))

/-- R353: one open sequence in the snapshot. -/
def State.snapshotSeq (s : State) (v : Nat) (x : Vi) (before : List (Nat × Seq)) (q : Nat) (sq : Seq) : State :=
  let sh := (sharedPrefix before sq).getD (0xFFFFFFFF, 0)
  let s := s.emit v (some q) true (.seqOpen (seqOpenBytes q sh.1 sh.2 sq))
  let s := if sh.2 < sq.p then s.emit v (some q) true (.commit sh.2 (sq.p - sh.2) (sq.tokens.drop sh.2) (s.snapshotRows v x sq sh.2)) else s
  if sq.pinned then s.emit v (some q) true (.kvPin true) else s

/-- R353: one unretired entry in the snapshot. -/
def State.snapshotEntry (s : State) (v : Nat) (e : Entry) : State :=
  let s := s.emit v none true (.entry (entryHeader e) e.req)
  if e.state = .recorded ∨ e.state = .sent then s.emit v none true (.outcome e.queue e.psn 3 e.status e.payload) else s

/-- R353: the snapshot at the join stamp. Log entry 66 (DEDUCED). -/
def State.snapshot (s : State) (v : Nat) : State :=
  match s.vi? v with
  | none => s
  | some x =>
    let s := s.modPair v (fun p =>
      { p with snapDue := false, sending := true, nextSeqno := 0, unacked := [], snapshots := bump p.snapshots, state := 1, rejoin := false })
    let s := (s.emitImage v).emitQueues v
    let s := x.sets.foldl (fun s a => (s.emitSet v a.1 a.2).emit v none true (.adpGrad a.1 (a.2.tensors.map Tensor.grad) a.2.lastTrain)) s
    let s := ((List.range x.seqs.length).zip x.seqs).foldl (fun s e => s.snapshotSeq v x (x.seqs.take e.1) e.2.1 e.2.2) s
    let s := (x.jrnl.entries.filter (fun e => e.2.state != .retired)).foldl (fun s e => s.snapshotEntry v e.2) s
    s.emit v none true (.snapshotEnd s.now)

/-- R353, R355, R307: at a beat boundary, snapshots that are due are taken and every home sends EPOCH. -/
def State.pairBoundary (s : State) : State :=
  s.vis.foldl (fun s e =>
    if e.2.pair.role ≠ 1 then s
    else
      let s := s.emit e.1 none true (.epoch (s.beatOf s.now))
      if e.2.pair.snapDue then s.snapshot e.1 else s) s

/-! ### Acknowledgement, lease, fence (R359–R363) -/

/-- R359: ACCEPTED of the entries whose ENTRY has just been acknowledged. -/
def State.releaseAccepted (s : State) (v : Nat) (rs : List PairRec) : State :=
  rs.foldl (fun s r => match r.body with
    | .entry _ p =>
      (match (s.vi? v).bind (fun x => x.jrnl.entries.find? (fun e => e.2.queue == pQueue p && e.2.psn == pPsn p && e.2.twoPhase &&
          !e.2.acceptedSent && e.2.state != .retired)) with
        | none => s
        | some (id, e) => s.accepts v id e.req)
    | _ => s) s

/-- ACK (R353, R360–R363). Log entry 67 (DEDUCED). -/
def execAck (ts vi seqno stamp : Nat) (s0 : State) : Host.Outcome State Fault Refusal :=
  let s := s0.upto ts
  .next (match s.vi? vi with
    | none => s
    | some x =>
      let p := x.pair
      if p.former.isSome then s.pairSend vi (p.former.getD 0) .deposed
      else if p.role ≠ 1 ∨ p.state = 5 then s
      else if p.state = 4 then s.pairReturns vi p.rc
      else if !p.sending ∨ p.nextSeqno ≤ seqno then s
      else
        let done := p.unacked.filter (fun r => decide (r.seqno ≤ seqno))
        let at_ := max p.ackStamp (((done.getLast?).map PairRec.stamp).getD stamp)
        let joined := p.state = 1 ∧ done.any (fun r => match r.body with
          | .snapshotEnd _ => true
          | _ => false)
        let lease := at_ + p.leaseMs * 1000000
        let s := s.modPair vi (fun p =>
          { p with unacked := p.unacked.filter (fun r => decide (seqno < r.seqno)), ackStamp := at_, leaseEnd := lease,
                   state := if joined then 2 else if p.state = 3 ∧ s.now < lease then 2 else p.state })
        let s := if p.state = 1 then s else s.releaseAccepted vi done
        match (if joined then p.joinEntry else none) with
        | none => s
        | some (w, e) =>
          (s.modPair vi (fun p => { p with joinEntry := none })).outcome w e stOk
            (le 2 vi ++ le 1 0 ++ zeros 1 ++ le 2 p.leaseMs ++ le 2 p.peerVi))

/-- KEEPALIVE (R355): LEASE_MS / 8 without a record. -/
def execKeepalive (ts vi : Nat) (s0 : State) : Host.Outcome State Fault Refusal :=
  let s := s0.upto ts
  .next (match s.vi? vi with
    | none => s
    | some x => if x.pair.lastSent + x.pair.leaseMs * 125000 ≤ s.now then s.emit vi none true .keepalive else s)

/-- R361: the VI is fenced. -/
def State.fence (s : State) (v : Nat) (byLease : Bool) : State :=
  s.modPair v (fun p =>
    if p.role = 1 ∧ p.state = 2 then { p with state := 3, fences := bump p.fences, expired := p.expired || byLease } else p)

/-- LEASE_EXPIRY (R361). Log entry 67 (DEDUCED). -/
def execLeaseExpiry (ts vi : Nat) (s0 : State) : Host.Outcome State Fault Refusal :=
  let s := s0.upto ts
  .next (match s.vi? vi with
    | none => s
    | some x => if x.pair.role = 1 ∧ x.pair.state = 2 ∧ x.pair.leaseEnd ≤ s.now then s.fence vi true else s)

/-- R363, R368: ACCEPTED replies that were held leave once nothing is held any more. -/
def State.releaseAll (s : State) (v : Nat) : State :=
  match s.vi? v with
  | none => s
  | some x => (x.jrnl.entries.filter (fun e => e.2.twoPhase && !e.2.acceptedSent && e.2.state != .retired && e.2.state != .sent)).foldl
      (fun s (e : Nat × Entry) => s.accepts v e.1 e.2.req) s

/-- PAIR_UNMIRRORED (R292, R363, R366). -/
def effPairUnmirrored : Effect := fun s c =>
  let rep := bytesAt c.pay 0 3 ++ zeros 1
  match pairTarget s c with
  | none => (s, some (stNoObject, rep))
  | some (v, x) =>
    if x.pair.role = 0 then (s, some (stNoObject, rep))
    else if x.pair.role = 2 ∨ x.pair.state = 5 then (s, some (stNotPermitted, rep))
    else if leAt c.pay 2 1 ≠ 0 then
      (if x.pair.state = 4 then (s, some (stOk, rep))
       else
        let s := s.joinFails v
        let s := s.modPair v (fun p =>
          { p with state := 4, sending := false, checking := false, rejoin := false, snapDue := false, unacked := [], unmirrored := s.now,
                   leaseEnd := 0, leaveDue := true })
        let s := if s.pairUp x then s.pairReturns v x.pair.rc else s
        (s.releaseAll v, some (stOk, rep)))
    else if x.pair.state ≠ 4 ∨ !s.pairUp x then (s, some (stOk, rep))
    else
      let s := s.modPair v (fun p => { p with state := 1, checking := true, rejoin := true, leaveDue := false, joinStart := s.now })
      (s.rdma v x.pair.rc .pairCheck false 0 64 0 [], some (stOk, rep))

def execPairUnmirrored (p : Packet) (s : State) : Host.Outcome State Fault Refusal :=
  .next (s.takeAs 0x0B04 p noStatic effPairUnmirrored)

/-! ### Takeover (R364–R366) -/

/-- R369: the digests differ. -/
def Vi.digestDiff (x : Vi) : Bool := x.pair.role == 2 && x.pair.digest != [] && x.pair.digest != x.imageDigestBytes

/-- R365 steps 3 and 4: the queues of the new home. Log entry 69 (DEDUCED). -/
def takeoverQueues (x : Vi) (own : Bool) : Tbl Queue :=
  let qs := tmapv x.pair.queues (fun n q => { q with gen := nextTag q.gen, awaitAddr := q.cplAddr == 0 && !(own && n == 0) })
  if thas qs 0 then qs else tset qs 0 ((tget x.queues 0).getD (Queue.zero 1))

/-- R365: the takeover, once the mirror's time of record has passed the highest stamp it has applied. -/
def State.takeover (s : State) (v : Nat) : State :=
  match s.vi? v with
  | none => s
  | some x =>
    if s.now ≤ x.pair.appliedStamp then s.modPair v (fun p => { p with awaiting := false })
    else
      let cmd := x.pair.takeEntry
      let own := (cmd.map Prod.fst) == some v
      let src := (cmd.bind (fun e => s.entry? e.1 e.2)).map Entry.req
      let qs := takeoverQueues x own
      let fixed := fun (e : Entry) => match (if own && e.queue == 0 then src else none) with
        | none => e
        | some p => { e with req := { e.req with srcIp := p.srcIp, srcPort := p.srcPort } }
      let es := x.pair.entries.map (fun e => (x.jrnl.next + e.1, fixed e.2))
      let keys := (es.filter (fun e => e.2.open_)).map Prod.fst
      let n := es.length
      let tag := nextTag (s.viTag v)
      let j := { x.jrnl with entries := x.jrnl.entries ++ es, next := x.jrnl.next + ((x.pair.entries.getLast?).map Prod.fst).getD 0 + 1,
                             replay := x.jrnl.replay ++ keys }
      let p := { x.pair.ended with takeovers := bump x.pair.takeovers, former := some x.pair.rc }
      let st := { s.store with viTags := tset s.store.viTags v tag,
                               q0Tags := tset s.store.q0Tags v (((tget qs 0).map Queue.gen).getD 1) }
      let s := { s with store := st }.setVi v { x with queues := qs, jrnl := j, pair := p }
      match cmd with
      | none => s
      | some (w, e) => s.outcome w e stOk (le 2 v ++ zeros 2 ++ le 4 n)

/-- PAIR_TAKEOVER (R292, R364). -/
def effPairTakeover : Effect := fun s c =>
  let rep := bytesAt c.pay 0 2 ++ zeros 6
  match pairTarget s c with
  | none => (s, some (stNoObject, rep))
  | some (v, x) =>
    if x.pair.role ≠ 2 ∨ x.pair.state ≠ 2 ∨ x.digestDiff then (s, some (stNotPermitted, rep))
    else
      let up := s.pairUp x
      let s := s.modEntry c.vi c.entry (fun e => { e with state := .running })
      let s := s.modPair v (fun p => { p with state := 6, takeEntry := some (c.vi, c.entry), takeStart := s.now, awaiting := up, group := [] })
      (if up then s.pairSend v x.pair.rc .depose else s.takeover v, none)

def execPairTakeover (p : Packet) (s : State) : Host.Outcome State Fault Refusal :=
  .next (s.takeAs 0x0B03 p noStatic effPairTakeover)

/-- R365 step 2: takeovers that wait only for their time of record. -/
def State.takeovers (s : State) : State :=
  s.vis.foldl (fun s e => if e.2.pair.state = 6 ∧ !e.2.pair.awaiting then s.takeover e.1 else s) s

/-- DEPOSE_TIMEOUT (R364): twice LEASE_MS without DEPOSED. -/
def execDeposeTimeout (ts vi : Nat) (s0 : State) : Host.Outcome State Fault Refusal :=
  let s := s0.upto ts
  .next (match s.vi? vi with
    | none => s
    | some x =>
      if x.pair.role = 2 ∧ x.pair.state = 6 ∧ x.pair.takeStart + 2 * x.pair.leaseMs * 1000000 ≤ s.now then s.takeover vi else s)

/-- R366: the home is deposed: its entries are retired without completion, held replies go, steps that wait end.
Log entry 69 (DEDUCED). -/
def State.enterDeposed (s : State) (v : Nat) : State :=
  let s := s.joinFails v
  let s := s.modVi v (fun x =>
    { x with jrnl := { x.jrnl with entries := [], replay := [] }, ends := [], bwd := [],
             pair := { x.pair with state := 5, sending := false, checking := false, snapDue := false, unacked := [], leaveDue := false } })
  let gone := (s.steps.filter (fun e => e.2.vi == v && e.2.adm.isNone && e.2.entry.isSome)).map Prod.fst
  gone.foldl (fun s k => s.dropStep k) s

/-- DEPOSE (R364): the home fences, marks its steps to end, and answers DEPOSED after its last record.
Log entry 69 (DEDUCED). -/
def execDepose (ts vi : Nat) (s0 : State) : Host.Outcome State Fault Refusal :=
  let s := s0.upto ts
  .next (match s.vi? vi with
    | none => s
    | some x =>
      if x.pair.role ≠ 1 ∨ x.pair.state = 5 then s
      else
        let s := (s.abandonSteps (fun _ t => t.vi == vi && !t.ending)).1
        (s.pairSend vi x.pair.rc .deposed).enterDeposed vi)

/-- DEPOSED (R364, R366). -/
def execDeposed (ts vi : Nat) (s0 : State) : Host.Outcome State Fault Refusal :=
  let s := s0.upto ts
  .next (match s.vi? vi with
    | none => s
    | some x =>
      if x.pair.role = 2 then (if x.pair.state = 6 then s.takeover vi else s)
      else if x.pair.role ≠ 1 then s
      else
        let split := decide (x.pair.state = 4)
        let s := s.modPair vi (fun p => { p with deposedSeen := true, splitSeen := p.splitSeen || split })
        let s := if split then s.report
            { recOf 0x0407 1 vi s.now with detail := le 2 x.pair.peerVi ++ zeros 2 ++ le 8 x.pair.unmirrored } else s
        if x.pair.state = 5 then s else s.enterDeposed vi)

/-! ### Leaving (R368) -/

/-- R368: what ends a pair on its own side. -/
def State.unpair (s : State) (v : Nat) (x : Vi) : State :=
  let s := s.joinFails v
  let s := if x.pair.role = 2 then s.clearMirror v else s
  let hold := x.pair.holding
  let s := s.modPair v Pair.ended
  if hold then s.releaseAll v else s

/-- PAIR_LEAVE (R292, R366, R368). -/
def effPairLeave : Effect := fun s c =>
  let rep := bytesAt c.pay 0 2 ++ zeros 2
  match pairTarget s c with
  | none => (s, some (stNoObject, rep))
  | some (v, x) =>
    if x.pair.role = 0 then (s, some (stNoObject, rep))
    else if 5 ≤ x.pair.state then (s, some (stNotPermitted, rep))
    else
      let s := if s.pairUp x then s.pairSend v x.pair.rc .leave else s
      (s.unpair v x, some (stOk, rep))

def execPairLeave (p : Packet) (s : State) : Host.Outcome State Fault Refusal := .next (s.takeAs 0x0B02 p noStatic effPairLeave)

/-- LEAVE (R363, R368). -/
def execLeave (ts vi : Nat) (s0 : State) : Host.Outcome State Fault Refusal :=
  let s := s0.upto ts
  .next (match s.vi? vi with
    | none => s
    | some x => if x.pair.role = 0 ∨ 5 ≤ x.pair.state then s else s.unpair vi x)

/-- R359: replies held. -/
def Vi.heldReplies (x : Vi) : Nat :=
  (x.jrnl.entries.filter (fun e => e.2.state == .recorded && pairHolds x e.1)).length +
    (if x.pair.holding then (x.jrnl.entries.filter (fun e => e.2.twoPhase && !e.2.acceptedSent && e.2.open_)).length else 0)

/-- R355: the bytes of a record's body. -/
def bodyLen : MirrorBody → Nat
  | .commit _ _ tokens kv => 8 + 4 * tokens.length + sumNat (kv.map (fun r => sumNat (r.2.2.1.map List.length) + sumNat (r.2.2.2.map List.length)))
  | .seqClose => 0
  | .keepalive => 0
  | b => bodyBuffer b

/-- R370: PENDING_KIB. -/
def Pair.pendingKib (p : Pair) : Nat := ceilDiv (sumNat (p.unacked.map (fun r => 32 + bodyLen r.body))) 1024

end Sys2Proof.Machine
end

