-- ==== Sys2Proof/Machine/Rdma.lean ====
section
/-! DEFINITION. The RDMA transfers of the device as they end (R245, R346, R469): responses, failures, retries and timeouts. -/
namespace Sys2Proof.Machine

/-- Remove one request record of a connection; the connection goes on failing. -/
def State.dropXfer (s : State) (v rc : Nat) (t : Xfer) : State :=
  (s.modVi v (fun x => x.modConn rc (fun c => { c with out := c.out.erase t }))).pumpReads v rc

/-- R286, R336, R337, R429: the transfer of a command has ended, with its data or without. -/
def State.commandXfer (s : State) (v e : Nat) (data : Option (List Byte)) : State :=
  match s.entry? v e with
  | none => s
  | some n =>
    if n.state ≠ .running then s
    else match n.opcode with
      | 0x0602 => s.xferDone v e (pPay n.req) data
      | 0x0A01 => s.packArrives v e data
      | 0x0A04 => s.cperEnds v e data.isSome
      | 0x0C03 => s.fwArrives e data
      | _ => s

/-- R249: a fetch of slots has failed: the slots from it on are fetched again at the next doorbell, and fetches of later slots
that are still outstanding are dropped when they come. Log entry 70 (DEDUCED). -/
def State.pullFails (s : State) (v queue first : Nat) : State :=
  s.modVi v (fun x =>
    match tget x.queues queue with
    | none => x
    | some q =>
      let stale := fun (t : Xfer) => match t.purpose with
        | .pull n _ _ => if n = queue then { t with qGen := noTag } else t
        | _ => t
      let back := if (first + 2 ^ 32 - q.sqHead) % 2 ^ 32 < 2 ^ 31 then first else q.sqHead
      (x.modQueue queue (fun q => { q with sqTail := back, skip := 0 })).modConn q.rc (fun c => { c with out := c.out.map stale }))

/-- R145: a fetch that goes on failing loses its page: FETCH_LOST, and the sequences that reference it are closed. -/
def State.fetchLost (s : State) (v k : Nat) : State :=
  match (s.vi? v).bind (fun x => tget x.kv.pages k) with
  | none => s
  | some p =>
    let s := s.report { recOf 0x0406 1 v s.now with detail := le 4 p.index ++ le 2 p.layer, seq := p.refs.headD 0xFFFFFFFF }
    let s := p.refs.foldl (fun s q => (s.closeSeq v q).1) s
    s.releasePage v k

/-- R144, R245: the end of a transfer whose outcome no longer counts: its page may go, or return to where it was. -/
def State.xferStale (s : State) (v : Nat) (t : Xfer) : State :=
  match t.purpose with
  | .spill k _ => s.spillDone v k false
  | .fetch k _ => s.fetchDone v k false
  | _ => s

/-- R245: a transfer that has failed, to the rules of the chapter that started it; its request record is gone.
Log entry 70 (DEDUCED). -/
def State.xferFails (s : State) (v : Nat) (t : Xfer) : State :=
  if t.viGen ≠ s.viTag v then s.xferStale v t
  else match t.purpose with
  | .pull q first _ => if t.qGen = noTag then s else s.pullFails v q first
  | .ring _ => s
  | .record y a => s.recordArrives v y a none
  | .spill k _ => (s.cancelSpill v k).releasePage v k
  | .fetch k _ => s.fetchLost v k
  | .command e => s.commandXfer v e none
  | .imgSection => s
  | .image => s.imageRead v none
  | .pairCheck => s.pairChecked v none

/-- R145, R245: a fetch that was refused is asked for again. Log entry 70 (DEDUCED). -/
def State.fetchAgain (s : State) (v rc : Nat) (t : Xfer) : State :=
  match (s.vi? v).bind (fun x => tget x.conns rc) with
  | none => s
  | some c =>
    (s.modVi v (fun x => x.modConn rc (fun c =>
      { c with out := c.out.erase t ++ [t] }.failing s.now))).rcSend v c (.rdma v rc t)

/-- R245: the oldest transfer of a connection that is no fetch fails. -/
def State.failFirst (s : State) (v rc : Nat) : State :=
  let dies := fun (t : Xfer) => match t.purpose with
    | .fetch _ _ => false
    | _ => true
  match (s.vi? v).bind (fun x => (tget x.conns rc).bind (fun c => c.out.find? dies)) with
  | none => s
  | some t => (s.dropXfer v rc t).xferFails v t

/-- R245: a connection enters error: RC_ERROR, and its transfers fail, the oldest first; a fetch goes on failing until its
transfer timeout, and in a teardown every transfer runs to it (R347). -/
def State.connError (s : State) (v rc : Nat) : State :=
  match (s.vi? v).bind (fun x => (tget x.conns rc).map (fun c => (x, c))) with
  | none => s
  | some (x, c) =>
    if c.error then s
    else
      let s := s.modVi v (fun x => x.modConn rc (fun c => { c with error := true }.failing s.now))
      let s := s.report { recOf 0x0403 1 v s.now with detail := le 2 rc ++ le 1 Config.rcSyndrome.toNat }
      if x.closing.isSome then s
      else c.out.foldl (fun s _ => s.failFirst v rc) s

/-- R244, R245: every request of a connection that is on the wire is sent again, and counted. Log entry 107 (DEDUCED). -/
def State.resend (s : State) (v rc : Nat) : State :=
  match (s.vi? v).bind (fun x => tget x.conns rc) with
  | none => s
  | some c =>
    (c.out.filter Xfer.sent).foldl (fun s t =>
      (s.modVi v (fun x => { x with ctr := { x.ctr with rdmaRetry := bump x.ctr.rdmaRetry } })).rcSend v c (.rdma v rc t)) s

/-- R244: a receiver that is not ready: the request is sent again, up to 7 times in a row; then the connection enters error.
Log entry 107 (DEDUCED). -/
def State.rnrRetry (s : State) (v rc : Nat) (t : Xfer) : State :=
  match (s.vi? v).bind (fun x => tget x.conns rc) with
  | none => s
  | some c =>
    if c.rnr < Config.rnrRetry then
      (s.modVi v (fun x =>
        { x.modConn rc (fun c => { c with rnr := c.rnr + 1 }.failing s.now) with
          ctr := { x.ctr with rdmaRetry := bump x.ctr.rdmaRetry } })).rcSend v c (.rdma v rc t)
    else s.connError v rc

/-- A response that carries data, or acknowledges a write. -/
def State.xferOk (s : State) (v rc : Nat) (x : Vi) (t : Xfer) (data : List Byte) : State :=
  let pop := s.popXfer v rc t
  let current := t.viGen == s.viTag v
  match t.purpose with
  | .pull q _ _ =>
    let n := (tget x.queues q).map Queue.slotLog2
    s.pullArrives v q (chunks (2 ^ n.getD 6) 1024 data)
  | .ring _ => pop
  | .record y a => if current then pop.recordArrives v y a (some (bytesAt data 0 t.len)) else pop
  | .spill k _ => pop.spillDone v k current
  | .fetch k scale => (if current then pop.fetchBlock v k scale data else pop).fetchDone v k current
  | .command e => if current then pop.commandXfer v e (some (bytesAt data 0 t.len)) else pop
  | .imgSection => pop
  | .image => if current then pop.imageRead v (some (bytesAt data 0 t.len)) else pop
  | .pairCheck => pop

/-- RDMA_RESPONSE (R245, R352, R469): the oldest outstanding request of the connection. -/
def execRdmaResponse (ts vi rc : Nat) (r : RdmaReply) (s0 : State) : Host.Outcome State Fault Refusal :=
  let s := s0.upto ts
  .next (match s.vi? vi with
    | none => s
    | some x =>
      match (tget x.conns rc).bind (fun c => if c.error then none else c.first) with
      | none => s
      | some t =>
        let s := match r with
          | .ok data => if t.purpose = Purpose.pairCheck then s else s.xferOk vi rc x t data
          | .peer f =>
            if t.purpose = Purpose.pairCheck then
              (if t.viGen == s.viTag vi then (s.popXfer vi rc t).pairChecked vi (some f) else s.popXfer vi rc t)
            else s
          | .nak =>
            (match t.purpose with
             | .fetch _ _ => if x.closing.isSome then s.popXfer vi rc t else s.fetchAgain vi rc t
             | _ => (s.popXfer vi rc t).xferFails vi t)
          | .rnr => s.rnrRetry vi rc t
        s.wake)

/-- RC_ACK_TIMEOUT (R244, R245): the requests on the wire are sent again, or, once retries are exhausted, the connection enters
error. -/
def execRcAckTimeout (ts vi rc : Nat) (s0 : State) : Host.Outcome State Fault Refusal :=
  let s := s0.upto ts
  .next (match (s.vi? vi).bind (fun x => tget x.conns rc) with
    | none => s
    | some c =>
      if c.error ∨ c.out = [] then s
      else if c.tries < c.retry then
        (s.modVi vi (fun x => x.modConn rc (fun c => { c with tries := c.tries + 1 }.failing s.now))).resend vi rc
      else (s.connError vi rc).wake)

/-- R346: the transfer timeout of a connection in ns. -/
def Conn.transferNs (c : Conn) : Nat := 2 * (4096 * 2 ^ c.ackExp * (c.retry + 1))

/-- R346: from when the timeout of a connection's transfers counts. Log entry 70 (DEDUCED). -/
def State.timeoutFrom (s : State) (v : Nat) (x : Vi) (c : Conn) : Option Nat :=
  match x.closing, s.err.resets.find? (fun r => r.domain == 3 && r.target == v) with
  | some t, _ => some t.start
  | none, some r => some r.start
  | none, none => c.failSince

/-- TRANSFER_TIMEOUT (R145, R346, R347, R469). -/
def execTransferTimeout (ts vi rc : Nat) (s0 : State) : Host.Outcome State Fault Refusal :=
  let s := s0.upto ts
  .next (match (s.vi? vi).bind (fun x => (tget x.conns rc).map (fun c => (x, c))) with
    | none => s
    | some (x, c) =>
      match c.out.head?, s.timeoutFrom vi x c with
      | some t, some start =>
        if s.now < start + c.transferNs then s
        else if x.closing.isSome then
          (s.dropXfer vi rc t).modVi vi (fun x => { x with closing := x.closing.map (fun k => { k with xfers := k.xfers + 1 }) })
        else if s.inReset vi then
          (match t.purpose with
           | .spill k _ => ((s.dropXfer vi rc t).cancelSpill vi k).releasePage vi k
           | .fetch k _ => (s.dropXfer vi rc t).fetchLost vi k
           | _ => s.dropXfer vi rc t)
        else ((s.dropXfer vi rc t).xferFails vi t).wake
      | _, _ => s)

end Sys2Proof.Machine
end

