-- ==== Sys2Proof/Machine/Regs.lean ====
section
/-! DEFINITION. The management registers: what each block reads (R12, R88, R231, R259, R318, R349, R370, R385, R400, R421, R422,
R442), what a write does (R4), the view of a VI (R257, R296), gating (R420), and the commands and register events that reach them. -/
namespace Sys2Proof.Machine

/-! ### Words -/

/-- Word k of a byte string: byte 4k in bits [7:0]. -/
def wordAt (bs : List Byte) (k : Nat) : Nat := leAt bs (4 * k) 4

/-- A word with one word of a byte string replaced. -/
def setWord (bs : List Byte) (k v : Nat) : List Byte := bs.take (4 * k) ++ le 4 v ++ bs.drop (4 * k + 4)

/-- The low or high half of a 64-bit field whose low half lies at an address. -/
def half (low a v : Nat) : Nat := if a = low then lo32 v else hi32 v

/-- Bits set where a list of flags is. -/
def bitsSet (bs : List Bool) : Nat := sumNat ((List.range bs.length).map (fun i => if lget bs i false then 2 ^ i else 0))

/-- R4: a W1C field: bits written 1 that lie in the mask clear. -/
def w1c (old val mask : Nat) : Nat := old - (old &&& (val &&& mask))

/-- Whether a word lies in a run of `n` words from an address on. -/
def inRun (a base n : Nat) : Bool := decide (base ≤ a) && decide (a < base + 4 * n)

/-! ### Reading, block by block -/

/-- R12: identity and version. -/
def State.readIdentity (s : State) (v : Nat) (x : Vi) (a : Nat) : Nat :=
  match a with
  | 0x00 => Config.devId
  | 0x04 => Config.stepping
  | 0x08 => s.sec.fwVersion
  | 0x0C => Config.slosonVersion
  | 0x10 => (if v = 0 then Config.yelmCount else x.yelmCount) * 2 ^ 20 + v * 2 ^ 12
  | 0x14 => x.part.hbm
  | 0x18 => Config.caps
  | 0x1C => Config.serialLo.toNat
  | 0x20 => Config.serialHi.toNat
  | _ => 0

/-- R79, R259: LINK_NEXT from one physical course to the next of the VI. Log entry 73 (DEDUCED). -/
def linkNext (c d : Nat) : Nat :=
  if d ≠ c + 1 then 0 else if c / 4 = d / 4 then 1 else if c / 16 = d / 16 then 2 else 0

/-- R259: COURSE_SEL as it is clamped. -/
def Vi.courseSel (x : Vi) : Nat := min x.sel.course (x.part.courses.length - 1)

/-- R259: the fields of the VI shown; a number that is not open shows the Reset column. Log entry 95 (DEDUCED). -/
def State.readViFields (s : State) (reader shown : Nat) (a : Nat) : Nat :=
    let x := s.viView shown
    let q := tget x.queues x.sel.queue
    let ofQ := fun (f : Queue → Nat) => (q.map f).getD 0
    match a with
    | 0x104 => s.viTag shown * 2 ^ 16 + (if (s.vi? shown).isNone then 0 else if x.closing.isSome then 2 else 1)
    | 0x118 => wordAt (be 4 x.addr.ipv4.toNat) 0
    | 0x11C => x.addr.vlan * 2 ^ 16 + x.addr.prefix4 * 2 ^ 8 + x.addr.prefix6
    | 0x120 => x.part.egress * 2 ^ 16 + x.part.trainShare * 2 ^ 8 + x.addr.ports
    | 0x124 => x.part.queues * 2 ^ 16 + x.part.courses.length
    | 0x128 => x.part.hbm
    | 0x12C => x.part.jrnl
    | 0x130 => x.part.digital
    | 0x134 => x.part.train
    | 0x138 => x.kv.t1.size / 1048576
    | 0x13C => x.part.remote
    | 0x140 => x.remoteBytes / 1048576
    | 0x144 => x.courseSel
    | 0x148 =>
      let k := x.courseSel
      (match x.part.ranked[k]?, x.part.ranked[k + 1]? with
        | some c, some d => linkNext c d * 2 ^ 8
        | _, _ => 0) + (if reader = 0 then lget x.part.ranked k 0xFF else 0xFF)
    | 0x150 => x.ctr.rx
    | 0x154 => x.ctr.tx
    | 0x158 => x.ctr.cplRetx
    | 0x15C => x.ctr.rdmaRetry
    | 0x160 => x.ctr.slotBad
    | 0x200 => x.sel.queue
    | 0x204 => ofQ (fun q => q.gen * 2 ^ 16 + q.cls * 2 ^ 4 + 8 * b2n q.rdma + 4 * b2n q.pull + (if q.destroying then 2 else 1))
    | 0x208 => ofQ Queue.sqHead
    | 0x20C => ofQ Queue.sqTail
    | 0x210 => ofQ Queue.cqTail
    | 0x214 => ofQ Queue.cqHead
    | 0x218 => ofQ (fun q => min q.held.length 0xFFFF)
    | _ => if inRun a 0x108 4 then wordAt (be 16 x.addr.ipv6.toNat) ((a - 0x108) / 4) else 0

/-- R259, R260: interfaces and queues; a tenant reads 0 in the device-wide counters. -/
def State.readIfq (s : State) (v : Nat) (a : Nat) : Nat :=
  let n := s.net
  let port := fun p => 4 * b2n (lget n.eee p false) + (lget n.portPend p none).getD (lget n.portMode p 0)
  let shown := if v = 0 then n.viSel else v
  let own := fun (k : Nat) => if v = 0 then k else 0
  match a with
  | 0x00 => port 0
  | 0x04 => port 1
  | 0x08 => bitsSet (s.sec.ms.map MacSec.on) * 2 ^ 8 + n.linkUp
  | 0x0C => n.maxFrame
  | 0x10 => n.udp
  | 0x14 => n.prioMap
  | 0x18 => n.trust
  | 0x1C => n.pfcEn
  | 0x20 => n.pfcWd
  | 0x24 => n.cplRetry
  | 0x50 => n.dscpLo
  | 0x54 => n.dscpHi
  | 0xA0 => own n.rxNoVi
  | 0xA4 => own n.rxMismatch
  | 0xA8 => own n.rxFrag
  | 0xAC => own n.rxOther
  | 0xB0 => own n.pfcWdEvents
  | 0xB4 => own n.cnpRx
  | 0xB8 => own n.cnpTx
  | 0xBC => own n.rdmaReject
  | 0x100 => shown
  | _ =>
    if inRun a 0x30 8 then
      let e := lget n.ets ((a - 0x30) / 4) (false, 0)
      128 * b2n e.1 + e.2
    else if inRun a 0x60 16 then
      let mac := Config.macBase.toNat + (a - 0x60) / 8
      if (a - 0x60) % 8 = 0 then lo32 mac else mac / 2 ^ 32 % 2 ^ 16
    else if decide (0x104 ≤ a) && decide (a ≤ 0x218) then s.readViFields v shown a else 0

/-- R299, R318: the master of the active source. -/
def TimeBlk.gmId (t : TimeBlk) : Nat := if t.active < 2 then (((srcOf t t.active).master).map AnnounceMsg.clockId).getD 0 else 0

/-- R318: the oldest unretired entry of a journal. -/
def Journal.oldest (j : Journal) : Nat := ((j.entries.find? (fun e => e.2.state != .retired)).map (fun e => e.2.stamp)).getD 0

/-- R318: time and beats; STAMP_HI and BEAT_NUM_HI as R319 latches them. Log entry 72 (DEDUCED). -/
def State.readTime (s : State) (v : Nat) (x : Vi) (a : Nat) : Nat :=
  let t := s.time
  let src := srcOf t t.active
  let shown := if v = 0 then t.jrnlSel else v
  let j := ((s.vi? shown).map Vi.jrnl).getD .empty
  match a with
  | 0x00 => 128 * b2n t.unset + 64 * b2n t.slewing + 32 * b2n t.stepped + 16 * b2n t.sourceLost + 8 * b2n (!traced t) + t.active
  | 0x04 => 16 * t.pref + t.srcEn
  | 0x08 => lo32 s.now
  | 0x0C => x.sel.stampHi.getD (hi32 s.now)
  | 0x10 => t.beatLog2
  | 0x14 => lo32 (s.beatOf s.now)
  | 0x18 => x.sel.beatHi.getD (hi32 (s.beatOf s.now))
  | 0x1C => twos 32 (clampI src.offset (-0x7FFFFFFF) 0x7FFFFFFF)
  | 0x20 => min src.pathDelay 0xFFFFFFFF
  | 0x24 => t.domain * 2 ^ 16 + t.transport * 2 ^ 8 + t.delayMech
  | 0x28 => lo32 t.gmId
  | 0x2C => hi32 t.gmId
  | 0x30 => if traced t || !t.everTraced then 0 else min ((s.now - t.lastTraced) / 1000000000) 0xFFFFFFFF
  | 0x34 => 2 * b2n t.tenMhz + b2n (((srcOf t 2).lastSeen.map (fun e => decide (s.now ≤ e + 1500000000))).getD false)
  | 0x38 => lo32 t.floor
  | 0x3C => hi32 t.floor
  | 0x40 => t.stepEvents
  | 0x44 => t.lossEvents
  | 0x80 => shown
  | 0x84 => ceilDiv j.used 1024
  | 0x88 => (j.entries.filter (fun e => e.2.state != .retired)).length
  | 0x8C => lo32 j.oldest
  | 0x90 => hi32 j.oldest
  | 0x94 => j.replay.length
  | 0x98 => j.replayCount
  | 0x9C => j.fullCount
  | _ => 0

/-- R231: the recipe RECIPE_SEL shows. Log entry 49 (DEDUCED). -/
def Vi.recipeSel (x : Vi) : Nat := min x.sel.recipe (x.img.recipes.length - 1)

/-- R231: precision counters and flags of the VI shown. -/
def readPrecOf (x : Vi) (a : Nat) : Nat :=
  let p := x.prec
  let u := tget p.units x.unitSel
  let rcp := fun (f : Recipe → Nat) => ((x.img.recipes[x.recipeSel]?).map f).getD 0
  match a with
  | 0x00 => p.flagStatus
  | 0x04 => p.flagEvents * 2 ^ 16 + p.firstUnit
  | 0x08 => lo32 p.flagStamp
  | 0x0C => hi32 p.flagStamp
  | 0x10 => p.window
  | 0x80 => x.unitSel
  | 0x84 => (u.map UnitPrec.flags).getD 0
  | 0x180 => x.recipeSel
  | 0x184 => x.img.recipes.length
  | 0x188 => rcp (fun r => r.outlierN * 2 ^ 24 + r.ovrMode * 2 ^ 20 + r.actTrits * 2 ^ 16 + r.rowBand)
  | 0x18C => rcp Recipe.budgetQ
  | 0x190 => rcp (fun r => r.kSoft.toNat)
  | 0x194 => rcp (fun r => r.kHard.toNat)
  | 0x198 => rcp (fun r => lo32 r.since)
  | 0x19C => rcp (fun r => hi32 r.since)
  | _ =>
    if inRun a 0x20 8 then lget p.thresholds ((a - 0x20) / 4) 0
    else if inRun a 0x88 12 then (u.map (fun u => lget u.counts ((a - 0x88) / 4) 0)).getD 0
    else if inRun a 0x100 12 then lget p.totals ((a - 0x100) / 4) 0 else 0

def State.readPrec (s : State) (v : Nat) (a : Nat) : Nat :=
  if a = 0x14 then s.precVi v else readPrecOf (s.viView (s.precVi v)) a

/-- R328, R349: arrays with a mark in force, and retirements that wait (R204, R205). -/
def State.suspectArrays (s : State) : Nat :=
  sumNat (s.yelms.map (fun y => (y.2.arrays.filter (fun a => !(marksAt s.now a.2.marks).isEmpty)).length))

def State.retireWaiting (s : State) : Nat :=
  sumNat (s.yelms.map (fun y => (y.2.arrays.filter (fun a => (a.2.retire.bind Retire.retry).isSome)).length))

/-- R349: the VI whose ring a VI is shown. -/
def State.ringVi (s : State) (v : Nat) : Nat := if v = 0 then s.err.ringSel else v

/-- R349: error records. -/
def State.readErr (s : State) (v : Nat) (a : Nat) : Nat :=
  let e := s.err
  let shown := s.ringVi v
  let g := s.ringOf shown
  match a with
  | 0x00 => shown
  | 0x04 => (if shown = 0 then Config.deviceRing else Config.tenantRing) * 2 ^ 16 + g.recs.length
  | 0x08 => g.lost
  | 0x0C => lo32 g.lostFirst
  | 0x10 => hi32 g.lostFirst
  | 0x14 => lo32 g.lostLast
  | 0x18 => hi32 g.lostLast
  | 0x1C => 2 * b2n g.lossSeen + b2n g.recSeen
  | 0x20 => g.written
  | 0x24 => g.coalesced
  | 0x40 => min e.missed 15
  | 0x44 => e.hbResets
  | 0x48 => 256 * b2n e.outOfService + 16 * e.lastDomain + min (recentStarts s.now e.starts).length 7
  | 0x4C => lo32 e.lastReset
  | 0x50 => hi32 e.lastReset
  | 0x54 => e.devResets
  | 0x58 => s.suspectArrays
  | 0x5C => e.retired
  | 0x60 => s.retireWaiting
  | 0x64 => e.hardReruns
  | 0x68 => e.operandRestarts
  | 0x6C => e.stepReruns
  | 0x90 => e.packRuns
  | _ => if inRun a 0x80 4 then ((tget e.packs ((a - 0x80) / 4)).map Pack.id).getD 0 else 0

/-- R421: the earliest pending throttle deadline. -/
def PwrBlk.deadline (b : PwrBlk) : Nat :=
  (bestBy (fun (x y : Nat) => decide (x < y)) (b.dies.filterMap (fun d => d.2.deadline))).getD 0

/-- R421: level and temperature of a die. -/
def PwrBlk.dieWord (b : PwrBlk) (d : Nat) : Nat :=
  match tget b.dies d with
  | none => 0
  | some e => twos 16 (sixteenths e.temp) * 2 ^ 16 +
      (if trips e.temp b.shutdownC then 3 else if e.throt then 2 else if e.warn then 1 else 0) * 2 ^ 8

/-- R421: power and thermal. Log entry 72 (DEDUCED). -/
def State.readPwr (s : State) (x : Vi) (a : Nat) : Nat :=
  let b := s.pwr
  let hot := b.hot
  let rail := lget b.rails b.railSel (0, 0)
  match a with
  | 0x00 => 128 * b2n b.trippedPrev + 64 * b2n b.brakeOn + 32 * b2n (b.dies.any (fun d => d.2.enforcing)) + 16 * b2n b.binding +
      8 * b2n (b.dies.any (fun d => d.2.warn)) + s.powerState
  | 0x04 => b.capEnf * 2 ^ 16 + b.capReq
  | 0x08 => lo32 b.capFrom
  | 0x0C => hi32 b.capFrom
  | 0x10 => b.power.toNat
  | 0x14 => lo32 b.energyMj
  | 0x18 => x.sel.energyHi.getD (hi32 b.energyMj)
  | 0x1C => b.govLit * 2 ^ 16 + min (b.admitLimit.getD 0xFFFF) 0xFFFF
  | 0x20 => b.graceMs * 2 ^ 16
  | 0x24 => b.shutdownC * 2 ^ 16 + b.throttleC * 2 ^ 8 + b.warnC
  | 0x28 => (match hot with
      | some (d, t) => twos 16 (sixteenths t) * 2 ^ 16 + d
      | none => 0xFF)
  | 0x2C => lo32 b.deadline
  | 0x30 => hi32 b.deadline
  | 0x34 => b.dieSel
  | 0x38 => b.dieWord b.dieSel + ((groupOfDie b.dieSel).map s.groupLit).getD 16
  | 0x3C => 4 * b2n b.brakeSeen + 2 * b2n b.throttleSeen + b2n b.warnSeen
  | 0x40 => twos 16 b.tripTemp * 2 ^ 16 + b.tripDie
  | 0x44 => lo32 b.tripStamp
  | 0x48 => hi32 b.tripStamp
  | 0x50 => b.brakeEvents
  | 0x54 => if b.brakeOn then satAdd b.brakeUs ((s.now - b.brakeStart) / 1000) else b.brakeUs
  | 0x58 => b.throttleEvents
  | 0x5C => b.warnEvents
  | 0x60 => b.notices
  | 0x64 => b.capBeats
  | 0x70 => b.railSel
  | 0x74 => (fMul rail.1 rail.2).toNat
  | 0x78 => rail.2.toNat
  | _ => 0

/-- R422: clocks. Log entry 72 (DEDUCED). -/
def State.readClk (s : State) (a : Nat) : Nat :=
  let c := s.clk
  match a with
  | 0x00 => c.clkEn
  | 0x04 => c.ywinEn
  | 0x08 => bitsSet c.refOk
  | 0x0C => c.coast
  | 0x10 => c.pllSel
  | 0x14 => lget c.pllMhz c.pllSel 0 * 2 ^ 16 + lget c.pllState c.pllSel 0
  | 0x18 => c.lossEvents
  | 0x1C => (match c.coastStart with
      | some t => satAdd c.coastUs ((s.now - t) / 1000)
      | none => c.coastUs)
  | _ => 0

/-- R397, R400: the physical yelm with the lowest margin, measured in Run or projected, and the margin in 1/1,000.
Log entry 72 (DEDUCED). -/
def State.minMargin (s : State) : Nat × Nat :=
  let all := if s.pwr.state ≤ 1 then s.yelms.filterMap (fun y => y.2.lowMargin.map (fun m => (y.1, m)))
    else s.mon.margins.map (fun m => (m.1, projected m.2))
  match bestBy (fun (a b : Nat × F32) => fLt a.2 b.2) all with
  | none => (0, 0)
  | some (y, m) => (y, (clampI (fRat m * 1000).floor 0 0xFFFF).toNat)

/-- R400: monitor converter. -/
def State.readMon (s : State) (a : Nat) : Nat :=
  let b := s.mon
  let f := (tget b.filt b.filtSel).getD (0, 0, false)
  let w := (s.windowOf b.filtSel).getD (0, 0)
  let next := if s.pwr.state ≤ 1 then 0 else b.nextMaint
  match a with
  | 0x00 => 8 * b2n b.refSettled + 2 * b.refNow + b2n b.seqBusy
  | 0x04 => b.roundUs
  | 0x08 => b.rounds
  | 0x0C => b.userEn
  | 0x140 => b.filtSel
  | 0x144 => if f.2.2 then f.1.toNat else 0
  | 0x148 => lo32 f.2.1
  | 0x14C => hi32 f.2.1
  | 0x150 => w.1.toNat
  | 0x154 => w.2.toNat
  | 0x158 => b.railAlarm * 2 ^ 8 + b.alarmFirst
  | 0x15C => b.railAlarms
  | 0x200 => b.wakeCause * 2 ^ 4 + 8 * b2n b.maintActive + 4 * b2n (!s.pins.thermTripL) + 2 * b2n (!s.pins.thermAlertL)
  | 0x204 => 256 * b2n b.maintEn + b.wakeLport
  | 0x208 => b.wakeLo
  | 0x20C => hi32 b.wakeAt
  | 0x210 => b.wakeMargin
  | 0x214 => s.minMargin.1 * 2 ^ 16 + s.minMargin.2
  | 0x218 => lo32 next
  | 0x21C => hi32 next
  | 0x220 => b.wakes
  | 0x224 => b.maintWakes
  | 0x228 => b.wakeHeld
  | 0x22C => b.wakeDropped
  | _ =>
    if inRun a 0x40 32 then
      let e := (a - 0x40) / 4
      (tget b.cfgPend e).getD (s.seqCfg e)
    else if inRun a 0xC0 32 then lget b.res ((a - 0xC0) / 4) 0 else 0

/-- R385: calibration. Tenant VIs read 0 from 0x40 on. -/
def State.readCal (s : State) (v : Nat) (a : Nat) : Nat :=
  let b := s.cal
  let y := s.yelm b.yelmSel
  if v ≠ 0 ∧ 0x40 ≤ a then 0
  else match a with
  | 0x00 => 512 * b2n b.refFault + 256 * b2n b.passActive + 2 * b2n b.rotEn + b.srcPend.getD b.src
  | 0x04 => b.refUvPend.getD b.refUv
  | 0x08 => b.rotPeriod
  | 0x0C => b.setId
  | 0x10 => b.refMeas
  | 0x14 => lo32 b.lastPass
  | 0x18 => hi32 b.lastPass
  | 0x1C => b.passCount
  | 0x20 => b.yelmCals
  | 0x24 => b.tapLimit
  | 0x28 => b.refFaults
  | 0x2C => b.interpHyst
  | 0x40 => b.yelmSel
  | 0x44 => twos 16 (ratRoundAway (16 * fRat y.trimTemp)) * 2 ^ 16 + y.cal
  | 0x48 => y.setId
  | 0x4C => lo32 y.lastCal
  | 0x50 => hi32 y.lastCal
  | 0x54 => lo32 y.trimStamp
  | 0x58 => hi32 y.trimStamp
  | 0x80 => b.rdacSel
  | 0x84 => s.rdacCodeOf b.rdacSel
  | 0x88 => tgetD b.rdacUv b.rdacSel 0
  | _ => 0

/-- R370: the VI whose pair a VI is shown. -/
def State.pairVi (s : State) (v : Nat) : Nat := if v = 0 then s.pairView else v

/-- R370: pair. UNTRACED shows this side of the pair. Log entry 68 (DEDUCED). -/
def State.readPair (s : State) (v : Nat) (a : Nat) : Nat :=
  let shown := s.pairVi v
  match a with
  | 0x00 => shown
  | 0x40 => lo32 s.store.refId
  | 0x44 => hi32 s.store.refId
  | _ =>
    match s.vi? shown with
    | none => 0
    | some x =>
      let p := x.pair
      let stamp := if p.role = 2 then p.appliedStamp else p.ackStamp
      match a with
      | 0x04 => 2048 * b2n (p.role != 0 && !traced s.time) + 1024 * b2n (p.role != 0 && s.pairUp x) + p.role * 2 ^ 8 + p.state
      | 0x08 => p.leaseMs * 2 ^ 16 + p.peerVi
      | 0x0C => p.rc
      | 0x10 => if p.role = 1 then lo32 p.leaseEnd else 0
      | 0x14 => if p.role = 1 then hi32 p.leaseEnd else 0
      | 0x18 => lo32 stamp
      | 0x1C => hi32 stamp
      | 0x20 => p.pendingKib
      | 0x24 => x.heldReplies
      | 0x28 => p.dropped
      | 0x2C => p.fences
      | 0x30 => p.takeovers
      | 0x34 => p.snapshots
      | 0x38 => 16 * b2n p.splitSeen + 8 * b2n p.broken + 4 * b2n x.digestDiff + 2 * b2n p.deposedSeen + b2n p.expired
      | _ => 0

/-- R442: the MACsec fields of the logical port MS_LPORT_SEL shows. -/
def readMacSec (m : MacSec) (x : Vi) (a : Nat) : Nat :=
  let pn := (m.tx.map Assoc.pn).getD 0
  match a with
  | 0x144 => 128 * b2n m.alert + 64 * b2n m.exhausted + 32 * b2n m.tx.isSome + 8 * (m.tx.map Assoc.an).getD 0
  | 0x148 => sumNat (m.rx.flatMap (fun c => c.2.map (fun r => 2 ^ (4 * c.1 + r.an))))
  | 0x14C => m.window
  | 0x150 => lo32 pn
  | 0x154 => x.sel.txPnHi.getD (hi32 pn)
  | 0x158 => m.drops
  | _ => 0

/-- R442: the VI whose image digest a VI is shown. -/
def State.imgSelVi (s : State) (v : Nat) : Nat := if v = 0 then s.sec.imgViSel else v

/-- R442: security. Log entry 73 (DEDUCED). -/
def State.readSec (s : State) (v : Nat) (x : Vi) (a : Nat) : Nat :=
  let b := s.sec
  match a with
  | 0x00 => 256 * b2n b.imgSigReq + 128 * b2n b.pufFail + 64 * b2n b.fallback + 32 * b2n b.trial + 4 * b2n b.staged + b.bootSlot
  | 0x04 => (b.slot b.bootSlot).svn
  | 0x08 => b.minSvn
  | 0x10 => b.lmsTree
  | 0x14 => b.lmsLeft
  | 0x18 => b.batchS
  | 0x1C => b.reports
  | 0x20 => b.batches
  | 0xC0 => b.opValid * 2 ^ 4 + b.opSel
  | 0x100 => s.imgSelVi v
  | 0x140 => b.msSel
  | _ =>
    if inRun a 0x40 12 then wordAt deviceId ((a - 0x40) / 4)
    else if inRun a 0x80 12 then wordAt (b.slot b.bootSlot).digest ((a - 0x80) / 4)
    else if inRun a 0xC8 12 then wordAt (if b.opDirty then b.opWrite else lget b.opDigest b.opSel (zeros 48)) ((a - 0xC8) / 4)
    else if inRun a 0x104 12 then
      ((s.vi? (s.imgSelVi v)).map (fun y => wordAt ((y.img.image.map Image.digest).getD (zeros 48)) ((a - 0x104) / 4))).getD 0
    else if inRun a 0x144 6 then readMacSec (lget b.ms b.msSel .off) x a else 0

/-! ### Yelm windows (R88) -/

/-- R347 step 4, R348: the arrays of a VI that is closing are erased once its steps have ended. Log entry 74 (DEDUCED). -/
def State.closeErases (s : State) (y : Nat) : Bool :=
  match s.owner y with
  | none => false
  | some (v, x, _) => x.closing.isSome && !s.steps.any (fun t => t.2.vi == v)

/-- R88: YELM_STATE. Log entry 74 (DEDUCED). -/
def State.yelmState (s : State) (y : Nat) : Nat :=
  let ye := s.yelm y
  if ye.resetting then 4
  else if ye.cal = 2 then 2
  else if ye.arrays.any (fun a => a.2.st == .busy) || s.closeErases y then 3
  else if s.yelmActive y || ye.arrays.any (fun a => a.2.st == .transpose) || !ye.tiles.isEmpty then 1
  else 0

def arrCode : ArrState → Nat
  | .idle => 0
  | .lit => 1
  | .transpose => 2
  | .busy => 3
  | .spare => 4
  | .retired => 5

/-- R39, R88: ARR_STATE; the erase of a teardown holds every array of the yelm that is not retired; an array that holds nothing
is a spare where the image reserves it and has not used it, and idle otherwise. Log entry 74 (DEDUCED). -/
def State.arrState (s : State) (y a : Nat) : Nat :=
  let st := ((s.yelm y).arr a).st
  if st ≠ .retired ∧ s.closeErases y then 3
  else if st = .spare then
    match s.owner y with
    | none => 0
    | some (_, x, n) => if (s.sparesOf x y n).contains a then 4 else 0
  else arrCode st

/-- R79: latency of the link to the successor. Log entry 73 (DEDUCED). -/
def hopNs (y : Nat) : Nat :=
  if (y + 1) % 256 = 0 then 0 else if (y + 1) % 64 = 0 then 90 else if (y + 1) % 16 = 0 then 40 else 12

/-- R88: chain segments of an image that pass a yelm of its VI. -/
def Image.segmentsAt (im : Image) (n : Nat) : Nat :=
  sumNat (im.projs.map (fun p =>
    ((p.places.map Place.segment).eraseDups.filter (fun g =>
      let ys := (p.places.filter (fun q => q.segment == g)).map Place.yelm
      ys.any (fun a => decide (a ≤ n)) && ys.any (fun a => decide (n ≤ a)))).length))

/-- R81, R88: received partial sums that wait for y(j). -/
def State.chainWaiting (s : State) (y : Nat) : Nat :=
  sumNat (s.waves.map (fun w => sumNat (w.2.ops.map (fun o =>
    if o.1 % 4096 = y then (o.2.recv.filter (fun r => !thas o.2.final r.1)).length else 0))))

/-- R88: TRIM_CONV as it is clamped for a bank. -/
def trimConvMax (bank : Nat) : Nat := if bank < 16 then 129 else 127

/-- R88: a register of a yelm's window, `n` the number by which the reading VI knows physical yelm `y`. -/
def State.readYelm (s : State) (n y a : Nat) : Nat :=
  let ye := s.yelm y
  let r := ye.arr ye.arraySel
  let own := s.owner y
  match a with
  | 0x000 => ((own.map (fun o => s.sparesLeft o.2.1 y o.2.2)).getD 0) % 256 * 2 ^ 16 + n
  | 0x004 => s.litLimit y * 2 ^ 16 + ye.litNow * 2 ^ 8 + s.yelmState y
  | 0x008 => 2 * b2n ye.corrBypass + b2n ye.accHold
  | 0x00C => ye.arraySel
  | 0x010 => (fDiv r.npos r.dpos).toNat
  | 0x014 => (fDiv r.nneg r.dneg).toNat
  | 0x018 => r.o.toNat
  | 0x01C => r.alpha.toNat
  | 0x020 => min (marksAt s.now r.marks).length 3 * 2 ^ 4 + s.arrState y ye.arraySel
  | 0x060 => ye.seen
  | 0x080 => hopNs y * 2 ^ 16 + ((own.bind (fun o => o.2.1.img.image.map (fun im => im.segmentsAt o.2.2))).getD 0) % 2 ^ 16
  | 0x084 => min (s.chainWaiting y) 0xFFFF
  | 0x0A0 => ye.trimTap * 2 ^ 13 + ye.trimConv * 2 ^ 5 + ye.trimBank
  | 0x0A4 => trimWord (tgetD ye.trims (ye.trimBank * 1040 + ye.trimConv * 8 + ye.trimTap) (0, 0))
  | _ => if inRun a 0x040 7 then lget ye.counts ((a - 0x040) / 4) 0 else 0

/-! ### The address space (R257, R296, R420) -/

/-- R296: the yelm window an address lies in. -/
def windowOfAddr (a : Nat) : Option Nat := if 0x100000 ≤ a ∧ a < 0xD00000 then some ((a - 0x100000) / 0x1000) else none

/-- R257, R296: the status with which an address outside a VI's view is refused. -/
def viewRefusal (v : Nat) (x : Vi) (a : Nat) : Option Nat :=
  match windowOfAddr a with
  | some n => if (physYelm v x.part n).isSome then none else some stNoObject
  | none =>
    if v ≠ 0 ∧ (a / 0x10000 = 6 ∨ a / 0x10000 = 7 ∨ (a / 0x10000 = 4 ∧ 0x40 ≤ a % 0x10000)) then some stNotPermitted else none

/-- R4, R296: what a register reads for a VI. Reserved addresses read 0. Log entry 71 (DEDUCED). -/
def State.readReg (s : State) (v : Nat) (a : Nat) : Nat :=
  match s.vi? v with
  | none => 0
  | some x =>
    match windowOfAddr a with
    | some n =>
      (match physYelm v x.part n with
      | none => 0
      | some y => if bitOf s.clk.ywinEn (y / 256) then s.readYelm n y (a % 0x1000) else 0)
    | none =>
      let block := a / 0x10000
      let o := a % 0x10000
      if s.gated block then 0
      else match block with
      | 0 => s.readIdentity v x o
      | 1 => s.readIfq v o
      | 2 => s.readTime v x o
      | 3 => s.readPrec v o
      | 4 => s.readErr v o
      | 5 => s.readPwr x o
      | 6 => s.readClk o
      | 7 => s.readMon o
      | 8 => s.readCal v o
      | 9 => s.readPair v o
      | 10 => s.readSec v x o
      | _ => 0

/-- R423: a read of ENERGY_MJ_LO latches ENERGY_MJ_HI. -/
def State.readEnergyLo (s : State) (v : Nat) : State :=
  s.modVi v (fun x => { x with sel := { x.sel with energyHi := some (hi32 s.pwr.energyMj) } })

/-- R443: a read of TX_PN_LO latches TX_PN_HI. -/
def State.readTxPnLo (s : State) (v : Nat) : State :=
  s.modVi v (fun x => { x with sel :=
    { x.sel with txPnHi := some (hi32 (((lget s.sec.ms s.sec.msSel .off).tx.map Assoc.pn).getD 0)) } })

/-- R319, R423, R443: what a read leaves behind. A gated block is not read. -/
def State.latch (s : State) (v a : Nat) : State :=
  if s.gated (a / 0x10000) then s
  else match a with
  | 0x20008 => s.readStampLo v
  | 0x20014 => s.readBeatLo v
  | 0x50014 => s.readEnergyLo v
  | 0xA0150 => s.readTxPnLo v
  | _ => s

/-! ### Writing -/

/-- R233, R259: the control register of a port: PORT_MODE from the next boundary, EEE_EN at once. VI 0 only. -/
def State.writePort (s : State) (v port val : Nat) : State :=
  if v ≠ 0 then s
  else s.modNet (fun n => { n with
    portPend := n.portPend.set port (some (min (val % 4) 2)), eee := n.eee.set port (bitOf val 2) })

/-- R259: interfaces and queues. -/
def State.writeIfq (s : State) (v a val : Nat) : State :=
  let own := if v = 0 then s.net.viSel else v
  let net := fun (f : Net → Net) => if v = 0 then s.modNet f else s
  match a with
  | 0x00 => s.writePort v 0 val
  | 0x04 => s.writePort v 1 val
  | 0x0C => net (fun n => { n with maxFrame := clampN (val % 2 ^ 14) 8320 9216 })
  | 0x10 => net (fun n =>
      let u := clampN (val % 2 ^ 16) 1024 65535
      { n with udp := if u = 4791 then 4792 else u })
  | 0x14 => net (fun n => { n with prioMap := val &&& 0x77777777 })
  | 0x18 => net (fun n => { n with trust := val % 256 })
  | 0x1C => net (fun n => { n with pfcEn := val % 256 })
  | 0x20 => net (fun n => { n with pfcWd := val % 65536 })
  | 0x24 => net (fun n => { n with cplRetry := clampN (val % 1024) 1 1023 })
  | 0x50 => net (fun n => { n with dscpLo := val })
  | 0x54 => net (fun n => { n with dscpHi := val })
  | 0x100 => net (fun n => { n with viSel := val % 256 })
  | 0x144 => s.modView own (fun x => { x with sel := { x.sel with course := min (val % 256) (x.part.courses.length - 1) } })
  | 0x200 => s.modView own (fun x => { x with sel := { x.sel with queue := val % 1024 } })
  | _ =>
    if inRun a 0x30 8 then net (fun n => { n with ets := n.ets.set ((a - 0x30) / 4) (bitOf val 7, val % 128) }) else s

/-- R300, R318: SRC_EN: where the active source may no longer serve, another is chosen, and a locked source that is enabled again
takes part as one that locks. -/
def State.writeSrcEn (s : State) (val : Nat) : State :=
  let old := s.time
  let s := s.noteTraced.modTime (fun t => { t with srcEn := val % 8 })
  if usable s.time s.time.active then
    (([2, 0, 1].filter (fun i => usable s.time i && !usable old i)).foldl (fun s i =>
      s.modTime (fun t => t.switchTo (rechoose t i))) s).noteTraced
  else (s.modTime (fun t => t.switchTo (chooseSource t))).noteTraced

/-- R318: time and beats; VI 0 only. -/
def State.writeTime (s : State) (v a val : Nat) : State :=
  if v ≠ 0 then s
  else match a with
  | 0x00 => s.modTime (fun t => { t with
      stepped := t.stepped && !bitOf val 5, sourceLost := t.sourceLost && !bitOf val 4 })
  | 0x04 => s.writeSrcEn val
  | 0x24 => s.modTime (fun t => { t with
      domain := min (bitsOf val 23 16) 127, transport := min (bitsOf val 9 8) 2, delayMech := val % 2 })
  | 0x80 => s.modTime (fun t => { t with jrnlSel := val % 256 })
  | _ => s

/-- R219, R231: clearing RECIPE_FLAG begins a new count of events. Log entry 51 (DEDUCED). -/
def Prec.clearFlags (p : Prec) (val : Nat) : Prec :=
  let p1 := { p with flagStatus := w1c p.flagStatus val 0x3FF }
  if bitOf p.flagStatus 0 && bitOf val 0 then { p1 with flagEvents := 0 } else p1

/-- R231: precision counters and flags. -/
def State.writePrec (s : State) (v a val : Nat) : State :=
  let own := s.precVi v
  let prec := fun (f : Prec → Prec) => s.modView own (fun x => { x with prec := f x.prec })
  match a with
  | 0x00 => prec (fun p => p.clearFlags val)
  | 0x10 => s.setWindow v val
  | 0x14 => if v = 0 then { s with precView := val % 256 } else s
  | 0x80 => s.modView own (fun x =>
      let y := { x with sel := { x.sel with unit := val % 2048 } }
      { y with sel := { y.sel with unit := y.unitSel } })
  | 0x84 => s.modVi own (fun x => { x with prec := { x.prec with
      units := tmod x.prec.units x.unitSel (fun u => { u with flags := w1c u.flags val 0x1FF }) } })
  | 0x140 =>
    let s := if bitOf val 1 then s.clearUnit v else s
    if bitOf val 0 then s.clearUnits v else s
  | 0x180 => s.modView own (fun x => { x with sel := { x.sel with recipe := min (val % 4096) (x.img.recipes.length - 1) } })
  | _ => if inRun a 0x20 8 then prec (fun p => { p with thresholds := p.thresholds.set ((a - 0x20) / 4) (val % 2 ^ 24) }) else s

/-- R349: error records. -/
def State.writeErr (s : State) (v a val : Nat) : State :=
  match a with
  | 0x00 => if v = 0 then s.modErr (fun b => { b with ringSel := val % 256 }) else s
  | 0x1C => s.modRing (s.ringVi v) (fun g => { g with
      lossSeen := g.lossSeen && !bitOf val 1, recSeen := g.recSeen && !bitOf val 0 })
  | _ => s

/-- R421: power and thermal; VI 0 only. -/
def State.writePwr (s : State) (v a val : Nat) : State :=
  if v ≠ 0 then s
  else match a with
  | 0x34 => s.modPwr (fun b => { b with dieSel := val % 64 })
  | 0x3C => s.modPwr (fun b => { b with
      brakeSeen := b.brakeSeen && !bitOf val 2, throttleSeen := b.throttleSeen && !bitOf val 1,
      warnSeen := b.warnSeen && !bitOf val 0 })
  | 0x70 => s.modPwr (fun b => { b with railSel := min (val % 16) 8 })
  | _ => s

/-- R422: clocks. -/
def State.writeClk (s : State) (a val : Nat) : State :=
  let clk := fun (f : ClkBlk → ClkBlk) => { s with clk := f s.clk }
  match a with
  | 0x00 => clk (fun c => { c with clkEn := (val &&& 0x73E) ||| 0x0C1 })
  | 0x04 => clk (fun c => { c with ywinEn := val % 4096 })
  | 0x0C => clk (fun c => { c with coast := w1c c.coast val 1 })
  | 0x10 => clk (fun c => { c with pllSel := min (val % 16) 8 })
  | _ => s

/-- R400: monitor converter. -/
def State.writeMon (s : State) (v a val : Nat) : State :=
  let w := s.windowOf s.mon.filtSel
  match a with
  | 0x0C => s.modMon (fun b => { b with userEn := val % 256 })
  | 0x140 => s.modMon (fun b => { b with filtSel := min (val % 256) 104 })
  | 0x150 => (match w with
      | some w => s.modMon (fun b => { b with win := tset b.win b.filtSel (BitVec.ofNat 32 val, w.2) })
      | none => s)
  | 0x154 => (match w with
      | some w => s.modMon (fun b => { b with win := tset b.win b.filtSel (w.1, BitVec.ofNat 32 val) })
      | none => s)
  | 0x158 => if bitOf val 8 then s.modMon (fun b => { b with railAlarm := 0, alarmFirst := 0xFF }) else s
  | 0x204 => s.modMon (fun b => { b with maintEn := bitOf val 8, wakeLport := val % 8 })
  | 0x208 => s.modMon (fun b => { b with wakeLo := val })
  | 0x20C => s.armWake v val
  | 0x210 => s.modMon (fun b => { b with wakeMargin := clampN (val % 65536) 380 1000 })
  | _ => if inRun a 0x40 32 then s.seqCfgSet v ((a - 0x40) / 4) val else s

/-- R385: calibration; VI 0 only. CAL_SRC and CALREF_UV wait for the next pass (R373). -/
def State.writeCal (s : State) (v a val : Nat) : State :=
  if v ≠ 0 then s
  else match a with
  | 0x00 => s.modCal (fun b => { b with
      refFault := b.refFault && !bitOf val 9, rotEn := bitOf val 1, srcPend := some (val % 2) })
  | 0x04 => s.modCal (fun b => { b with refUvPend := some (clampN val 1150000 1350000) })
  | 0x08 => s.modCal (fun b => { b with rotPeriod := clampN (val % 65536) 1 65535 })
  | 0x2C => s.modCal (fun b => { b with interpHyst := clampN (val % 256) 1 64 })
  | 0x40 => s.modCal (fun b => { b with yelmSel := min (val % 4096) 3071 })
  | 0x60 => s.calReqWrite v val
  | 0x80 => s.modCal (fun b => { b with rdacSel := min (val % 256) 191 })
  | _ => s

/-- R370: pair. -/
def State.writePair (s : State) (v a val : Nat) : State :=
  match a with
  | 0x00 => if v = 0 then { s with pairView := val % 256 } else s
  | 0x38 => s.modPair (s.pairVi v) (fun p => { p with
      splitSeen := p.splitSeen && !bitOf val 4, broken := p.broken && !bitOf val 3,
      deposedSeen := p.deposedSeen && !bitOf val 1, expired := p.expired && !bitOf val 0 })
  | 0x40 => if v = 0 then { s with store := { s.store with refId := hi32 s.store.refId * 2 ^ 32 + val } } else s
  | 0x44 => if v = 0 then { s with store := { s.store with refId := val * 2 ^ 32 + lo32 s.store.refId } } else s
  | _ => s

/-- R442: security; VI 0 only. Where one write sets OPKEY_COMMIT and OPKEY_REVOKE, the key is committed first and then revoked.
Log entry 119 (DESIGN CHOICE). -/
def State.writeSec (s : State) (v a val : Nat) : State :=
  let ms := fun (f : MacSec → MacSec) => s.modSec (fun b => { b with ms := b.ms.set b.msSel (f (lget b.ms b.msSel .off)) })
  if v ≠ 0 then s
  else match a with
  | 0x00 => s.modSec (fun b => { b with imgSigReq := bitOf val 8, fallback := b.fallback && !bitOf val 6 })
  | 0x0C => s.svnCommit v val
  | 0x18 => s.modSec (fun b => { b with batchS := clampN (val % 4096) 1 3600 })
  | 0xC0 => s.modSec (fun b => { b with opSel := val % 4 })
  | 0xC4 => (s.opkeyCommit v val).opkeyRevoke v val
  | 0x100 => s.modSec (fun b => { b with imgViSel := val % 256 })
  | 0x140 => s.modSec (fun b => { b with msSel := val % 8 })
  | 0x144 =>
    let s1 := ms (fun m => { m with alert := m.alert && !bitOf val 7 })
    s1.msOff v val
  | 0x14C => ms (fun m => { m with window := val })
  | _ =>
    if inRun a 0xC8 12 then
      s.modSec (fun b => { b with opWrite := setWord b.opWrite ((a - 0xC8) / 4) val, opDirty := true })
    else s

/-- R88, R89: a yelm's window. -/
def writeYelm (ye : Yelm) (a val : Nat) : Yelm :=
  match a with
  | 0x008 => { ye with corrBypass := bitOf val 1, accHold := bitOf val 0 }
  | 0x00C => { ye with arraySel := val % 1024 }
  | 0x05C => if bitOf val 0 then { ye with counts := List.replicate 7 0 } else ye
  | 0x060 => { ye with seen := w1c ye.seen val 0x1F }
  | 0x0A0 =>
    let bank := min (val % 32) 19
    { ye with trimTap := bitsOf val 15 13, trimConv := min (bitsOf val 12 5) (trimConvMax bank), trimBank := bank }
  | _ => ye

/-- R4, R296, R420: a write of one register by a VI. Reserved and gated addresses ignore it. -/
def State.writeReg (s : State) (v a val : Nat) : State :=
  match s.vi? v with
  | none => s
  | some x =>
    match windowOfAddr a with
    | some n =>
      (match physYelm v x.part n with
      | none => s
      | some y => if bitOf s.clk.ywinEn (y / 256) then s.modYelm y (fun ye => writeYelm ye (a % 0x1000) val) else s)
    | none =>
      let block := a / 0x10000
      let o := a % 0x10000
      if s.gated block then s
      else match block with
      | 1 => s.writeIfq v o val
      | 2 => s.writeTime v o val
      | 3 => s.writePrec v o val
      | 4 => s.writeErr v o val
      | 5 => s.writePwr v o val
      | 6 => if v = 0 then s.writeClk o val else s
      | 7 => if v = 0 then s.writeMon v o val else s
      | 8 => s.writeCal v o val
      | 9 => s.writePair v o val
      | 10 => s.writeSec v o val
      | _ => s

/-! ### REG_READ, REG_WRITE, DIAG_ECHO (R295) -/

/-- R295: why a range is refused as a whole. Log entry 71 (DEDUCED). -/
def rangeRefusal (v : Nat) (x : Vi) (a n : Nat) : Option Nat :=
  if a % 4 ≠ 0 ∨ 0xFFFFFFFC < a + 4 * (n - 1) then some stNoObject
  else (List.range n).findSome? (fun i => viewRefusal v x (a + 4 * i))

/-- R295: the head of both replies. -/
def regHead (a n : Nat) : List Byte := le 4 a ++ le 2 n ++ zeros 2

/-- R295: read registers in ascending order. Log entry 71 (DEDUCED). -/
def State.readRange (s : State) (v a n : Nat) : List Byte × State :=
  (List.range n).foldl (fun r i => (r.1 ++ le 4 (r.2.readReg v (a + 4 * i)), r.2.latch v (a + 4 * i))) (([], s) : List Byte × State)

/-- REG_READ (R295). -/
def effRegRead : Effect := fun s c =>
  let a := leAt c.pay 0 4
  let n := clampN (leAt c.pay 4 2) 1 64
  match s.vi? c.vi with
  | none => (s, none)
  | some x =>
    match rangeRefusal c.vi x a n with
    | some st => (s, some (st, regHead a n ++ zeros (4 * n)))
    | none =>
      let r := s.readRange c.vi a n
      (r.2, some (stOk, regHead a n ++ r.1))

def execRegRead (p : Packet) (s : State) : Host.Outcome State Fault Refusal := .next (s.takeAs 0x0E01 p noStatic effRegRead)

/-- REG_WRITE (R295): the values are read back after the writes. Log entry 71 (DEDUCED). -/
def effRegWrite : Effect := fun s c =>
  let a := leAt c.pay 0 4
  let n := leAt c.pay 4 2
  match s.vi? c.vi with
  | none => (s, none)
  | some x =>
    match rangeRefusal c.vi x a n with
    | some st => (s, some (st, regHead a n ++ zeros (4 * n)))
    | none =>
      let s := (List.range n).foldl (fun s i => s.writeReg c.vi (a + 4 * i) (leAt c.pay (8 + 4 * i) 4)) s
      (s, some (stOk, regHead a n ++ (List.range n).flatMap (fun i => le 4 (s.readReg c.vi (a + 4 * i)))))

def execRegWrite (p : Packet) (s : State) : Host.Outcome State Fault Refusal := .next (s.takeAs 0x0E02 p noStatic effRegWrite)

/-- DIAG_ECHO (R295). -/
def effDiagEcho : Effect := fun s c => (s, some (stOk, c.pay))

def execDiagEcho (p : Packet) (s : State) : Host.Outcome State Fault Refusal := .next (s.takeAs 0x0E03 p noStatic effDiagEcho)

/-! ### Single registers with a row of their own -/

/-- CNT_CLEAR (R89): of a yelm as the writing VI numbers it. -/
def execCntClear (ts vi yelm : Nat) (value : Reg) (s0 : State) : Host.Outcome State Fault Refusal :=
  .next ((s0.upto ts).writeReg vi (0x100000 + 0x1000 * yelm + 0x05C) value.toNat)

/-- PORT_MODE_WRITE (R233). -/
def execPortModeWrite (ts vi port : Nat) (value : Reg) (s0 : State) : Host.Outcome State Fault Refusal :=
  let s := s0.upto ts
  .next (if s.gated 1 then s else s.writePort vi port value.toNat)

/-- ENERGY_MJ_LO_READ (R423). -/
def execEnergyMjLoRead (ts vi : Nat) (s : State) : Host.Outcome State Fault Refusal := .next ((s.upto ts).latch vi 0x50014)

/-- TX_PN_LO_READ (R443). -/
def execTxPnLoRead (ts vi : Nat) (s : State) : Host.Outcome State Fault Refusal := .next ((s.upto ts).latch vi 0xA0150)

end Sys2Proof.Machine
end

