-- ==== Sys2Proof/Machine/Restart.lean ====
section
/-! DEFINITION. RESET and how a reset ends (R290, R291, R342–R345), what is sent again and replayed after it (R183, R315–R317),
memory errors and residue failures (R326, R327), and the heartbeat (R341). -/
namespace Sys2Proof.Machine

/-! ### RESET (R290, R291, R344) -/

/-- R290: the status with which RESET is refused, or OK and the physical target. Log entry 76 (DEDUCED). -/
def State.resetFinding (s : State) (v : Nat) (x : Vi) (d t : Nat) : Nat × Nat :=
  if 5 < d then (stNoObject, 0)
  else if v ≠ 0 ∧ d ≠ 0 ∧ d ≠ 3 then (stNotPermitted, 0)
  else match d with
    | 0 => (match physYelm v x.part t with
      | none => (stNoObject, 0)
      | some y => (stOk, y))
    | 1 => if t < 48 then (stOk, t) else (stNoObject, 0)
    | 2 => if t < 12 then (stOk, t) else (stNoObject, 0)
    | 3 =>
      if v ≠ 0 ∧ t ≠ v then (stNotPermitted, 0)
      else (match s.vi? t with
        | none => (stNoObject, 0)
        | some y => if y.closing.isSome then (stNotPermitted, 0) else (stOk, t))
    | _ => (stOk, 0)

/-- R290: the reply of RESET. -/
def resetReply (pay : List Byte) (gen : Nat) : List Byte := bytesAt pay 0 1 ++ zeros 1 ++ bytesAt pay 2 2 ++ le 2 gen ++ zeros 2

/-- RESET: it completes when the reset, or the one that absorbs it, ends. -/
def effReset : Effect := fun s c =>
  match s.vi? c.vi with
  | none => (s, none)
  | some x =>
    let d := leAt c.pay 0 1
    let f := s.resetFinding c.vi x d (leAt c.pay 2 2)
    if f.1 ≠ stOk then (s, some (f.1, resetReply c.pay 0))
    else ((s.modEntry c.vi c.entry (fun e => { e with state := .running })).startReset d f.2 0 [(c.vi, c.entry)], none)

def execReset (p : Packet) (s : State) : Host.Outcome State Fault Refusal := .next (s.takeAs 0x0A05 p noStatic effReset)

/-! ### The commands by opcode, for replay and for packets that were held -/

/-- Static check and effect of every journaled opcode. -/
def commandTable : Tbl (StaticCheck × Effect) :=
  [(0x0101, noStatic, effViCreate),
   (0x0102, noStatic, effViClose),
   (0x0103, noStatic, effQCreate),
   (0x0104, noStatic, effQDestroy),
   (0x0106, noStatic, effRcCreate),
   (0x0107, noStatic, effRcDestroy),
   (0x0108, noStatic, effRegionAdd),
   (0x0109, noStatic, effRegionRemove),
   (0x0201, noStatic, effYelmAlloc),
   (0x0202, noStatic, effPartRead),
   (0x0301, staticImg false, effImgLoad),
   (0x0302, staticImg true, effImgSwap),
   (0x0303, noStatic, effImgErase),
   (0x0304, noStatic, effImgRefresh),
   (0x0401, noStatic, effSeqOpen),
   (0x0402, staticSeqStep, effSeqStep),
   (0x0403, noStatic, effSeqFork),
   (0x0404, noStatic, effSeqClose),
   (0x0405, noStatic, effSeqQuery),
   (0x0501, noStatic, effKvPin),
   (0x0502, noStatic, effKvEvict),
   (0x0503, noStatic, effKvPrefetch),
   (0x0601, staticAdpSetCreate, effAdpSetCreate),
   (0x0602, noStatic, effAdpSetXfer),
   (0x0603, noStatic, effAdpSetClose),
   (0x0604, staticAdpFwdSave, effAdpFwdSave),
   (0x0605, noStatic, effAdpBwd),
   (0x0606, noStatic, effAdpUpdate),
   (0x0701, noStatic, effTileRead),
   (0x0702, noStatic, effTileWrite),
   (0x0801, noStatic, effRecipeSet),
   (0x0802, noStatic, effCalRun),
   (0x0803, noStatic, effCalTableRead),
   (0x0901, noStatic, effTimeSet),
   (0x0902, noStatic, effBeatSet),
   (0x0A01, noStatic, effTestPackLoad),
   (0x0A02, noStatic, effTestPackRun),
   (0x0A03, noStatic, effErrDrain),
   (0x0A04, noStatic, effCperExport),
   (0x0A05, noStatic, effReset),
   (0x0B01, noStatic, effPairJoin),
   (0x0B02, noStatic, effPairLeave),
   (0x0B03, noStatic, effPairTakeover),
   (0x0B04, noStatic, effPairUnmirrored),
   (0x0C01, noStatic, effAttestGet),
   (0x0C02, noStatic, effMacsecKey),
   (0x0C03, staticFwUpdate, effFwUpdate),
   (0x0D01, noStatic, effPwrCapSet),
   (0x0D02, noStatic, effThermSet),
   (0x0D03, noStatic, effPwrStateSet),
   (0x0E01, noStatic, effRegRead),
   (0x0E02, noStatic, effRegWrite),
   (0x0E03, noStatic, effDiagEcho)]

/-- The static check and the effect of a journaled command. -/
def commandOf (op : Nat) : Option (StaticCheck × Effect) := tget commandTable op

/-- R266: a packet that the device has held is processed as it would be on arrival. -/
def State.serve (s : State) (p : Packet) : State :=
  if pOpcode p = 0x0903 then s.takeDirect p effJrnlAck
  else if pOpcode p = 0x0105 then s.takeDirect p effQDoorbell
  else match commandOf (pOpcode p) with
    | some (st, eff) => s.take p st eff
    | none => s.take p noStatic (fun s _ => (s, none))

/-- UNKNOWN_OPCODE (R266 check 8, R274): also the opcodes that only the device sends. -/
def execUnknownOpcode (p : Packet) (s : State) : Host.Outcome State Fault Refusal :=
  .next (if opKnown (pOpcode p) then s.upto p.ts else s.serve p)

/-! ### Sent again (R317) -/

/-- R317: a completion packet under a new tag, its CRC computed afresh. -/
def retagged (b : List Byte) (gen : Nat) : List Byte :=
  let h := b.take 14 ++ le 2 gen ++ (b.drop 16).take 14
  h ++ le 2 (crc16 h) ++ b.drop 32

/-- R317: one completion that was sent before the reset and is not retired. -/
def State.resendOne (s : State) (v id : Nat) (e : Entry) : State :=
  match s.vi? v with
  | none => s
  | some x =>
    match tget x.queues e.queue, e.sent with
    | some q, some b0 =>
      let b := retagged b0 q.gen
      let s := s.modEntry v id (fun n => { n with sent := some b, series := 1, beats := 0 })
      if !q.rdma then
        let dest := replyTo (some q) e.req
        s.send v dest.1 dest.2 (s.prioOf q.cls) b
      else if ringRoom q < ceilDiv b.length (2 ^ q.slotLog2) then s.holdFor v e.queue id
      else s.ringWrite v e.queue id x q b
    | _, _ => s

def State.resendAll (s : State) (v : Nat) : State :=
  match s.vi? v with
  | none => s
  | some x => (x.jrnl.entries.filter (fun e => e.2.state == .sent)).foldl (fun s e => s.resendOne v e.1 e.2) s

/-! ### RESET_END (R343–R345) -/

/-- R291: the completion of a RESET, with NEW_GEN, leaves when the reset ends, or as soon as its pair or its ring lets it; its
entry is retired with it. Log entry 117 (DEDUCED). -/
def State.answerReset (s : State) (a : Nat × Nat) : State :=
  match s.entry? a.1 a.2, s.vi? a.1 with
  | some e, some x =>
    let q := tget x.queues e.queue
    let s := (s.modEntry a.1 a.2 (fun e => { e with replayRun := false })).outcome a.1 a.2 stOk
      (resetReply (pPay e.req) ((q.map Queue.gen).getD 0))
    (match s.entry? a.1 a.2, s.vi? a.1, q with
    | some e, some x, some q => if pairHolds x a.2 then s else s.sendOne a.1 e.queue a.2 x q e
    | _, _, _ => s)
  | _, _ => s

/-- R314: the newer of the two copies of a checkpoint. Log entry 118 (DEDUCED). -/
def Journal.newer (j : Journal) : Checkpoint := if j.ckptA.stamp < j.ckptB.stamp then j.ckptB else j.ckptA

/-- R314: the entries that a scan finds from the checkpointed tail on: header CRC valid, accepted later than the checkpoint's
last stamp. Log entry 118 (DEDUCED). -/
def Journal.scan (j : Journal) : Tbl Entry :=
  let c := j.newer
  (j.entries.filter (fun e => decide (c.tail ≤ e.1))).takeWhile (fun e =>
    decide (c.stamp < e.2.stamp) && crc32c ((entryHeader e.2).take 60) == leAt (entryHeader e.2) 60 4)

/-- R314: after a reset of the ridge firmware or the device, a journal's tail, entries and PSN windows are what the newer
checkpoint and the scan give. Log entry 118 (DEDUCED). -/
def Vi.rebuild (x : Vi) : Vi :=
  let c := x.jrnl.newer
  let found := x.jrnl.scan
  { x with
    jrnl := { x.jrnl with entries := x.jrnl.entries.filter (fun e => decide (e.1 < c.tail)) ++ found,
                          next := ((found.getLast?).map (fun e => e.1 + 1)).getD (max c.tail x.jrnl.newer.head) }
    queues := tmapv x.queues (fun n q => { q with
      win := (found.filter (fun e => e.2.queue == n)).foldl (fun w e => psnMark w e.2.psn) (tgetD c.windows n .empty) }) }

/-- R345: whether the device reset that ends takes the device out of service. -/
def ErrBlk.exhausted (b : ErrBlk) (op : ResetOp) (now : Nat) : Bool :=
  op.domain == 5 && op.cause != 5 && decide (4 ≤ b.starts.length) &&
    decide (now < lget b.starts (b.starts.length - 4) 0 + Config.resetWindowNs)

/-- R343: the VIs whose work a reset ends: those of its domain. Log entry 38 (DEDUCED). -/
def ResetOp.touched (op : ResetOp) : List Nat := op.vis

/-- R315: whether an entry runs again after a reset: after a reset of domain 0, 1 or 2 those of the steps it ended; else every
open one but RESET, teardowns under way, and steps that have kept their place (R343). Log entry 75 (DEDUCED). -/
def State.replays (s : State) (op : ResetOp) (v : Nat) (e : Nat × Entry) : Bool :=
  e.2.open_ && e.2.opcode != 0x0A05 &&
    (if op.domain < 3 then op.entries.contains (v, e.1)
     else !s.steps.any (fun t => t.2.vi == v && t.2.entry == some e.1) &&
       !(v == 0 && s.vis.any (fun y => (y.2.closing.map Teardown.entry) == some e.1)))

/-- R315, R316: the entries of a VI that wait to run again, in the order of R309. Log entry 75 (DEDUCED). -/
def State.queueReplay (s : State) (op : ResetOp) (v : Nat) : State :=
  s.modVi v (fun x =>
    let es := x.jrnl.entries.filter (fun e => x.jrnl.replay.contains e.1 || s.replays op v e)
    let order := sortBy (fun (a b : Nat × Entry) => orderLt (entryPlace v a.2) (entryPlace v b.2)) es
    { x with jrnl := { x.jrnl with replay := order.map Prod.fst } })

/-- R315: what is under way for commands that run again from their start after a reset of domain 3, 4 or 5. -/
def State.dropProgress (s : State) (op : ResetOp) : State :=
  let vs := op.vis
  let s := (s.modCal (fun b => { b with requests := b.requests.filter (fun r => r.2.1.isNone || !vs.contains r.1) })).dropBatches vs
  let s := vs.foldl (fun s v => s.modVi v (fun x => { x with img := { x.img with refresh := [] } })) s
  if !vs.contains 0 then s
  else ((s.modErr (fun b => { b with runs := [] })).modSec (fun b => { b with fwPackage := none })).modPwr (fun b => { b with
    want := if op.domain = 3 then b.want else none })

/-- R369: pairs across a reset: a home is fenced until it is acknowledged and sends its records again; a mirror acknowledges what
it has applied. -/
def State.pairAfterReset (s : State) (v : Nat) : State :=
  match s.vi? v with
  | none => s
  | some x =>
    if x.pair.role = 1 then (s.fence v false).pairReturns v x.pair.rc
    else if x.pair.role = 2 then (s.modPair v (fun p => { p with group := [] })).sendAck v
    else s

/-- R344: VI_CLOSE commands that waited for a reset of their VI begin. -/
def State.closesWaiting (s : State) : State :=
  match s.vi? 0 with
  | none => s
  | some x =>
    (x.jrnl.entries.filter (fun e => e.2.open_ && e.2.opcode == 0x0102 && !x.jrnl.replay.contains e.1 &&
      !s.vis.any (fun y => (y.2.closing.map Teardown.entry) == some e.1))).foldl (fun s e => s.runEffect effViClose (cmdOf 0 e.1 e.2)) s

/-- R209, R343: records that had been asked for are asked for again. -/
def State.readAgain (s : State) : State :=
  s.yelms.foldl (fun s y => y.2.arrays.foldl (fun s a =>
    match a.2.prog, s.owner y.1 with
    | some g, some (v, _, _) => if g.loaded then s else s.readRecord v y.1 a.1 g.logical
    | _, _ => s) s) s

/-- R399: once the device is in Run, the packets it has held in order of arrival; each leaves the hold buffer as it is
processed. -/
def State.deliverHeld (s : State) : State :=
  let ps := s.mon.held.filterMap Frame.sloson
  (ps.foldl (fun s p => (s.modMon (fun b => { b with wakeHeld := bump b.wakeHeld })).serve p) s).modMon (fun b => { b with held := [] })

/-- R342: a reset is over: it leaves the list, and its yelms serve again where no other reset holds them.
Log entry 78 (DEDUCED). -/
def State.closeReset (s : State) (op : ResetOp) : State :=
  let rest := s.err.resets.erase op
  let s := s.modErr (fun b => { b with
    resets := rest, missed := if 4 ≤ op.domain then 0 else b.missed,
    sinceRidge := if op.domain = 4 ∧ op.cause = 2 then some 0 else b.sinceRidge })
  if op.domain = 4 then s
  else { s with yelms := tmapv s.yelms (fun k y =>
    if domainYelms op.domain op.target k ∧ !rest.any (fun r => r.domain != 4 && domainYelms r.domain r.target k) then
      { y with resetting := false } else y) }

/-- R345, R441: what a device reset restores, and whether the device goes out of service. Log entry 39 (DEDUCED). -/
def State.afterReset5 (s : State) (op : ResetOp) : State :=
  let s := if op.domain = 5 then { s with clk := { s.clk with clkEn := 0x7FF, ywinEn := 0xFFF } }.restoreMac else s
  let s := if op.domain = 5 ∧ op.cause = 5 then s.modErr (fun b => { b with outOfService := false }) else s
  if s.err.exhausted op s.now then
    (s.modErr (fun b => { b with outOfService := true })).report
      { recOf 0x0503 2 0xFFFF s.now with detail := le 1 (recentStarts s.now s.err.starts).length }
  else s

/-- R315, R344: answers, waits that are over, and the entries that will run again. -/
def State.settle (s : State) (op : ResetOp) : State :=
  let s := op.touched.foldl (fun s v => s.endWaits v) s
  let s := op.answer.foldl (fun s a => s.answerReset a) s
  let s := if op.domain < 3 then s else s.dropProgress op
  op.touched.foldl (fun s v => s.queueReplay op v) s

/-- R315, R317, R343: the device takes up its work again. -/
def State.takeUp (s : State) (op : ResetOp) : State :=
  let s := op.touched.foldl (fun s v => s.resendAll v) s
  let s := if op.domain < 3 then s else op.touched.foldl (fun s v => s.pairAfterReset v) s
  let s := (if op.domain < 4 then s else s.readAgain).closesWaiting
  ((op.vis.foldl (fun s v => s.imgPump v) s).pumpAllTiles.wake).deliverHeld

/-- R314, R317, R343–R345: a reset has ended. Out of service, the completions sent before are sent again and nothing runs.
Log entry 92 (DEDUCED). -/
def State.finishReset (s : State) (op : ResetOp) : State :=
  let s := s.closeReset op
  let s := (if op.domain < 4 then s else { s with vis := tmapv s.vis (fun _ x => x.rebuild) }).afterReset5 op
  let s := s.settle op
  if s.err.outOfService then (op.touched.foldl (fun s v => s.resendAll v) s).deliverHeld else s.takeUp op

/-- R342: a VI reset ends when the VI's steps and its transfers have ended. -/
def State.viQuiet (s : State) (v : Nat) : Bool :=
  !s.steps.any (fun t => t.2.vi == v && t.2.ending) && ((s.vi? v).map (fun x => x.conns.all (fun c => c.2.out.isEmpty))).getD true

/-- RESET_END (R342, R343, R427, R453): where no firmware slot runs, the ridge stays in the ROM loader and the reset goes on.
Log entry 77 (DEDUCED). -/
def execResetEnd (ts domain target : Nat) (s0 : State) : Host.Outcome State Fault Refusal :=
  let s := s0.upto ts
  .next (match s.err.resets.find? (fun r => r.domain == domain && (r.target == target || decide (4 ≤ domain))) with
    | none => s
    | some op =>
      if (domain = 3 ∧ !s.viQuiet op.target) ∨ (domain = 5 ∧ (!s.pins.sysResetL ∨ !s.pins.pwrOk)) then s
      else if domain < 4 then s.finishReset op
      else
        let s := s.modSec SecBlk.boot
        if s.sec.romLoader then s else s.finishReset op)

/-! ### REPLAY (R183, R315, R316) -/

/-- R183: whether a training command has already had its effect. Log entry 46 (DEDUCED). -/
def trainedBefore (x : Vi) (e : Entry) : Bool :=
  let pay := pPay e.req
  match e.opcode with
  | 0x0605 => (((tget x.seqs (leAt pay 0 4)).bind Seq.set).bind (tget x.sets)).any (fun t => decide (e.stamp ≤ t.lastTrain))
  | 0x0606 => (tget x.sets (leAt pay 0 2)).any (fun t => decide (e.stamp ≤ t.lastVersion))
  | _ => false

/-- R352, R363, R364: a pair command whose run was cut short begins anew. -/
def State.forgetJoin (s : State) (v id : Nat) : State :=
  s.vis.foldl (fun s y =>
    if y.2.pair.joinEntry = some (v, id) then
      s.modPair y.1 (fun p => if p.rejoin then { p with joinEntry := none, checking := false, rejoin := false, state := 4 } else p.ended)
    else s) s

/-- R316: one entry runs again. Log entry 46 (DEDUCED), 80 (DEDUCED). -/
def State.replayOne (s : State) (v id : Nat) : State :=
  match s.vi? v, s.entry? v id with
  | some x, some e =>
    if !e.open_ ∨ s.vis.any (fun y => y.2.pair.takeEntry = some (v, id) ∧ y.2.pair.state = 6) then s
    else
      let s := (s.modVi v (fun x => x.modJrnl (fun j => { j with replayCount := bump j.replayCount }))).modEntry v id (fun e =>
        { e with state := .accepted, replays := e.replays + 1, replayRun := true, ranOut := false, admitted := false })
      let c := cmdOf v id e
      if trainedBefore x e then s.outcome v id stOk (if e.payload = [] then emptyReply s v e else e.payload)
      else if [0x0402, 0x0604, 0x0605].contains e.opcode && !thas x.seqs (leAt (pPay e.req) 0 4) then s.abandon v id
      else match commandOf e.opcode with
        | none => s
        | some (st, eff) =>
          match (if e.opcode / 256 = 3 then none else st s c) with
          | some (code, pay) => s.outcome v id code pay
          | none => (s.forgetJoin v id).runEffect eff c
  | _, _ => s

/-- R271, R315: what has been recorded and not yet sent leaves. -/
def State.sendRecorded (s : State) (v qn : Nat) : Nat → State
  | 0 => s
  | fuel + 1 =>
    match s.vi? v with
    | none => s
    | some x =>
      match tget x.queues qn, x.nextToSend qn with
      | some q, some (id, e) =>
        if q.held.contains id then s else (s.sendOne v qn id x q e).sendRecorded v qn fuel
      | _, _ => s

/-- R309, R316: the entries of all VIs that wait to be replayed and that no reset holds, in their order.
Log entry 75 (DEDUCED). -/
def State.replayList (s : State) : List (Place5 × Nat × Nat) :=
  sortBy (fun (a b : Place5 × Nat × Nat) => orderLt a.1 b.1)
    (s.vis.flatMap (fun x => if s.inReset x.1 then [] else
      x.2.jrnl.replay.filterMap (fun id => (tget x.2.jrnl.entries id).map (fun e => (entryPlace x.1 e, x.1, id)))))

/-- R316: what is replayed before and with the entries of a VI: everything up to the last of them.
Log entry 75 (DEDUCED). -/
def State.replayUpto (s : State) (vi : Nat) : List (Nat × Nat) :=
  let all := s.replayList
  let n := (all.reverse.dropWhile (fun e => e.2.1 != vi)).length
  (all.take n).map Prod.snd

/-- REPLAY (R315, R316): of one VI, once no reset holds it; older entries of other VIs run before. -/
def execReplay (ts vi : Nat) (s0 : State) : Host.Outcome State Fault Refusal :=
  let s := s0.upto ts
  .next (match s.vi? vi with
    | none => s
    | some x =>
      if !s.serving ∨ s.err.outOfService ∨ s.inReset vi then s
      else
        let s := (tkeys x.queues).foldl (fun s q => s.sendRecorded vi q x.jrnl.entries.length) s
        let es := s.replayUpto vi
        let s := { s with vis := tmapv s.vis (fun v x => x.modJrnl (fun j =>
          { j with replay := if v = vi then [] else j.replay.filter (fun id => !es.contains (v, id)) })) }
        (es.foldl (fun s e => s.replayOne e.1 e.2) s).wake)

/-! ### Memory errors (R327) -/

/-- R327: row of the table of the structure that was hit. -/
def eccRow : EccSite → Nat
  | .stepData _ => 0
  | .page _ _ => 1
  | .imageSection _ _ => 2
  | .oneCopy => 3
  | .bothCopies _ _ _ => 4
  | .adapterSet _ _ => 5
  | .monitorState _ _ => 6
  | .trims _ => 6

/-- R326: a step is run again for a fault on a die. -/
def State.rerunOn (s : State) (k cause die : Nat) : State :=
  match s.step? k with
  | none => s
  | some t => if t.inFlight then (s.rerunStep k cause ((groupOfDie die).getD t.group) (die == 60)).wake else s

/-- R327: a committed page in tier T1 is lost: it becomes DROPPED, and steps that pin it run again. -/
def State.losePage (s : State) (v k die : Nat) : State :=
  match (s.vi? v).bind (fun x => tget x.kv.pages k) with
  | none => s
  | some p =>
    if p.state ≠ .resident then s
    else
      let s := p.pins.foldl (fun s t => s.rerunOn t 0x0302 die) s
      s.dropIndex v p.index p.refs

/-- R327: both copies of an item are lost: a VI reset; its sequence is closed, its entry retired without completion. -/
def State.loseItem (s : State) (v : Nat) (seq : Option Nat) (entry : Option (Nat × Nat)) : State :=
  let s := s.startReset 3 v 4 []
  let s := match seq with
    | some q => (s.closeSeq v q).1
    | none => s
  match entry, s.vi? v with
  | some (q, psn), some x =>
    (match x.jrnl.entries.find? (fun e => e.2.queue == q && e.2.psn == psn && e.2.state != .retired) with
    | none => s
    | some (id, _) =>
      let s := s.steps.foldl (fun s t => if t.2.vi = v ∧ t.2.entry = some id then s.dropStep t.1 else s) s
      s.retire v id)
  | _, _ => s

/-- R327: 4 KiB of an image section are read again from the source. -/
def State.rereadSection (s : State) (v address : Nat) : State :=
  match s.vi? v with
  | none => s
  | some x =>
    match tget x.regions x.img.source.region with
    | none => s
    | some r => s.rdma v r.rc .imgSection false (r.addr + x.img.source.ofs + address / 4096 * 4096) 4096 0 []

/-- R331: the record of an ECC error. -/
def State.eccRecord (s : State) (e : EccError) : Rec :=
  let b := recOf (if e.corrected then 0x0301 else 0x0302) (if e.corrected then 0 else 1) 0xFFFF s.now
  let at_ := { b with die := e.die, detail := le 1 e.tier ++ (if e.corrected then [] else le 1 (eccRow e.site)) ++ le 8 e.address }
  let own := fun (k : Nat) (r : Rec) => match s.step? k with
    | some t => { r with vi := t.vi, seq := t.seq }
    | none => r
  match e.site with
  | .stepData k => own k at_
  | .page v _ => { at_ with vi := v }
  | .imageSection v k => own k { at_ with vi := v }
  | .oneCopy => at_
  | .bothCopies v q n => { at_ with
      vi := v, seq := q.getD 0xFFFFFFFF, queue := (n.map Prod.fst).getD 0xFFFF, psn := (n.map Prod.snd).getD 0 }
  | .adapterSet v _ => { at_ with vi := v }
  | .monitorState y a => { at_ with vi := ((s.owner y).map Prod.fst).getD 0xFFFF, yelm := y, array := a }
  | .trims y => { at_ with vi := ((s.owner y).map Prod.fst).getD 0xFFFF, yelm := y }

/-- ECC_ERROR (R327). -/
def execEccError (ts : Nat) (e : EccError) (s0 : State) : Host.Outcome State Fault Refusal :=
  let s := s0.upto ts
  .next (if s.pwr.state > 1 ∨ !s.pins.mainUp then s
    else
      let s := s.report (s.eccRecord e)
      if e.corrected then s
      else match e.site with
        | .stepData k => s.rerunOn k 0x0302 e.die
        | .page v k => (s.losePage v k e.die).wake
        | .imageSection v k => (s.rereadSection v e.address).rerunOn k 0x0302 e.die
        | .oneCopy => s
        | .bothCopies v q n => (s.loseItem v q n).afterStep v
        | .adapterSet v a => s.modVi v (fun x => { x with sets := tmod x.sets a (fun t => { t with damaged := true }) })
        | .monitorState y a => s.modArr y a (seedArr (s.yelmTemp y))
        | .trims y => s.reloadTrims y)

/-- RESIDUE_FAIL (R326): units 0 to 2 lie in a yelm, unit 3 is a score engine. -/
def execResidueFail (ts unit place step : Nat) (s0 : State) : Host.Outcome State Fault Refusal :=
  let s := s0.upto ts
  .next (match s.step? step with
    | none => s
    | some t =>
      if !t.inFlight then s
      else
        let group := if unit = 3 then place / 4 else place / 256
        let e := t.entry.bind (s.entry? t.vi)
        let s := s.report { recOf 0x0202 1 t.vi s.now with
          queue := (e.map Entry.queue).getD 0xFFFF, psn := (e.map Entry.psn).getD 0, seq := t.seq,
          yelm := if unit = 3 then 0xFFFF else place, die := if unit = 3 then 48 + group else dieOfYelm place,
          detail := le 1 unit ++ le 2 place }
        (s.rerunStep step 0x0202 group false).wake)

/-! ### The heartbeat (R341, R428, R430) -/

/-- R341, R428: the firmware runs and is watched. -/
def State.watched (s : State) : Bool := s.serving

/-- HEARTBEAT (R341): the ridge firmware writes its word. -/
def execHeartbeat (ts : Nat) (s0 : State) : Host.Outcome State Fault Refusal :=
  let s := s0.upto ts
  .next (if !s.watched then s else s.modErr (fun b => { b with hb := (b.hb + 1) % 2 ^ 32, sinceRidge := none }))

/-- R341: the check at a boundary. Log entry 78 (DEDUCED). -/
def State.heartbeatBoundary (s : State) : State :=
  if !s.watched then s
  else s.modErr (fun b => { b with
    missed := if b.hb = b.hbSeen then b.missed + 1 else 0, hbSeen := b.hb, sinceRidge := b.sinceRidge.map (· + 1) })

/-- HEARTBEAT_LOST (R341): the ridge firmware is reset; where it has written no heartbeat since such a reset, the device. Log
entry 39 (DEDUCED), 78 (DEDUCED). -/
def execHeartbeatLost (ts : Nat) (s0 : State) : Host.Outcome State Fault Refusal :=
  let s := s0.upto ts
  .next (if !s.watched ∨ s.err.missed < 8 ∨ s.err.outOfService then s
    else
      let s := (s.report { recOf 0x0501 2 0xFFFF s.now with die := 60, detail := le 1 s.err.missed }).modSec SecBlk.trialFails
      if s.err.sinceRidge.isSome then s.startReset 5 0 2 []
      else (s.modErr (fun b => { b with hbResets := bump b.hbResets })).startReset 4 0 2 [])

end Sys2Proof.Machine
end

