-- ==== Sys2Proof/Machine/Supply.lean ====
section
/-! DEFINITION. The end of Doze and Deep (R403), power-up, power loss and the reset pin (R450–R453), the SMBus sideband
(R461–R465) and the test port (R466). -/
namespace Sys2Proof.Machine

/-! ### Rails and the reset pin -/

/-- R410: a brake that is held low as the device comes up is in force at once. -/
def State.brakeIfHeld (s : State) : State :=
  if s.pins.pbrakeL ∨ s.pwr.brakeOn then s
  else s.modPwr (fun b => { b with
    brakeOn := true, brakeSeen := true, brakeEvents := bump b.brakeEvents, brakeStart := s.now, brakeLit := 0 })

/-- R65, R403: the device is in Run again: monitor state is seeded, and the next boundary interpolates trims and starts a pass.
Log entry 93 (DESIGN CHOICE). -/
def State.backInRun (s : State) : State :=
  let s := s.modPwr (fun b => { b with state := 0, waking := false, wakeDue := true })
  let s := ({ s with yelms := tmapv s.yelms (fun y ye =>
    { ye with arrays := tmapv ye.arrays (fun _ a => seedArr (s.yelmTemp y) a), seed := seedOf (s.yelmTemp y) }) }).seedCourses (fun _ => true)
  s.brakeIfHeld.syncPins

/-- POWER_STATE_EXIT (R399, R403, R452): power-up from Doze, or from Deep once the rails are back, completes. -/
def execPowerStateExit (ts : Nat) (s0 : State) : Host.Outcome State Fault Refusal :=
  let s := s0.upto ts
  .next (if !s.pwr.waking then s
    else if s.pwr.state = 2 then s.backInRun.deliverHeld.wake
    else if s.pwr.state = 3 ∧ s.pins.pwrOk ∧ s.pins.sysResetL then
      (((s.modSec SecBlk.boot).restoreMac).backInRun).deliverHeld
    else s)

/-- R451: the main rails are gone: steps end without commit, HBM is lost, and the main domains are held in reset.
Log entry 82 (DEDUCED). -/
def State.loseMain (s : State) : State :=
  let s := ((s.modPwr (fun b => { b.asleep 0 with waking := false, wakePend := none, wakeDue := false, back := none })).modMon
    (fun b => { b with maintActive := false, held := [] })).darken
  { s with pins := { s.pins with mainUp := false } }.syncPins

/-- PWR_OK_FALL (R451, R452): in Deep the rails may go. Log entry 82 (DEDUCED). -/
def execPwrOkFall (ts : Nat) (s0 : State) : Host.Outcome State Fault Refusal :=
  let s := s0.upto ts
  let s1 := { s with pins := { s.pins with pwrOk := false } }
  .next (if s.pwr.state = 3 ∨ !s.pins.mainUp then s1 else s1.loseMain)

/-- PWR_OK_RISE (R450, R452): every rail is in regulation. -/
def execPwrOkRise (ts : Nat) (s0 : State) : Host.Outcome State Fault Refusal :=
  let s := s0.upto ts
  .next { s with pins := { s.pins with pwrOk := true } }

/-- R451: what a power loss leaves: cells, marks and the persistent store. Log entry 96 (DESIGN CHOICE). -/
def State.unplug (s : State) : State :=
  let s := s.loseMain
  let persist := fun (y : Yelm) => { y with
    arraySel := 0, trimTap := 0, trimConv := 0, trimBank := 0, counts := List.replicate 7 0, seen := 0, trimDue := true }
  { s with
    yelms := tmapv s.yelms (fun _ y => persist y),
    time := { TimeBlk.reset with floor := s.time.floor },
    err := { ErrBlk.reset with retired := s.err.retired },
    cal := { CalBlk.reset with refUv := s.cal.refUvPend.getD s.cal.refUv, setId := s.cal.setId, rdacCode := s.cal.rdacCode },
    mon := { MonBlk.reset with margins := s.mon.margins },
    pwr := { PwrBlk.reset with trippedPrev := s.pwr.trippedPrev, tripTemp := s.pwr.tripTemp, tripDie := s.pwr.tripDie,
                               tripStamp := s.pwr.tripStamp },
    clk := .reset,
    sec := { SecBlk.reset with
      imgSigReq := s.sec.imgSigReq, slots := s.sec.slots, preferred := s.sec.preferred, trial := s.sec.trial,
      trialCount := s.sec.trialCount, minSvn := s.sec.minSvn, lmsTree := s.sec.lmsTree, lmsLeft := s.sec.lmsLeft,
      treeWork := s.sec.treeWork, batchS := s.sec.batchS, opValid := s.sec.opValid, opDigest := s.sec.opDigest,
      ms := s.sec.ms.map (fun m => { m with alert := false, exhausted := false, drops := 0 }) },
    pins := { s.pins with vddAon := false, mainUp := false, pwrReq := false, thermAlertL := true, thermTripL := true,
                          tap := .idcode, vi0Pend := none },
    store := { s.store with refId := 0 } }

/-- POWER_LOSS (R451): VDD_AON leaves regulation. -/
def execPowerLoss (ts : Nat) (s0 : State) : Host.Outcome State Fault Refusal :=
  let s := s0.upto ts
  .next (if s.pins.vddAon then s.unplug else s)

/-- POWER_UP (R303, R434, R450): VDD_AON reaches regulation: time starts at its floor, and PWR_REQ rises. -/
def execPowerUp (ts : Nat) (pufOk : Bool) (s0 : State) : Host.Outcome State Fault Refusal :=
  let s := s0.upto ts
  .next (if s.pins.vddAon then s
    else
      { s with now := max s.now s.time.floor, pins := { s.pins with vddAon := true, pwrReq := true } }.modSec
        (fun b => { b with pufFail := !pufOk }))

/-- SYS_RESET_L (R342, R453): low for 1 µs: a device reset in Run, Trim and Doze while PWR_OK is high. -/
def execSysResetL (ts : Nat) (s0 : State) : Host.Outcome State Fault Refusal :=
  let s := s0.upto ts
  let s := { s with pins := { s.pins with sysResetL := false } }
  .next (if s.pwr.state = 3 ∨ !s.pins.pwrOk ∨ !s.pins.mainUp ∨ !s.pins.vddAon then s
    else (if s.pwr.state = 2 then s.backInRun else s).startReset 5 0 1 [])

/-- R466: the instructions that drive lands. Log entry 85 (DESIGN CHOICE). -/
def drivesLands : TapInstr → Bool
  | .extest | .extestPulse | .extestTrain | .clamp | .highz => true
  | _ => false

/-- SYS_RESET_L_RELEASE (R427, R450, R453): where the main domains were held in reset and the rails are good, power-up begins
with the ROM loader, as a reset that does not count (R345); else the release joins the reset in progress. Log entry 77
(DEDUCED), 79 (DEDUCED). -/
def execSysResetLRelease (ts : Nat) (s0 : State) : Host.Outcome State Fault Refusal :=
  let s := s0.upto ts
  let s := { s with pins := { s.pins with
    sysResetL := true, tap := if drivesLands s.pins.tap then .bypass else s.pins.tap } }
  .next (if s.pins.mainUp ∨ !s.pins.pwrOk ∨ !s.pins.vddAon ∨ s.pwr.state = 3 then s
    else
      let op : ResetOp := ⟨5, 0, s.now, 6, [], s.vis.map Prod.fst, []⟩
      ({ s with pins := { s.pins with mainUp := true } }.backInRun).modErr (fun b => { b with resets := [op] }))

/-! ### The sideband (R461–R465) -/

def sbDone : Nat := 0
def sbNotApplicable : Nat := 1
def sbBusy : Nat := 2
def sbRefused : Nat := 3
def sbBadLength : Nat := 4
def sbBadPec : Nat := 5

def State.sbReply (s : State) (status : Nat) (pay : List Byte) : State :=
  { s with outbox := s.outbox ++ [Out.sideband (le 1 status ++ pay)] }

/-- R463: a command finds the device in a reset. In the ROM loader the ridge takes recovery commands (R465). Log entry 77
(DEDUCED), 83 (DEDUCED). -/
def State.sbWaits (s : State) : Bool := !s.sec.romLoader && s.err.resets.any (fun r => decide (4 ≤ r.domain))

/-- R461, R463: a transaction: its PEC, its length, a reset in progress unless the command is exempt, then what it does.
Log entry 83 (DEDUCED). -/
def State.sideband (s0 : State) (r : SbRequest) (len : List Byte → Bool) (exempt : Bool)
    (act : State → List Byte → State × Nat × List Byte) : State :=
  let s := s0.upto r.ts
  if !s.pins.vddAon then s
  else if !r.pecOk then s.sbReply sbBadPec []
  else if !len r.data then s.sbReply sbBadLength []
  else if !exempt && s.sbWaits then s.sbReply sbBusy []
  else
    let o := act s r.data
    o.1.sbReply o.2.1 o.2.2

def noBytes (d : List Byte) : Bool := d.isEmpty

/-- ID_READ (R462). -/
def execIdRead (r : SbRequest) (s : State) : Host.Outcome State Fault Refusal :=
  .next (s.sideband r noBytes true (fun s _ =>
    (s, sbDone, le 4 Config.devId ++ le 4 Config.stepping ++ le 4 Config.serialLo.toNat ++ le 4 Config.serialHi.toNat)))

/-- R462: the flags of STATUS_READ. -/
def State.statusFlags (s : State) : Nat :=
  b2n s.err.outOfService + 2 * b2n s.sec.romLoader + 4 * b2n (!s.pins.thermTripL) + 8 * b2n (!traced s.time) +
    16 * b2n (((s.vi? 0).map Vi.addr).any (fun a => a != AddrRec.zero)) + 32 * b2n s.sec.pufFail +
    64 * b2n (s.err.resets.any (fun r => decide (4 ≤ r.domain)))

/-- STATUS_READ (R462): HOT_DIE, HOT_TEMP and POWER_W read 0 in Deep. -/
def execStatusRead (r : SbRequest) (s : State) : Host.Outcome State Fault Refusal :=
  .next (s.sideband r noBytes true (fun s _ =>
    let deep := decide (s.pwr.state = 3)
    let hot := (s.pwr.hot).getD (0xFF, 0)
    (s, sbDone, le 1 s.powerState ++ le 1 s.statusFlags ++ le 1 (if deep then 0 else hot.1) ++ zeros 1 ++
      le 2 (if deep then 0 else twos 16 (sixteenths hot.2)) ++ zeros 2 ++ le 4 (if deep then 0 else s.pwr.power.toNat) ++ le 8 s.now)))

/-- R464: the ranges that REG_READ_SB reaches, by first and last register. -/
def sbRanges : List (Nat × Nat) := [(0x00000, 0x00024), (0x20000, 0x20044), (0x50000, 0x5FFFC), (0x40040, 0x4006C)]

def sbInRange (a n : Nat) : Bool := a % 4 == 0 && sbRanges.any (fun r => decide (r.1 ≤ a) && decide (a + 4 * (n - 1) ≤ r.2))

/-- REG_READ_SB (R464): as VI 0 reads. Log entry 83 (DEDUCED). -/
def execRegReadSb (r : SbRequest) (s : State) : Host.Outcome State Fault Refusal :=
  .next (s.sideband r (fun d => d.length == 5) true (fun s d =>
    let a := leAt d 0 4
    let n := clampN (leAt d 4 1) 1 16
    if !sbInRange a n then (s, sbRefused, [])
    else if decide (0x10000 ≤ a) && (s.sbWaits || s.sec.romLoader || s.pwr.state == 3 || !s.pins.mainUp) then (s, sbBusy, [])
    else
      let o := s.readRange 0 a n
      (o.2, sbDone, o.1)))

/-- VI0_ADDR_WRITE (R237, R454): in force from the next beat boundary. -/
def execVi0AddrWrite (r : SbRequest) (s : State) : Host.Outcome State Fault Refusal :=
  .next (s.sideband r (fun d => d.length == 48) false (fun s d =>
    let a := addrAt d 0
    if notUnicast a.ipv6 || s.tenants.any (fun e => addrClash e.2.addr a) then (s, sbRefused, [])
    else ({ s with pins := { s.pins with vi0Pend := some a } }, sbDone, [])))

/-- VI0_ADDR_READ (R462). -/
def execVi0AddrRead (r : SbRequest) (s : State) : Host.Outcome State Fault Refusal :=
  .next (s.sideband r noBytes false (fun s _ => (s, sbDone, ((s.vi? 0).map (fun x => addrBytes x.addr)).getD (zeros 48))))

/-- WAKE (R398, R462). Log entry 83 (DEDUCED). -/
def execWake (r : SbRequest) (s : State) : Host.Outcome State Fault Refusal :=
  .next (s.sideband r noBytes true (fun s _ =>
    if s.pwr.state ≤ 1 ∧ s.pwr.want.isNone then (s, sbNotApplicable, [])
    else if s.mon.trip then (s, sbRefused, [])
    else (s.wakeBy 2, sbDone, [])))

/-- SERVICE_RESTORE (R345): a device reset that does not count; the count clears. -/
def execServiceRestore (r : SbRequest) (s : State) : Host.Outcome State Fault Refusal :=
  .next (s.sideband r noBytes true (fun s _ =>
    if !s.err.outOfService then (s, sbNotApplicable, [])
    else ((s.modErr (fun b => { b with starts := [] })).startReset 5 0 5 [], sbDone, [])))

/-- R465: when recovery is accepted. Log entry 77 (DEDUCED). -/
def State.recoverable (s : State) : Bool := s.sec.romLoader || s.err.outOfService

/-- FW_RECOVER_BEGIN (R465): the slot that is not preferred becomes invalid. -/
def execFwRecoverBegin (r : SbRequest) (s : State) : Host.Outcome State Fault Refusal :=
  .next (s.sideband r (fun d => d.length == 4) false (fun s d =>
    let n := leAt d 0 4
    if !s.recoverable ∨ Config.firmwareBytes < n then (s, sbRefused, [])
    else (s.modSec (fun b =>
      let w := 1 - b.preferred
      { b with slots := b.slots.set w { b.slot w with valid := false }, recovery := some (n, []) }), sbDone, [])))

/-- FW_RECOVER_DATA (R465). Log entry 83 (DEDUCED). -/
def execFwRecoverData (r : SbRequest) (s : State) : Host.Outcome State Fault Refusal :=
  .next (s.sideband r (fun d => decide (5 ≤ d.length) && decide (d.length ≤ 244)) false (fun s d =>
    let o := leAt d 0 4
    let body := d.drop 4
    match s.sec.recovery with
    | none => (s, sbRefused, [])
    | some (n, bs) =>
      if !s.recoverable ∨ n < o + body.length then (s, sbRefused, [])
      else
        let padded := if bs.length < o then bs ++ zeros (o - bs.length) else bs
        (s.modSec (fun b => { b with recovery := some (n, padded.take o ++ body ++ padded.drop (o + body.length)) }), sbDone, [])))

/-- FW_RECOVER_END (R429, R465): a package that verifies is preferred with trial count 0, and boots at once.
Log entry 83 (DEDUCED). -/
def execFwRecoverEnd (r : SbRequest) (s : State) : Host.Outcome State Fault Refusal :=
  .next (s.sideband r noBytes false (fun s _ =>
    match s.sec.recovery with
    | none => (s, sbRefused, [])
    | some (n, bs0) =>
      let bs := bytesAt bs0 0 n
      if !s.recoverable then (s, sbRefused, [])
      else if !fwOk s.sec bs then (s.modSec (fun b => { b with recovery := none }), sbRefused, [])
      else (s.modSec (fun b =>
        let w := 1 - b.preferred
        { b with slots := b.slots.set w (slotOf bs), preferred := w, trialCount := 0, trial := true, recovery := none }.boot), sbDone, [])))

/-- R462: the codes that are known. -/
def sbCodes : List Nat := [0x01, 0x02, 0x03, 0x10, 0x11, 0x20, 0x21, 0x30, 0x31, 0x32]

/-- UNKNOWN_SIDEBAND_CODE (R462). Log entry 83 (DEDUCED). -/
def execUnknownSidebandCode (r : SbRequest) (code : Nat) (s : State) : Host.Outcome State Fault Refusal :=
  .next (if sbCodes.contains code then s.upto r.ts
    else s.sideband r (fun _ => true) true (fun s _ => (s, sbNotApplicable, [])))

/-! ### The test port (R466) -/

/-- TEST_PORT_INSTRUCTION: instructions that drive lands behave as BYPASS unless SYS_RESET_L is low.
Log entry 85 (DESIGN CHOICE). -/
def execTestPortInstruction (ts : Nat) (i : TapInstr) (s0 : State) : Host.Outcome State Fault Refusal :=
  let s := s0.upto ts
  .next (if !s.pins.vddAon then s
    else { s with pins := { s.pins with tap := if drivesLands i ∧ s.pins.sysResetL then .bypass else i } })

end Sys2Proof.Machine
end

