-- ==== Sys2Proof/Machine/Boundary.lean ====
section
/-! DEFINITION. BEAT_BOUNDARY (R307): the actions of a beat boundary in the order of the table. -/
namespace Sys2Proof.Machine

/-! ### Orders 1 to 3: time, period, source, trims, recipes -/

/-- R302: a step whose time floor has been written is made; the offset of its source falls by it. Log entry 84 (DEDUCED). -/
def State.timeStep (s : State) : State :=
  match s.time.pendStep with
  | some (o, true) =>
    { s with now := s.now + o }.modTime (fun t =>
      { t.modSrc t.active (fun r => { r with offset := r.offset - o }) with
        stepped := true, stepEvents := bump t.stepEvents, pendStep := none, slewing := false, boundary := s.now + o })
  | _ => s

/-- R305, R306: periods whose stamp has come; each discards the flag windows in progress. -/
def State.periodChange (s : State) : State :=
  let due := s.time.pendBeat.filter (fun e => decide (e.1 ≤ s.now))
  if due.isEmpty then s
  else
    let s := s.modTime (fun t => { t with
      beatLog2 := (due.getLast?.map Prod.snd).getD t.beatLog2,
      pendBeat := t.pendBeat.filter (fun e => !decide (e.1 ≤ s.now)) })
    { s with vis := tmapv s.vis (fun _ x => { x with prec := x.prec.discard false }) }.modTime (fun t => { t with series := none })

/-- R300: a preference whose stamp has come; the active source is chosen afresh. -/
def State.preferenceChange (s : State) : State :=
  match s.time.pendPref with
  | some (src, at_) =>
    if s.now < at_ then s
    else
      let s := s.noteTraced
      (s.modTime (fun t =>
        let t := { t with pref := src, pendPref := none }
        t.switchTo (chooseSource t))).noteTraced
  | none => s

/-- R379, R403: the first boundary after a wake interpolates every yelm's trims and starts a pass.
Log entry 53 (DESIGN CHOICE). -/
def State.afterWake (s : State) : State :=
  if !s.pwr.wakeDue then s
  else
    let s := { s with yelms := tmapv s.yelms (fun _ y => { y with trimDue := true }) }
    let trims := (List.range 48).foldl (fun t d => ((s.diode d).map (fun x => tset t d (x, s.now))).getD t) s.cal.dieTrim
    let s := s.modCal (fun b => { b with dieTrim := trims })
    let s := if s.cal.rotEn && !s.cal.passActive then s.startPass else s
    s.modPwr (fun b => { b with wakeDue := false })

/-! ### Order 5: the age factor (R69) -/

/-- R69: α from the sums of a beat; with fewer than 4,096 trits it and the sums are carried over. -/
def estimateAlpha (temp : Rat) (a : Arr) : Arr :=
  if a.h < 4096 then a
  else
    let k := kappa temp
    let square := (a.v / (k * k) - a.pg * mkRat 64 10000) / (mkRat 78 10000 * mkRat 78 10000 * (a.h : Rat))
    { a with alpha := fMax fOne (fMin 0x41000000#32 (fSqrt (fOfRat square))), v := 0, pg := 0, h := 0 }

def State.ageBoundary (s : State) : State :=
  { s with yelms := tmapv s.yelms (fun y ye =>
      { ye with arrays := tmapv ye.arrays (fun _ a => estimateAlpha (s.yelmTemp y) a) }) }

/-! ### Order 6: port modes and VI 0's address (R233, R454) -/

/-- Every connection of a VI that a condition names enters error. -/
def State.failConns (s : State) (v : Nat) (which : Conn → Bool) : State :=
  match s.vi? v with
  | none => s
  | some x => (x.conns.filter (fun c => which c.2)).foldl (fun s c => s.connError v c.1) s

/-- R233: a port takes its new mode: its links drop, and what belongs to removed logical ports goes. -/
def State.portBoundary (s : State) (p : Nat) : State :=
  match lget s.net.portPend p none with
  | none => s
  | some m =>
    let lps := (List.range 4).map (fun i => 4 * p + i)
    let had := lps.filter s.portExists
    let s := lps.foldl (fun s lp => s.dropLink lp) s
    let s := s.modNet (fun n => { n with portMode := n.portMode.set p m, portPend := n.portPend.set p none })
    let gone := had.filter (fun lp => !s.portExists lp)
    let s := gone.foldl (fun s lp => s.macClear lp) s
    (tkeys s.vis).foldl (fun s v => s.failConns v (fun c => gone.contains c.lport)) s

/-- R454: VI 0's new address record; its connections enter error. -/
def State.addrBoundary (s : State) : State :=
  match s.pins.vi0Pend with
  | none => s
  | some a =>
    let s := { s.modVi 0 (fun x => { x with addr := a }) with pins := { s.pins with vi0Pend := none } }
    s.failConns 0 (fun _ => true)

/-! ### The boundary -/

/-- R96, R184, R250, R306: what counts beats. -/
def State.countBeat (s : State) : State :=
  let s := s.modPwr (fun b => { b with admitted := [0, lget b.admitted 0 0] })
  let s := { s with yelms := tmapv s.yelms (fun _ y => { y with transposeCycles := 0 }) }
  { s with vis := tmapv s.vis (fun _ x => x.modJrnl (fun j =>
      { j with entries := tmapv j.entries (fun _ e => if e.state = .retired then e else { e with beats := e.beats + 1 }) })) }

/-- R307 orders 3 to 7, while the main domains run. -/
def State.mainBoundary (s : State) : State :=
  let s := (((s.afterWake).trimBoundary).recipeBoundary).preferenceChange
  let s := if s.serving then (tkeys s.vis).foldl (fun s v => s.barrierBoundary v) s else s
  let s := (s.windowBoundary).ageBoundary
  let s := if s.serving then s.refreshBoundary else s
  (((s.portBoundary 0).portBoundary 1).addrBoundary).powerBoundary.clockBoundary

/-- R307 orders 8 to 10, and what firmware does once a beat. Log entry 86 (DEDUCED). -/
def State.firmwareBoundary (s : State) : State :=
  (((((s.pairBoundary).takeovers).checkpoint).heartbeatBoundary).retireBoundary).maintBoundary

/-- R254: by a boundary what a port had taken in has been processed: its headroom is free and XON leaves. Log entry 109 (DESIGN
CHOICE). -/
def State.drainPorts (s : State) : State :=
  s.net.xoffSent.foldl (fun s e => s.pfcOccupancy e.1 e.2 Config.headroomBytes) s

/-- R306, R307: a boundary; in Doze and Deep time goes on (R403), and what counts beats counts. Log entry 86 (DEDUCED). -/
def State.beat (s : State) : State :=
  let b := s.comingBoundary
  let s := { s with now := b }.modTime (fun t => { t with boundary := b })
  let s := s.timeStep.periodChange
  if 1 < s.pwr.state ∨ !s.pins.mainUp then s.preferenceChange.windowBoundary.countBeat
  else
    let s := s.mainBoundary
    let s := if s.serving then s.firmwareBoundary else s
    s.countBeat.drainPorts.pumpAllTiles.wake

/-- BEAT_BOUNDARY (R307): the device acts at the next beat boundary; without VDD_AON there is none.
Log entry 86 (DEDUCED). -/
def execBeatBoundary (s : State) : Host.Outcome State Fault Refusal :=
  .next (if s.pins.vddAon then s.beat else s)

end Sys2Proof.Machine
end

