-- ==== Sys2Proof/Machine/Dispatch.lean ====
section
/-! DEFINITION. The dispatch of the commands: one arm per constructor of Instr, each a direct call of the command's
meaning. -/
namespace Sys2Proof.Machine

def exec (i : Instr) (s : State) : Host.Outcome State Fault Refusal :=
  match i with
  | .viCreate p => Sys2Proof.Machine.execViCreate p s
  | .viClose p => Sys2Proof.Machine.execViClose p s
  | .qCreate p => Sys2Proof.Machine.execQCreate p s
  | .qDestroy p => Sys2Proof.Machine.execQDestroy p s
  | .qDoorbell p => Sys2Proof.Machine.execQDoorbell p s
  | .rcCreate p => Sys2Proof.Machine.execRcCreate p s
  | .rcDestroy p => Sys2Proof.Machine.execRcDestroy p s
  | .regionAdd p => Sys2Proof.Machine.execRegionAdd p s
  | .regionRemove p => Sys2Proof.Machine.execRegionRemove p s
  | .yelmAlloc p => Sys2Proof.Machine.execYelmAlloc p s
  | .partRead p => Sys2Proof.Machine.execPartRead p s
  | .imgLoad p => Sys2Proof.Machine.execImgLoad p s
  | .imgSwap p => Sys2Proof.Machine.execImgSwap p s
  | .imgErase p => Sys2Proof.Machine.execImgErase p s
  | .imgRefresh p => Sys2Proof.Machine.execImgRefresh p s
  | .seqOpen p => Sys2Proof.Machine.execSeqOpen p s
  | .seqStep p => Sys2Proof.Machine.execSeqStep p s
  | .seqFork p => Sys2Proof.Machine.execSeqFork p s
  | .seqClose p => Sys2Proof.Machine.execSeqClose p s
  | .seqQuery p => Sys2Proof.Machine.execSeqQuery p s
  | .kvPin p => Sys2Proof.Machine.execKvPin p s
  | .kvEvict p => Sys2Proof.Machine.execKvEvict p s
  | .kvPrefetch p => Sys2Proof.Machine.execKvPrefetch p s
  | .adpSetCreate p => Sys2Proof.Machine.execAdpSetCreate p s
  | .adpSetXfer p => Sys2Proof.Machine.execAdpSetXfer p s
  | .adpSetClose p => Sys2Proof.Machine.execAdpSetClose p s
  | .adpFwdSave p => Sys2Proof.Machine.execAdpFwdSave p s
  | .adpBwd p => Sys2Proof.Machine.execAdpBwd p s
  | .adpUpdate p => Sys2Proof.Machine.execAdpUpdate p s
  | .tileRead p => Sys2Proof.Machine.execTileRead p s
  | .tileWrite p => Sys2Proof.Machine.execTileWrite p s
  | .recipeSet p => Sys2Proof.Machine.execRecipeSet p s
  | .calRun p => Sys2Proof.Machine.execCalRun p s
  | .calTableRead p => Sys2Proof.Machine.execCalTableRead p s
  | .timeSet p => Sys2Proof.Machine.execTimeSet p s
  | .beatSet p => Sys2Proof.Machine.execBeatSet p s
  | .jrnlAck p => Sys2Proof.Machine.execJrnlAck p s
  | .testPackLoad p => Sys2Proof.Machine.execTestPackLoad p s
  | .testPackRun p => Sys2Proof.Machine.execTestPackRun p s
  | .errDrain p => Sys2Proof.Machine.execErrDrain p s
  | .cperExport p => Sys2Proof.Machine.execCperExport p s
  | .reset p => Sys2Proof.Machine.execReset p s
  | .pairJoin p => Sys2Proof.Machine.execPairJoin p s
  | .pairLeave p => Sys2Proof.Machine.execPairLeave p s
  | .pairTakeover p => Sys2Proof.Machine.execPairTakeover p s
  | .pairUnmirrored p => Sys2Proof.Machine.execPairUnmirrored p s
  | .attestGet p => Sys2Proof.Machine.execAttestGet p s
  | .macsecKey p => Sys2Proof.Machine.execMacsecKey p s
  | .fwUpdate p => Sys2Proof.Machine.execFwUpdate p s
  | .pwrCapSet p => Sys2Proof.Machine.execPwrCapSet p s
  | .thermSet p => Sys2Proof.Machine.execThermSet p s
  | .pwrStateSet p => Sys2Proof.Machine.execPwrStateSet p s
  | .regRead p => Sys2Proof.Machine.execRegRead p s
  | .regWrite p => Sys2Proof.Machine.execRegWrite p s
  | .diagEcho p => Sys2Proof.Machine.execDiagEcho p s
  | .cntClear ts vi yelm value => Sys2Proof.Machine.execCntClear ts vi yelm value s
  | .clrUnit ts vi value => Sys2Proof.Machine.execClrUnit ts vi value s
  | .clrAll ts vi value => Sys2Proof.Machine.execClrAll ts vi value s
  | .flagWindowWrite ts vi value => Sys2Proof.Machine.execFlagWindowWrite ts vi value s
  | .portModeWrite ts vi port value => Sys2Proof.Machine.execPortModeWrite ts vi port value s
  | .calReq ts vi value => Sys2Proof.Machine.execCalReq ts vi value s
  | .seqCfgWrite ts vi entry value => Sys2Proof.Machine.execSeqCfgWrite ts vi entry value s
  | .wakeAtHiWrite ts vi value => Sys2Proof.Machine.execWakeAtHiWrite ts vi value s
  | .svnCommit ts vi value => Sys2Proof.Machine.execSvnCommit ts vi value s
  | .opkeyCommit ts vi value => Sys2Proof.Machine.execOpkeyCommit ts vi value s
  | .opkeyRevoke ts vi value => Sys2Proof.Machine.execOpkeyRevoke ts vi value s
  | .msOff ts vi value => Sys2Proof.Machine.execMsOff ts vi value s
  | .stampLoRead ts vi => Sys2Proof.Machine.execStampLoRead ts vi s
  | .beatNumLoRead ts vi => Sys2Proof.Machine.execBeatNumLoRead ts vi s
  | .energyMjLoRead ts vi => Sys2Proof.Machine.execEnergyMjLoRead ts vi s
  | .txPnLoRead ts vi => Sys2Proof.Machine.execTxPnLoRead ts vi s
  | .idRead r => Sys2Proof.Machine.execIdRead r s
  | .statusRead r => Sys2Proof.Machine.execStatusRead r s
  | .regReadSb r => Sys2Proof.Machine.execRegReadSb r s
  | .vi0AddrWrite r => Sys2Proof.Machine.execVi0AddrWrite r s
  | .vi0AddrRead r => Sys2Proof.Machine.execVi0AddrRead r s
  | .wake r => Sys2Proof.Machine.execWake r s
  | .serviceRestore r => Sys2Proof.Machine.execServiceRestore r s
  | .fwRecoverBegin r => Sys2Proof.Machine.execFwRecoverBegin r s
  | .fwRecoverData r => Sys2Proof.Machine.execFwRecoverData r s
  | .fwRecoverEnd r => Sys2Proof.Machine.execFwRecoverEnd r s
  | .testPortInstruction ts code => Sys2Proof.Machine.execTestPortInstruction ts code s
  | .rxFrame f => Sys2Proof.Machine.execRxFrame f s
  | .pfcFrame ts lp prio xoff => Sys2Proof.Machine.execPfcFrame ts lp prio xoff s
  | .cnp ts vi rc => Sys2Proof.Machine.execCnp ts vi rc s
  | .ccRateIncrease ts vi rc => Sys2Proof.Machine.execCcRateIncrease ts vi rc s
  | .pfcWatchdog ts lp prio => Sys2Proof.Machine.execPfcWatchdog ts lp prio s
  | .neighbourExpiry ts addr => Sys2Proof.Machine.execNeighbourExpiry ts addr s
  | .rdmaResponse ts vi rc r => Sys2Proof.Machine.execRdmaResponse ts vi rc r s
  | .pullFetchResponse ts vi queue lport slots => Sys2Proof.Machine.execPullFetchResponse ts vi queue lport slots s
  | .rcAckTimeout ts vi rc => Sys2Proof.Machine.execRcAckTimeout ts vi rc s
  | .transferTimeout ts vi rc => Sys2Proof.Machine.execTransferTimeout ts vi rc s
  | .linkDown ts lp => Sys2Proof.Machine.execLinkDown ts lp s
  | .linkUp ts lp => Sys2Proof.Machine.execLinkUp ts lp s
  | .wakePacket f => Sys2Proof.Machine.execWakePacket f s
  | .stepAdmit ts => Sys2Proof.Machine.execStepAdmit ts s
  | .waveClose ts vi proj => Sys2Proof.Machine.execWaveClose ts vi proj s
  | .bandReadStart ts yelm array d1 d2 crcOk => Sys2Proof.Machine.execBandReadStart ts yelm array d1 d2 crcOk s
  | .tritCycle ts yelm => Sys2Proof.Machine.execTritCycle ts yelm s
  | .bandReadEnd ts yelm array => Sys2Proof.Machine.execBandReadEnd ts yelm array s
  | .chainHopReceive ts wave slot yelm channel => Sys2Proof.Machine.execChainHopReceive ts wave slot yelm channel s
  | .layerOperationEnd ts wave slot => Sys2Proof.Machine.execLayerOperationEnd ts wave slot s
  | .transposeRead ts yelm array step tok => Sys2Proof.Machine.execTransposeRead ts yelm array step tok s
  | .embed ts step tok => Sys2Proof.Machine.execEmbed ts step tok s
  | .norm ts step tok => Sys2Proof.Machine.execNorm ts step tok s
  | .attn ts step tok => Sys2Proof.Machine.execAttn ts step tok s
  | .act ts step tok => Sys2Proof.Machine.execAct ts step tok s
  | .resid ts step tok => Sys2Proof.Machine.execResid ts step tok s
  | .route ts step tok => Sys2Proof.Machine.execRoute ts step tok s
  | .experts ts step tok => Sys2Proof.Machine.execExperts ts step tok s
  | .head ts step tok => Sys2Proof.Machine.execHead ts step tok s
  | .stepCommit ts step => Sys2Proof.Machine.execStepCommit ts step s
  | .stepEnd ts step => Sys2Proof.Machine.execStepEnd ts step s
  | .completionSend ts vi queue => Sys2Proof.Machine.execCompletionSend ts vi queue s
  | .cplRetry ts vi queue psn => Sys2Proof.Machine.execCplRetry ts vi queue psn s
  | .t1Reclaim ts vi => Sys2Proof.Machine.execT1Reclaim ts vi s
  | .spillComplete ts vi page => Sys2Proof.Machine.execSpillComplete ts vi page s
  | .fetchComplete ts vi page data => Sys2Proof.Machine.execFetchComplete ts vi page data s
  | .imgCheckPassEnd ts vi src => Sys2Proof.Machine.execImgCheckPassEnd ts vi src s
  | .rowProgram ts yelm array attempts ok => Sys2Proof.Machine.execRowProgram ts yelm array attempts ok s
  | .arrayProgrammed ts yelm array => Sys2Proof.Machine.execArrayProgrammed ts yelm array s
  | .arrayEraseDone ts yelm array => Sys2Proof.Machine.execArrayEraseDone ts yelm array s
  | .swapUnitStart ts vi unit => Sys2Proof.Machine.execSwapUnitStart ts vi unit s
  | .refreshSliceEnd ts yelm array bad => Sys2Proof.Machine.execRefreshSliceEnd ts yelm array bad s
  | .spareSwitch ts yelm array => Sys2Proof.Machine.execSpareSwitch ts yelm array s
  | .retireRetry ts yelm array => Sys2Proof.Machine.execRetireRetry ts yelm array s
  | .suspectMarkExpiry ts yelm array => Sys2Proof.Machine.execSuspectMarkExpiry ts yelm array s
  | .eccError ts e => Sys2Proof.Machine.execEccError ts e s
  | .residueFail ts unit place step => Sys2Proof.Machine.execResidueFail ts unit place step s
  | .beatBoundary => Sys2Proof.Machine.execBeatBoundary s
  | .flagWindowEnd ts vi => Sys2Proof.Machine.execFlagWindowEnd ts vi s
  | .heartbeat ts => Sys2Proof.Machine.execHeartbeat ts s
  | .heartbeatLost ts => Sys2Proof.Machine.execHeartbeatLost ts s
  | .resetEnd ts domain target => Sys2Proof.Machine.execResetEnd ts domain target s
  | .replay ts vi => Sys2Proof.Machine.execReplay ts vi s
  | .teardownComplete ts vi => Sys2Proof.Machine.execTeardownComplete ts vi s
  | .rotationPass ts => Sys2Proof.Machine.execRotationPass ts s
  | .yelmCalibrationStart ts yelm => Sys2Proof.Machine.execYelmCalibrationStart ts yelm s
  | .yelmCalibrationEnd ts yelm found => Sys2Proof.Machine.execYelmCalibrationEnd ts yelm found s
  | .calStoreWriteDone ts yelm => Sys2Proof.Machine.execCalStoreWriteDone ts yelm s
  | .testEnd ts pack yelm array result => Sys2Proof.Machine.execTestEnd ts pack yelm array result s
  | .monitorConversion ts entry sub ratios settled => Sys2Proof.Machine.execMonitorConversion ts entry sub ratios settled s
  | .refSettleTimeout ts => Sys2Proof.Machine.execRefSettleTimeout ts s
  | .floorWrite ts => Sys2Proof.Machine.execFloorWrite ts s
  | .thermalSample ts die temp => Sys2Proof.Machine.execThermalSample ts die temp s
  | .governorTick ts rails => Sys2Proof.Machine.execGovernorTick ts rails s
  | .pbrakeAssert ts => Sys2Proof.Machine.execPbrakeAssert ts s
  | .pbrakeRelease ts => Sys2Proof.Machine.execPbrakeRelease ts s
  | .brakeRampTick ts => Sys2Proof.Machine.execBrakeRampTick ts s
  | .wakeL ts => Sys2Proof.Machine.execWakeL ts s
  | .wakeAt ts => Sys2Proof.Machine.execWakeAt ts s
  | .powerStateEntry ts => Sys2Proof.Machine.execPowerStateEntry ts s
  | .powerStateExit ts => Sys2Proof.Machine.execPowerStateExit ts s
  | .powerUp ts pufOk => Sys2Proof.Machine.execPowerUp ts pufOk s
  | .pwrOkRise ts => Sys2Proof.Machine.execPwrOkRise ts s
  | .pwrOkFall ts => Sys2Proof.Machine.execPwrOkFall ts s
  | .sysResetL ts => Sys2Proof.Machine.execSysResetL ts s
  | .refLoss ts ref => Sys2Proof.Machine.execRefLoss ts ref s
  | .refReturn ts ref => Sys2Proof.Machine.execRefReturn ts ref s
  | .sync ts port m => Sys2Proof.Machine.execSync ts port m s
  | .announce ts port a => Sys2Proof.Machine.execAnnounce ts port a s
  | .announceTimeout ts port => Sys2Proof.Machine.execAnnounceTimeout ts port s
  | .trefPps ts phase => Sys2Proof.Machine.execTrefPps ts phase s
  | .ppsTimeout ts => Sys2Proof.Machine.execPpsTimeout ts s
  | .tenMhzLoss ts => Sys2Proof.Machine.execTenMhzLoss ts s
  | .sourceReturnTimer ts => Sys2Proof.Machine.execSourceReturnTimer ts s
  | .mirrorRecord ts vi r => Sys2Proof.Machine.execMirrorRecord ts vi r s
  | .ack ts vi seqno stamp => Sys2Proof.Machine.execAck ts vi seqno stamp s
  | .depose ts vi => Sys2Proof.Machine.execDepose ts vi s
  | .deposed ts vi => Sys2Proof.Machine.execDeposed ts vi s
  | .leave ts vi => Sys2Proof.Machine.execLeave ts vi s
  | .keepalive ts vi => Sys2Proof.Machine.execKeepalive ts vi s
  | .leaseExpiry ts vi => Sys2Proof.Machine.execLeaseExpiry ts vi s
  | .deposeTimeout ts vi => Sys2Proof.Machine.execDeposeTimeout ts vi s
  | .joinTimeout ts vi => Sys2Proof.Machine.execJoinTimeout ts vi s
  | .attestBatchClose ts => Sys2Proof.Machine.execAttestBatchClose ts s
  | .lmsTreeDerived ts => Sys2Proof.Machine.execLmsTreeDerived ts s
  | .powerLoss ts => Sys2Proof.Machine.execPowerLoss ts s
  | .sysResetLRelease ts => Sys2Proof.Machine.execSysResetLRelease ts s
  | .tenMhzLock ts => Sys2Proof.Machine.execTenMhzLock ts s
  | .unknownOpcode p => Sys2Proof.Machine.execUnknownOpcode p s
  | .unknownSidebandCode r code => Sys2Proof.Machine.execUnknownSidebandCode r code s
  | .ptpDelayResponse ts port delay => Sys2Proof.Machine.execPtpDelayResponse ts port delay s
  | .fwSlotWritten ts verified => Sys2Proof.Machine.execFwSlotWritten ts verified s

end Sys2Proof.Machine
end

