-- ==== Sys2Proof/Machine/Step.lean ====
section
/-! DEFINITION. One step of the block: the command at the front of the queue is taken and run; on an empty queue the
block idles (log entry 2). -/
namespace Sys2Proof.Machine

/-- The step: pop the front of the queue and run it on the state with the queue's rest. Log entry 2 (DESIGN CHOICE), 98 (DESIGN
CHOICE). -/
def step (s : State) : Host.Outcome State Fault Refusal :=
  match s.pending with
  | [] => .next s
  | c :: rest => exec c { s with pending := rest }

/-- s with the command that the word spells at the front of its queue; s where it spells none (log entries 1, 5). -/
def State.withFetchWord (s : State) (nbits w : Nat) : State :=
  match decodeTableWord nbits w with
  | none => s
  | some c => { s with pending := c :: s.pending }

end Sys2Proof.Machine
end

