-- ==== Sys2Proof/WellFormed.lean ====
section
/-! DEFINITION. Well-formed commands: operands that can come from outside the package. A command that fails a check here
names something no wire, pin or bus of the device can carry; what the device does with such an operand is the spec's own
check in its meaning. -/
namespace Sys2Proof

/-- R234, R252: PCP and DSCP fit their fields. -/
def RxMeta.wellFormed (r : RxMeta) : Bool := decide (r.pcp.getD 0 < 8) && decide (r.dscp.getD 0 < 64)

/-- R233, R235, R236: a frame's logical port, VLAN ID and UDP ports fit their fields. -/
def Packet.wellFormed (p : Packet) : Bool :=
  decide (p.lport < 8) && decide (p.vlan < 4096) && decide (p.srcPort < 65536) && decide (p.dstPort < 65536) && p.rx.wellFormed

/-- R461: an SMBus block holds at most 255 bytes. -/
def SbRequest.wellFormed (r : SbRequest) : Bool := decide (r.data.length ≤ 255)

/-- R233, R235: the fields of a received frame. -/
def Frame.wellFormed (f : Frame) : Bool :=
  decide (f.lport < 8) && decide (f.vlan < 4096) && f.rx.wellFormed && (f.sloson.map Packet.wellFormed).getD true

def goodVi (v : Nat) : Bool := decide (v < 65536)
def goodYelm (y : Nat) : Bool := decide (y < Config.yelmCount)
def goodArray (y a : Nat) : Bool := goodYelm y && decide (a < Config.arraysPerYelm)

/-- Whether the operands of a command fit what carries them. -/
def Instr.wellFormed : Instr → Bool
  | .viCreate p | .viClose p | .qCreate p | .qDestroy p | .qDoorbell p | .rcCreate p | .rcDestroy p | .regionAdd p
  | .regionRemove p | .yelmAlloc p | .partRead p | .imgLoad p | .imgSwap p | .imgErase p | .imgRefresh p | .seqOpen p
  | .seqStep p | .seqFork p | .seqClose p | .seqQuery p | .kvPin p | .kvEvict p | .kvPrefetch p | .adpSetCreate p
  | .adpSetXfer p | .adpSetClose p | .adpFwdSave p | .adpBwd p | .adpUpdate p | .tileRead p | .tileWrite p | .recipeSet p
  | .calRun p | .calTableRead p | .timeSet p | .beatSet p | .jrnlAck p | .testPackLoad p | .testPackRun p | .errDrain p
  | .cperExport p | .reset p | .pairJoin p | .pairLeave p | .pairTakeover p | .pairUnmirrored p | .attestGet p
  | .macsecKey p | .fwUpdate p | .pwrCapSet p | .thermSet p | .pwrStateSet p | .regRead p | .regWrite p | .diagEcho p
  | .unknownOpcode p => p.wellFormed
  | .idRead r | .statusRead r | .regReadSb r | .vi0AddrWrite r | .vi0AddrRead r | .wake r | .serviceRestore r
  | .fwRecoverBegin r | .fwRecoverData r | .fwRecoverEnd r => r.wellFormed
  | .unknownSidebandCode r code => r.wellFormed && decide (code < 256)
  | .rxFrame f | .wakePacket f => f.wellFormed
  | .cntClear _ v y _ => goodVi v && goodYelm y
  | .clrUnit _ v _ | .clrAll _ v _ | .flagWindowWrite _ v _ | .calReq _ v _ | .wakeAtHiWrite _ v _ | .svnCommit _ v _
  | .opkeyCommit _ v _ | .opkeyRevoke _ v _ | .msOff _ v _ | .stampLoRead _ v | .beatNumLoRead _ v | .energyMjLoRead _ v
  | .txPnLoRead _ v | .waveClose _ v _ | .completionSend _ v _ | .cplRetry _ v _ _ | .t1Reclaim _ v | .spillComplete _ v _
  | .fetchComplete _ v _ _ | .imgCheckPassEnd _ v _ | .swapUnitStart _ v _ | .flagWindowEnd _ v | .replay _ v
  | .teardownComplete _ v | .mirrorRecord _ v _ | .ack _ v _ _ | .depose _ v | .deposed _ v | .leave _ v | .keepalive _ v
  | .leaseExpiry _ v | .deposeTimeout _ v | .joinTimeout _ v | .cnp _ v _ | .ccRateIncrease _ v _ | .rdmaResponse _ v _ _
  | .rcAckTimeout _ v _ | .transferTimeout _ v _ => goodVi v
  | .pullFetchResponse _ v _ lp _ => goodVi v && decide (lp < 8)
  | .portModeWrite _ v p _ => goodVi v && decide (p < 2)
  | .seqCfgWrite _ v e _ => goodVi v && decide (e < 32)
  | .pfcFrame _ lp prio _ | .pfcWatchdog _ lp prio => decide (lp < 8) && decide (prio < 8)
  | .linkDown _ lp | .linkUp _ lp => decide (lp < 8)
  | .bandReadStart _ y a _ _ _ | .bandReadEnd _ y a | .transposeRead _ y a _ _ | .rowProgram _ y a _ _
  | .arrayProgrammed _ y a | .arrayEraseDone _ y a | .refreshSliceEnd _ y a _ | .spareSwitch _ y a | .retireRetry _ y a
  | .suspectMarkExpiry _ y a => goodArray y a
  | .tritCycle _ y | .chainHopReceive _ _ _ y _ | .yelmCalibrationStart _ y | .yelmCalibrationEnd _ y _
  | .calStoreWriteDone _ y | .testEnd _ _ y _ _ => goodYelm y
  | .monitorConversion _ e _ _ _ => decide (e < 32)
  | .thermalSample _ d _ => decide (d < Config.dieCount)
  | .governorTick _ rails => decide (rails.length = 9)
  | .refLoss _ r | .refReturn _ r => decide (r < 3)
  | .sync _ p _ | .announce _ p _ | .announceTimeout _ p | .ptpDelayResponse _ p _ => decide (p < 2)
  | .trefPps _ phase => decide (phase < 1000000000)
  | .resetEnd _ d _ => decide (d < 6)
  | .testPortInstruction _ _ | .neighbourExpiry _ _ | .stepAdmit _ | .layerOperationEnd _ _ _ | .embed _ _ _ | .norm _ _ _
  | .attn _ _ _ | .act _ _ _ | .resid _ _ _ | .route _ _ _ | .experts _ _ _ | .head _ _ _ | .stepCommit _ _ | .stepEnd _ _
  | .eccError _ _ | .residueFail _ _ _ _ | .beatBoundary | .heartbeat _ | .heartbeatLost _ | .rotationPass _
  | .refSettleTimeout _ | .floorWrite _ | .pbrakeAssert _ | .pbrakeRelease _ | .brakeRampTick _ | .wakeL _ | .wakeAt _
  | .powerStateEntry _ | .powerStateExit _ | .powerUp _ _ | .pwrOkRise _ | .pwrOkFall _ | .sysResetL _ | .ppsTimeout _
  | .tenMhzLoss _ | .tenMhzLock _ | .sourceReturnTimer _ | .attestBatchClose _ | .lmsTreeDerived _ | .powerLoss _
  | .sysResetLRelease _ | .fwSlotWritten _ _ => true

/-- The stamp a command carries: the time of the packet, of the SMBus transaction or of the event; BEAT_BOUNDARY carries
none, since it happens at the boundary that comes (R307). -/
def Instr.stamp? : Instr → Option Stamp
  | .viCreate p | .viClose p | .qCreate p | .qDestroy p | .qDoorbell p | .rcCreate p | .rcDestroy p | .regionAdd p
  | .regionRemove p | .yelmAlloc p | .partRead p | .imgLoad p | .imgSwap p | .imgErase p | .imgRefresh p | .seqOpen p
  | .seqStep p | .seqFork p | .seqClose p | .seqQuery p | .kvPin p | .kvEvict p | .kvPrefetch p | .adpSetCreate p
  | .adpSetXfer p | .adpSetClose p | .adpFwdSave p | .adpBwd p | .adpUpdate p | .tileRead p | .tileWrite p | .recipeSet p
  | .calRun p | .calTableRead p | .timeSet p | .beatSet p | .jrnlAck p | .testPackLoad p | .testPackRun p | .errDrain p
  | .cperExport p | .reset p | .pairJoin p | .pairLeave p | .pairTakeover p | .pairUnmirrored p | .attestGet p
  | .macsecKey p | .fwUpdate p | .pwrCapSet p | .thermSet p | .pwrStateSet p | .regRead p | .regWrite p | .diagEcho p
  | .unknownOpcode p => some p.ts
  | .idRead r | .statusRead r | .regReadSb r | .vi0AddrWrite r | .vi0AddrRead r | .wake r | .serviceRestore r
  | .fwRecoverBegin r | .fwRecoverData r | .fwRecoverEnd r | .unknownSidebandCode r _ => some r.ts
  | .rxFrame f | .wakePacket f => some f.ts
  | .cntClear t _ _ _ | .clrUnit t _ _ | .clrAll t _ _ | .flagWindowWrite t _ _ | .calReq t _ _ | .wakeAtHiWrite t _ _
  | .svnCommit t _ _ | .opkeyCommit t _ _ | .opkeyRevoke t _ _ | .msOff t _ _ | .stampLoRead t _ | .beatNumLoRead t _
  | .energyMjLoRead t _ | .txPnLoRead t _ | .waveClose t _ _ | .completionSend t _ _ | .cplRetry t _ _ _ | .t1Reclaim t _
  | .spillComplete t _ _ | .fetchComplete t _ _ _ | .imgCheckPassEnd t _ _ | .swapUnitStart t _ _ | .flagWindowEnd t _
  | .replay t _ | .teardownComplete t _ | .mirrorRecord t _ _ | .ack t _ _ _ | .depose t _ | .deposed t _ | .leave t _
  | .keepalive t _ | .leaseExpiry t _ | .deposeTimeout t _ | .joinTimeout t _ | .cnp t _ _ | .ccRateIncrease t _ _
  | .rdmaResponse t _ _ _ | .rcAckTimeout t _ _ | .transferTimeout t _ _ | .pullFetchResponse t _ _ _ _
  | .portModeWrite t _ _ _ | .seqCfgWrite t _ _ _ | .pfcFrame t _ _ _ | .pfcWatchdog t _ _ | .linkDown t _ | .linkUp t _
  | .bandReadStart t _ _ _ _ _ | .bandReadEnd t _ _ | .transposeRead t _ _ _ _ | .rowProgram t _ _ _ _
  | .arrayProgrammed t _ _ | .arrayEraseDone t _ _ | .refreshSliceEnd t _ _ _ | .spareSwitch t _ _ | .retireRetry t _ _
  | .suspectMarkExpiry t _ _ | .tritCycle t _ | .chainHopReceive t _ _ _ _ | .yelmCalibrationStart t _
  | .yelmCalibrationEnd t _ _ | .calStoreWriteDone t _ | .testEnd t _ _ _ _ | .monitorConversion t _ _ _ _
  | .thermalSample t _ _ | .governorTick t _ | .refLoss t _ | .refReturn t _ | .sync t _ _ | .announce t _ _
  | .announceTimeout t _ | .ptpDelayResponse t _ _ | .trefPps t _ | .resetEnd t _ _ | .testPortInstruction t _
  | .neighbourExpiry t _ | .stepAdmit t | .layerOperationEnd t _ _ | .embed t _ _ | .norm t _ _ | .attn t _ _ | .act t _ _
  | .resid t _ _ | .route t _ _ | .experts t _ _ | .head t _ _ | .stepCommit t _ | .stepEnd t _ | .eccError t _
  | .residueFail t _ _ _ | .heartbeat t | .heartbeatLost t | .rotationPass t | .refSettleTimeout t | .floorWrite t
  | .pbrakeAssert t | .pbrakeRelease t | .brakeRampTick t | .wakeL t | .wakeAt t | .powerStateEntry t | .powerStateExit t
  | .powerUp t _ | .pwrOkRise t | .pwrOkFall t | .sysResetL t | .ppsTimeout t | .tenMhzLoss t | .tenMhzLock t
  | .sourceReturnTimer t | .attestBatchClose t | .lmsTreeDerived t | .powerLoss t | .sysResetLRelease t
  | .fwSlotWritten t _ => some t
  | .beatBoundary => none

end Sys2Proof
end

