-- ==== Sys2Proof/Safety.lean ====
section
/-! DEFINITION. The terms in which statements are made: when a Sloson request reaches its command's effect, the state it is
journaled in, when a sideband command is carried out, and what every step keeps. -/
namespace Sys2Proof.Machine

/-! ### Accepted requests (R264–R268, R310) -/

/-- R234, R256, R266: the device serves and the request has come in through its port, or by RDMA. -/
def State.comesIn (s : State) (p : Packet) : Bool := ((s.upto p.ts).enter p).1

/-- R254, R256: the state in which a request has come in. -/
def State.entered (s : State) (p : Packet) : State := ((s.upto p.ts).enter p).2

/-- The state in which the checks 1 to 13 of R266 have passed a request. -/
def State.arrived (s : State) (p : Packet) (v : Nat) : State := ((s.entered p).takeTicket p).noteRequest v p

/-- R266, R312: the device serves, the request carries the opcode, comes in, passes checks 1 to 13 as one of VI v, and its entry
fits in the journal. -/
def State.admits (s : State) (p : Packet) (op v : Nat) : Bool :=
  pOpcode p == op && s.comesIn p && (s.entered p).check p == .pass v &&
    ((s.arrived p v).vi? v).any (fun x => thas x.queues (pQueue p) && x.fits (entrySize (pOpcode p) p))

/-- R310: the place that a request of VI v takes in its journal. -/
def State.place (s : State) (p : Packet) (v : Nat) : Nat := (((s.arrived p v).vi? v).map (fun x => x.jrnl.next)).getD 0

/-- R266, R310, R271: the state in which an accepted request has been journaled, and ACCEPTED sent where it has two phases: the
one its effect acts on. -/
def State.opened (s : State) (p : Packet) (v : Nat) : State :=
  match (s.arrived p v).vi? v with
  | none => s
  | some x =>
    match tget x.queues (pQueue p) with
    | none => s
    | some q =>
      let r := ((s.arrived p v).noteHost (pOpcode p)).journal v x p q
      if opTwoPhase (pOpcode p) then r.1.sendAccepted v r.2 p else r.1

/-- The command as its effect sees it. -/
def State.command (s : State) (p : Packet) (v : Nat) : Cmd := { cmdOfPacket v p with entry := s.place p v }

/-- R271: an accepted request answered at once with a status and a reply payload, in a state that its effect has made. -/
def State.completes (s : State) (p : Packet) (v : Nat) (t : State) (status : Nat) (pay : List Byte) : State :=
  t.outcome v (s.place p v) status pay

/-- R268: as `admits`, of a request that is never journaled. -/
def State.admitsDirect (s : State) (p : Packet) (op v : Nat) : Bool :=
  pOpcode p == op && s.comesIn p && (s.entered p).check p == .pass v

/-- R268: the state in which a request that is never journaled acts. -/
def State.openedDirect (s : State) (p : Packet) (v : Nat) : State :=
  ((((s.entered p).noteHost (pOpcode p)).takeTicket p).noteRequest v p).modVi v (fun x => { x with ctr := { x.ctr with rx := bump x.ctr.rx } })

/-- The opcode of every request that names a command (R274), with its command. -/
def requestRows : List (Nat × (Packet → Instr)) :=
  [(0x0101, .viCreate), (0x0102, .viClose), (0x0103, .qCreate), (0x0104, .qDestroy), (0x0105, .qDoorbell),
   (0x0106, .rcCreate), (0x0107, .rcDestroy), (0x0108, .regionAdd), (0x0109, .regionRemove), (0x0201, .yelmAlloc),
   (0x0202, .partRead), (0x0301, .imgLoad), (0x0302, .imgSwap), (0x0303, .imgErase), (0x0304, .imgRefresh),
   (0x0401, .seqOpen), (0x0402, .seqStep), (0x0403, .seqFork), (0x0404, .seqClose), (0x0405, .seqQuery),
   (0x0501, .kvPin), (0x0502, .kvEvict), (0x0503, .kvPrefetch), (0x0601, .adpSetCreate), (0x0602, .adpSetXfer),
   (0x0603, .adpSetClose), (0x0604, .adpFwdSave), (0x0605, .adpBwd), (0x0606, .adpUpdate), (0x0701, .tileRead),
   (0x0702, .tileWrite), (0x0801, .recipeSet), (0x0802, .calRun), (0x0803, .calTableRead), (0x0901, .timeSet),
   (0x0902, .beatSet), (0x0903, .jrnlAck), (0x0A01, .testPackLoad), (0x0A02, .testPackRun), (0x0A03, .errDrain),
   (0x0A04, .cperExport), (0x0A05, .reset), (0x0B01, .pairJoin), (0x0B02, .pairLeave), (0x0B03, .pairTakeover),
   (0x0B04, .pairUnmirrored), (0x0C01, .attestGet), (0x0C02, .macsecKey), (0x0C03, .fwUpdate), (0x0D01, .pwrCapSet),
   (0x0D02, .thermSet), (0x0D03, .pwrStateSet), (0x0E01, .regRead), (0x0E02, .regWrite), (0x0E03, .diagEcho)]

/-! ### Sideband commands (R461–R463) -/

/-- The sideband commands (R462): what their data may be, and whether they act while the device is in a reset (R463). -/
def sidebandRows : List ((SbRequest → Instr) × (List Byte → Bool) × Bool) :=
  [(.idRead, noBytes, true), (.statusRead, noBytes, true), (.regReadSb, fun d => d.length == 5, true),
   (.vi0AddrWrite, fun d => d.length == 48, false), (.vi0AddrRead, noBytes, false), (.wake, noBytes, true),
   (.serviceRestore, noBytes, true), (.fwRecoverBegin, fun d => d.length == 4, false),
   (.fwRecoverData, fun d => decide (5 ≤ d.length) && decide (d.length ≤ 244), false), (.fwRecoverEnd, noBytes, false)]

/-- R461, R463: an SMBus transaction with a right PEC and a right length, carried out and not put off. -/
def State.sidebandRuns (s : State) (r : SbRequest) (len : List Byte → Bool) (exempt : Bool) : Bool :=
  s.pins.vddAon && r.pecOk && len r.data && (exempt || !(s.upto r.ts).sbWaits)

/-! ### What every step keeps -/

/-- The queue of waiting commands is `q`, the time of record has reached `n` (R302: it never steps backward), MIN_SVN has
reached `m` (R430: it never falls), and the HBM bytes are in their canonical form (log entry 9). -/
structure Keeps (q : List Instr) (n m : Nat) (s : State) : Prop where
  queue : s.pending = q
  now : n ≤ s.now
  svn : m ≤ s.sec.minSvn
  mem : memWf s.hbm = true

end Sys2Proof.Machine
end

