-- ==== Sys2Proof/Certificates/Slice0/Obligations.lean ====
section
/-! DEFINITION. The statements about the block: what each command does (completion, result and frame in one: the next state is
given whole wherever the rules give it), and what every step keeps. -/

open Sys2Proof Sys2Proof.Machine

/-- VI_CREATE, VI_CLOSE, YELM_ALLOC, PART_READ and TEARDOWN_COMPLETE complete with their own effect (R240, R242, R277,
R278, R347, R348). -/
def Obligations.ViCommands : Prop :=
  (∀ (s : State) (p : Packet) (v : Nat), s.admits p 0x0101 v = true →
    let o := s.opened p v
    let a := addrAt (pPay p) 0
    let n := partVi (pPay p) 48
    let r := partEffective (partAt (pPay p) 48)
    let x := Vi.fresh a r 1
    1 ≤ n → n ≤ 255 → thas o.vis n = false → addrFinding o a = false → partFinding o n (partAt (pPay p) 48) = none →
    exec (.viCreate p) s = .next (s.completes p v
      { o with
        vis := tset o.vis n { x with prec := match o.time.series with
          | none => x.prec
          | some k => { x.prec with started := true, beat := k % max 1 x.prec.window } }
        free := tdel o.free n
        store := { o.store with viTags := tset o.store.viTags n (max 1 (o.viTag n)), q0Tags := tset o.store.q0Tags n 1 } }
      stOk (le 2 n ++ le 2 (max 1 (o.viTag n)) ++ le 2 1 ++ zeros 2 ++ addrBytes a ++ partBytes n r))) ∧
  (∀ (s : State) (p : Packet) (v : Nat) (x : Vi), s.admits p 0x0201 v = true →
    let o := s.opened p v
    let n := partVi (pPay p) 0
    let r := partEffective (partAt (pPay p) 0)
    o.vi? n = some x → n ≠ 0 → x.closing = none → partFinding o n (partAt (pPay p) 0) = none → allocFinding x r = false →
    exec (.yelmAlloc p) s = .next (s.completes p v
      ((o.eraseCourses (x.part.courses.filter (fun k => !r.courses.contains k))).modVi n (fun x =>
        { x with part := r, kv := (o.eraseCourses (x.part.courses.filter (fun k => !r.courses.contains k))).resizeT1 n x.kv r.t1Mib })) stOk (partBytes n r))) ∧
  (∀ (s : State) (p : Packet) (v : Nat) (x : Vi), s.admits p 0x0202 v = true →
    (s.opened p v).vi? (leAt (pPay p) 0 2) = some x →
    exec (.partRead p) s = .next (s.completes p v (s.opened p v) stOk (partBytes (leAt (pPay p) 0 2) x.part))) ∧
  (∀ (s : State) (p : Packet) (v : Nat) (x : Vi), s.admits p 0x0102 v = true →
    let n := leAt (pPay p) 0 2
    (s.opened p v).vi? n = some x → n ≠ 0 → x.closing = none → (s.opened p v).inReset n = false →
    exec (.viClose p) s = .next ((s.opened p v).startClose n (s.place p v))) ∧
  (∀ (s : State) (ts v : Nat) (x : Vi) (t : Teardown), s.vi? v = some x → x.closing = some t →
    s.steps.any (fun e => e.2.vi == v) = false → x.conns.any (fun c => !c.2.out.isEmpty) = false →
    exec (.teardownComplete ts v) s = .next (((s.upto ts).removeVi v).outcome 0 t.entry stOk
      (le 2 v ++ zeros 2 ++ le 4 t.steps ++ le 4 t.xfers)))

/-- RC_CREATE, RC_DESTROY, REGION_ADD and REGION_REMOVE complete with their own effect (R245, R246, R247, R277). -/
def Obligations.ConnectionCommands : Prop :=
  (∀ (s : State) (p : Packet) (v : Nat) (x : Vi), s.admits p 0x0106 v = true →
    let o := s.opened p v
    let c : Nat → Nat := fun i => leAt (pPay p) i 1
    let rc := tpick x.conns (Config.rcStart o.draws) Config.rcPerVi
    o.vi? v = some x → (o.portsOf x.addr).contains (c 0) = true → x.conns.length < Config.rcPerVi →
    sumNat (o.vis.map (fun e => e.2.conns.length)) < Config.rcPerDevice →
    exec (.rcCreate p) s = .next (s.completes p v
      ((({ o with draws := o.draws + 1 } : State).modVi v (fun x => { x with conns := (tset x.conns rc
        { lport := c 0, pmtu := clampN (c 1) 10 12, ackExp := clampN (c 2) 10 20, retry := min (c 3) 7, prio := min (c 4) 7,
          hostIp := BitVec.ofNat 128 (beAt (pPay p) 8 16), hostQpn := leAt (pPay p) 24 4, hostPsn := leAt (pPay p) 28 4,
          devQpn := Config.devQpn o.draws, devPsn := Config.devPsn o.draws, error := false, tries := 0, failSince := none,
          rate := o.lineRate (c 0), lastCnp := none, lastRaise := o.now, lastCut := none, cnpSent := none, rnr := 0, out := [] }) })).pairReturns
        v rc) stOk
      (le 2 rc ++ zeros 2 ++ le 4 (Config.devQpn o.draws).toNat ++ le 4 (Config.devPsn o.draws).toNat ++
        (le 1 (c 0) ++ le 1 (clampN (c 1) 10 12) ++ le 1 (clampN (c 2) 10 20) ++ le 1 (min (c 3) 7) ++ le 1 (min (c 4) 7) ++
          zeros 3)))) ∧
  (∀ (s : State) (p : Packet) (v : Nat) (x : Vi), s.admits p 0x0107 v = true →
    let o := s.opened p v
    let rc := leAt (pPay p) 0 2
    o.vi? v = some x → thas x.conns rc = true → x.regions.any (fun r => r.2.rc == rc) = false →
    exec (.rcDestroy p) s = .next (s.completes p v (o.modVi v (fun x => { x with
      conns := tdel x.conns rc, pair := { x.pair with former := if x.pair.former = some rc then none else x.pair.former } }))
      stOk (le 2 rc ++ zeros 2))) ∧
  (∀ (s : State) (p : Packet) (v : Nat) (x : Vi), s.admits p 0x0108 v = true →
    let o := s.opened p v
    let use := leAt (pPay p) 2 1
    let grid := if use = 1 then 67108864 else 4096
    let len := leAt (pPay p) 16 8 / grid * grid
    let r := tpick x.regions (Config.regionStart o.draws) Config.regionsPerVi
    o.vi? v = some x → thas x.conns (leAt (pPay p) 0 2) = true → use ≤ 4 → x.regions.length < Config.regionsPerVi →
    (use = 1 → x.remoteBytes + len ≤ x.part.remote * 1048576) →
    exec (.regionAdd p) s = .next (s.completes p v (({ o with draws := o.draws + 1 } : State).modVi v (fun x => { x with
      regions := tset x.regions r ⟨leAt (pPay p) 0 2, use, leAt (pPay p) 4 4, leAt (pPay p) 8 8, len⟩
      kv := { x.kv with t2 := if use = 1 then tset x.kv.t2 r (Arena.ofBytes len) else x.kv.t2 } }))
      stOk (le 4 r ++ zeros 4 ++ le 8 len))) ∧
  (∀ (s : State) (p : Packet) (v : Nat) (x : Vi), s.admits p 0x0109 v = true →
    let o := s.opened p v
    let r := leAt (pPay p) 0 4
    o.vi? v = some x → thas x.regions r = true → x.regionHeld r = false →
    exec (.regionRemove p) s = .next (s.completes p v (o.modVi v (fun x => { x with
      regions := tdel x.regions r, kv := { x.kv with t2 := tdel x.kv.t2 r } })) stOk (le 4 r)))

/-- Q_CREATE, Q_DESTROY, Q_DOORBELL and JRNL_ACK complete with their own effect (R247, R248, R249, R251, R272, R289,
R313). -/
def Obligations.QueueCommands : Prop :=
  (∀ (s : State) (p : Packet) (v : Nat) (x : Vi), s.admits p 0x0103 v = true →
    let o := s.opened p v
    let n := leAt (pPay p) 0 2
    let q := queueAt x (pPay p)
    o.vi? v = some x → n < x.part.queues → thas x.queues n = false → x.queues.length < x.part.queues → queueRefs x q = true →
    exec (.qCreate p) s = .next (s.completes p v
      ((o.modVi v (fun x => { x with queues := tset x.queues n q, jrnl := x.jrnl.without n })).emit v none false (.queue (queueBytes n q) 1 none [])) stOk
      (le 2 n ++ le 2 1 ++ queueBytes n q))) ∧
  (∀ (s : State) (p : Packet) (v : Nat) (x : Vi), s.admits p 0x0104 v = true →
    let o := s.opened p v
    let q := leAt (pPay p) 0 2
    let r := o.abandonSteps (fun _ t => t.vi == v && t.queue == q && t.entry.isSome && !t.ending)
    o.vi? v = some x → thas x.queues q = true → q ≠ 0 → q ≠ pQueue p →
    exec (.qDestroy p) s = .next
      ((((x.entriesOf q).foldl (fun s e => s.retire v e) r.1).modVi v (fun y => { y.modQueue q (fun u => { u with destroying := true })
        with ends := y.ends ++ [⟨s.place p v, r.2, none, some q, (x.entriesOf q).length⟩] })).endWaits v)) ∧
  (∀ (s : State) (p : Packet) (v : Nat) (x : Vi) (q : Queue), s.admitsDirect p 0x0105 v = true →
    let o := s.openedDirect p v
    let t := bellTail q (leAt (pPay p) 0 4)
    let base := ((tget x.regions q.sqRegion).map Region.addr).getD 0
    let o' := o.modVi v (fun x => x.modQueue (pQueue p) (fun q =>
      { q with cqHead := leAt (pPay p) 4 4, sqTail := if q.pull && o.connOk v q.rc then t else q.sqTail }))
    o.vi? v = some x → tget x.queues (pQueue p) = some q →
    exec (.qDoorbell p) s = .next ((if q.pull && o'.connOk v q.rc then
        o'.fetchSlots v (pQueue p) q base q.sqTail ((t + 2 ^ 32 - q.sqTail) % 2 ^ 32) 1026 else o').sendHeld v (pQueue p) 1024)) ∧
  (∀ (s : State) (p : Packet) (v : Nat) (x : Vi), s.admitsDirect p 0x0903 v = true →
    let o := s.openedDirect p v
    let q := leAt (pPay p) 0 2
    let covers : Entry → Bool := fun e => (q == 0xFFFF || e.queue == q) && e.state == .sent && decide (e.cplStamp ≤ leAt (pPay p) 4 8)
    o.vi? v = some x → (q = 0xFFFF ∨ thas x.queues q = true) →
    exec (.jrnlAck p) s = .next (((x.jrnl.entries.filter (fun e => covers e.2)).foldl
      (fun s e => s.emit v none true (.retireOne e.2.queue e.2.psn)) o).modVi v (fun x => x.modJrnl (fun j =>
        ({ j with entries := tmapv j.entries (fun _ e => if covers e then { e with state := .retired } else e) } : Journal).reclaim))))

/-- PULL_FETCH_RESPONSE, COMPLETION_SEND and CPL_RETRY complete with their own effect (R249, R250, R251, R264, R271,
R272). -/
def Obligations.CompletionEvents : Prop :=
  (∀ (s : State) (ts v n : Nat) (slots : List (List Byte)) (x : Vi) (q : Queue) (c : Conn) (t : Xfer), s.vi? v = some x →
    tget x.queues n = some q → tget x.conns q.rc = some c → x.pullXfer q.rc n = some t →
    (s.upto ts).xferCurrent v x n t = true →
    let k := t.len / 2 ^ q.slotLog2
    let got := (List.range k).map (fun i => (max s.now ts, bytesAt (slots.getD i []) 0 (2 ^ q.slotLog2)))
    exec (.pullFetchResponse ts v n c.lport slots) s = .next (takeSlots (((s.upto ts).popXfer v q.rc t).modVi v (fun x =>
      x.modQueue n (fun u => { u with fetched := u.fetched ++ got.drop u.skip, skip := u.skip - k }))) v n c.lport
      (k + q.fetched.length + 1))) ∧
  (∀ (s : State) (ts v n id : Nat) (x : Vi) (q : Queue) (e : Entry), (s.upto ts).serving = true → s.vi? v = some x →
    tget x.queues n = some q → x.nextToSend n = some (id, e) →
    let o := s.upto ts
    let b := completionBytes v x q e o.now
    let dest := replyTo (some q) e.req
    let o' := o.modVi v (fun x => noteSeqCpl (x.modEntry id (markSent o.now b)) e o.now)
    exec (.completionSend ts v n) s = .next (
      if q.rdma then
        if ringRoom q < ceilDiv b.length (2 ^ q.slotLog2) then o.holdFor v n id
        else ((o'.ringWrite v n id x q b).sentEffects v e).retireReset v id e
      else ((o'.send v dest.1 dest.2 (o.prioOf q.cls) b).sentEffects v e).retireReset v id e)) ∧
  (∀ (s : State) (ts v n psn id : Nat) (x : Vi) (q : Queue) (e : Entry) (b : List Byte), (s.upto ts).serving = true →
    s.vi? v = some x → tget x.queues n = some q → q.rdma = false → e.sent = some b →
    x.jrnl.entries.find? (fun e => e.2.queue == n && e.2.psn == psn && e.2.state == .sent) = some (id, e) →
    s.net.cplRetry ≤ e.beats → 1 ≤ e.series → e.series ≤ 8 →
    let o := s.upto ts
    exec (.cplRetry ts v n psn) s = .next (
      if e.series = 8 then
        (o.modEntry v id (fun e => { e with series := 9 })).report { recOf 0x0404 1 v o.now with queue := n, psn := psn, detail := le 1 8 }
      else ((o.modVi v (fun x => { x.modEntry id (fun e => { e with series := e.series + 1, beats := 0, retx := min (e.retx + 1) 255 }) with
        ctr := { x.ctr with cplRetx := bump x.ctr.cplRetx } })).send v (replyTo (some q) e.req).1 (replyTo (some q) e.req).2
        (o.prioOf q.cls) b)))

/-- TIME_SET, BEAT_SET and the latching reads STAMP_LO_READ and BEAT_NUM_LO_READ complete with their own effect (R289,
R300, R305, R308, R319). -/
def Obligations.TimeCommands : Prop :=
  (∀ (s : State) (p : Packet) (v : Nat), s.admits p 0x0901 v = true →
    let o := s.opened p v
    let src := leAt (pPay p) 0 1
    let r := srcOf o.time src
    src ≤ 3 →
    exec (.timeSet p) s = .next (s.completes p v { o with time := { o.time with
        srcEn := if src = 3 then o.time.srcEn else o.time.srcEn ||| 2 ^ src
        pendPref := some (src, o.nextBoundary)
        ppsExpected := if src = 2 then (if leAt (pPay p) 4 8 = 0 then none else some (leAt (pPay p) 4 8)) else o.time.ppsExpected } }
      stOk (le 1 src ++ le 1 (b2n (src != 3 && r.locked && decide (r.offset.natAbs ≤ 1000))) ++ zeros 2 ++ le 8 o.nextBoundary))) ∧
  (∀ (s : State) (p : Packet) (v : Nat), s.admits p 0x0902 v = true →
    let o := s.opened p v
    let n := min (leAt (pPay p) 0 1) 10
    exec (.beatSet p) s = .next (s.completes p v
      { o with time := { o.time with pendBeat := o.time.pendBeat ++ [(beatFrom o n, n)] } } stOk
      (le 1 n ++ zeros 3 ++ le 8 (beatFrom o n))) ∧
    o.now < beatFrom o n ∧ (∀ e ∈ o.time.pendBeat.getLast?, e.1 ≤ beatFrom o n) ∧
    (125000 * 2 ^ n) ∣ beatFrom o n ∧
    (125000 * 2 ^ ((o.time.pendBeat.getLast?.map Prod.snd).getD o.time.beatLog2)) ∣ beatFrom o n) ∧
  (∀ (s : State) (ts v : Nat), s.gated 2 = false →
    exec (.stampLoRead ts v) s = .next ((s.upto ts).modVi v (fun x => { x with sel := { x.sel with
      stampHi := some (hi32 (max s.now ts)) } }))) ∧
  (∀ (s : State) (ts v : Nat), s.gated 2 = false →
    exec (.beatNumLoRead ts v) s = .next ((s.upto ts).modVi v (fun x => { x with sel := { x.sel with
      beatHi := some (hi32 (max s.now ts / (125000 * 2 ^ s.time.beatLog2))) } })))

/-- SYNC, ANNOUNCE, ANNOUNCE_TIMEOUT and PTP_DELAY_RESPONSE complete with their own effect (R298, R299, R300, R302). -/
def Obligations.PtpEvents : Prop :=
  (∀ (s : State) (ts i : Nat) (m : SyncMsg), i < 2 → bitOf s.time.srcEn i = true → (srcOf s.time i).master.isSome = true →
    7812500 ≤ m.intervalNs → m.intervalNs ≤ 1000000000 → s.ptpReach i = true →
    let r := srcOf s.time i
    let run := m.offset :: r.run.take 7
    let o := (s.upto ts).modTime (fun t => t.modSrc i (fun r => { r with offset := m.offset, run := run }))
    exec (.sync ts i m) s = .next
      ((((if r.locked = false ∧ steady run 8 1000 = true then o.sourceLocks i else o).modTime (fun t => correct t i)).noteTraced).ptpRequest
        i)) ∧
  (∀ (s : State) (ts i : Nat) (a : AnnounceMsg), i < 2 → bitOf s.time.srcEn i = true → a.domain = s.time.domain → s.ptpReach i = true →
    let ms := a :: (srcOf s.time i).masters.filter (fun m => senderOf m != senderOf a)
    ∃ t, exec (.announce ts i a) s = .next { s.upto ts with time := t } ∧
      (i < s.time.srcs.length → (srcOf t i).masters = ms ∧ (srcOf t i).master = bestBy betterMaster ms) ∧
      (∀ j, j ≠ i → srcOf t j = srcOf s.time j) ∧
      t.utcOffset = (if s.time.active = i ∧ (bestBy betterMaster ms).map senderOf = some (senderOf a)
        then a.utcOffset else s.time.utcOffset)) ∧
  (∀ (s : State) (ts i t0 : Nat) (m : AnnounceMsg), i < 2 → (srcOf s.time i).master = some m →
    (srcOf s.time i).lastSeen = some t0 → t0 + 3 * m.intervalNs ≤ max s.now ts →
    exec (.announceTimeout ts i) s = .next (((s.upto ts).sourceLost i).modTime (fun t => t.modSrc i (fun r =>
      let ms := r.masters.filter (fun x => senderOf x != senderOf m)
      { r with masters := ms, master := bestBy betterMaster ms, lastSeen := none })))) ∧
  (∀ (s : State) (ts i d : Nat), i < 2 → bitOf s.time.srcEn i = true →
    exec (.ptpDelayResponse ts i d) s = .next ((s.upto ts).modTime (fun t => t.modSrc i (fun r => { r with pathDelay := d }))))

/-- TREF_PPS, PPS_TIMEOUT, TEN_MHZ_LOSS, TEN_MHZ_LOCK, SOURCE_RETURN_TIMER and FLOOR_WRITE complete with their own effect
(R298, R300, R302, R303, R459). -/
def Obligations.TimeSourceEvents : Prop :=
  (∀ (s : State) (ts ph : Nat), bitOf s.time.srcEn 2 = true →
    let o := s.upto ts
    let r := srcOf s.time 2
    let off : Int := (edgeStamp s.time o.now : Int) - o.now
    let near := ∃ l ∈ r.lastSeen, o.now ≤ l + 1000000100 ∧ l + 1000000000 ≤ o.now + 100
    ∀ run : List Int, ((5 ≤ ph ∧ ph ≤ 95) → near → run = off :: r.run.take 3) → (¬ ((5 ≤ ph ∧ ph ≤ 95) ∧ near) → run = []) →
    let o' := o.modTime (fun t => { t.modSrc 2 (fun r => { r with offset := off, run := run, lastSeen := some o.now }) with
      ppsExpected := t.ppsExpected.map (· + 1) })
    exec (.trefPps ts ph) s = .next
      (((if r.locked = false ∧ s.time.tenMhz = true ∧ 4 ≤ run.length then o'.sourceLocks 2 else o').modTime
        (fun t => correct t 2)).noteTraced)) ∧
  (∀ (s : State) (ts : Nat), (∀ l ∈ (srcOf s.time 2).lastSeen, l + 1500000000 ≤ max s.now ts) →
    exec (.ppsTimeout ts) s = .next ((s.upto ts).sourceLost 2)) ∧
  (∀ (s : State) (ts : Nat), exec (.tenMhzLoss ts) s = .next (((s.upto ts).sourceLost 2).modTime (fun t => { t with tenMhz := false }))) ∧
  (∀ (s : State) (ts : Nat),
    let o := (s.upto ts).modTime (fun t => { t with tenMhz := true })
    exec (.tenMhzLock ts) s = .next
      (if (srcOf s.time 2).locked = false ∧ bitOf s.time.srcEn 2 = true ∧ 4 ≤ (srcOf s.time 2).run.length
        then ((o.sourceLocks 2).modTime (fun t => correct t 2)).noteTraced else o)) ∧
  (∀ (s : State) (ts : Nat), s.time.active ≠ s.time.pref → s.time.pref < 3 → usable s.time s.time.pref = true →
    (srcOf s.time s.time.pref).lockStamp + 16000000000 ≤ max s.now ts →
    exec (.sourceReturnTimer ts) s = .next
      (((s.upto ts).modTime (fun t => t.switchTo s.time.pref)).noteTraced)) ∧
  (∀ (s : State) (ts : Nat), (∀ e ∈ s.time.pendStep, e.2 = true) → s.time.lastFloor + Config.floorEveryNs ≤ max s.now ts →
    exec (.floorWrite ts) s = .next { s.upto ts with time := { s.time with
      floor := max s.now ts + 128000000000, lastFloor := max s.now ts } }) ∧
  (∀ (s : State) (ts d : Nat), s.time.pendStep = some (d, false) →
    exec (.floorWrite ts) s = .next { s.upto ts with time := { s.time with
      floor := (s.upto ts).comingBoundary + d + 128000000000, lastFloor := max s.now ts, pendStep := some (d, true) } })

/-- LINK_UP, LINK_DOWN, PFC_FRAME, PFC_WATCHDOG and NEIGHBOUR_EXPIRY complete with their own effect (R233, R239, R254,
R298, R331). -/
def Obligations.PortEvents : Prop :=
  (∀ (s : State) (ts lp : Nat), s.portExists lp = true →
    exec (.linkUp ts lp) s = .next { s.upto ts with net := { s.net with linkUp := s.net.linkUp ||| 2 ^ lp } }) ∧
  (∀ (s : State) (ts lp : Nat), bitOf s.net.linkUp lp = true →
    let o := ({ s.upto ts with net := { s.net with linkUp := s.net.linkUp - 2 ^ lp } } : State).report
      { recOf 0x0401 3 0xFFFF (max s.now ts) with die := 61 + lp / 4, detail := le 1 lp }
    exec (.linkDown ts lp) s = .next (if lp % 4 = 0 then o.sourceLost (lp / 4) else o)) ∧
  (∀ (s : State) (ts lp prio : Nat), s.portExists lp = true → bitOf s.net.pfcEn prio = true →
    s.net.paused.any (fun e => e.1 == lp && e.2.1 == prio) = false →
    exec (.pfcFrame ts lp prio true) s = .next { s.upto ts with net := { s.net with
      paused := s.net.paused ++ [(lp, prio, max s.now ts, false)] } }) ∧
  (∀ (s : State) (ts lp prio : Nat), s.portExists lp = true → bitOf s.net.pfcEn prio = true →
    exec (.pfcFrame ts lp prio false) s = .next ((s.net.blocked.filter (fun b => b.1 == lp && b.2.1 == prio)).foldl
      (fun s b => s.xmit lp prio b.2.2)
      { s.upto ts with net := { s.net with
        paused := s.net.paused.filter (fun e => !(e.1 == lp && e.2.1 == prio))
        blocked := s.net.blocked.filter (fun b => !(b.1 == lp && b.2.1 == prio)) } })) ∧
  (∀ (s : State) (ts lp prio a b since : Nat), s.net.paused.find? (fun e => e.1 == lp && e.2.1 == prio) = some (a, b, since, false) →
    s.net.pfcWd ≠ 0 → since + s.net.pfcWd * 1000000 < max s.now ts →
    exec (.pfcWatchdog ts lp prio) s = .next (({ s.upto ts with net := { s.net with
        pfcWdEvents := bump s.net.pfcWdEvents
        paused := s.net.paused.map (fun e => if e.1 = lp ∧ e.2.1 = prio then (lp, prio, since, true) else e)
        blocked := s.net.blocked.filter (fun b => !(b.1 == lp && b.2.1 == prio)) } } : State).report
      { recOf 0x0402 1 0xFFFF (max s.now ts) with die := 61 + lp / 4, detail := le 1 lp ++ le 1 prio })) ∧
  (∀ (s : State) (ts : Nat) (a : BitVec 128),
    exec (.neighbourExpiry ts a) s = .next { s.upto ts with net := { s.net with
      neighbours := s.net.neighbours.filter (fun e => !(e.2.1 == a && decide (e.2.2.2 + 30000000000 ≤ max s.now ts))) } })

/-- CNP and CC_RATE_INCREASE complete with their own effect (R255). -/
def Obligations.CongestionEvents : Prop :=
  (∀ (s : State) (ts v rc : Nat) (x : Vi) (c : Conn), s.vi? v = some x → tget x.conns rc = some c →
    let soon := ∃ t ∈ c.lastCut, max s.now ts < t + 50000
    ∃ t, exec (.cnp ts v rc) s = .next t ∧ t.net = { s.net with cnpRx := bump s.net.cnpRx } ∧
      (∀ w, w ≠ v → t.vi? w = s.vi? w) ∧
      (soon → (t.vi? v).bind (fun x => tget x.conns rc) = some { c with lastCnp := some t.now, lastRaise := t.now }) ∧
      (¬ soon → (t.vi? v).bind (fun x => tget x.conns rc) = some { c with
        lastCnp := some t.now, lastRaise := t.now, lastCut := some t.now, rate := max 1000000000 (c.rate * 7 / 8) })) ∧
  (∀ (s : State) (ts v rc : Nat) (x : Vi) (c : Conn), s.vi? v = some x → tget x.conns rc = some c →
    c.lastRaise + 100000 ≤ max s.now ts →
    ∃ t, exec (.ccRateIncrease ts v rc) s = .next t ∧ t.net = s.net ∧ (∀ w, w ≠ v → t.vi? w = s.vi? w) ∧
      (t.vi? v).bind (fun x => tget x.conns rc) = some { c with
        lastRaise := t.now, rate := min (s.lineRate c.lport) (c.rate + s.lineRate c.lport / 64) })

/-- RX_FRAME completes: a frame that passes the gate of its port is taken by the VI that its address selects (R234, R235,
R238, R239, R244, R256). -/
def Obligations.ReceivedFrame : Prop :=
  ∀ (s g o : State) (f : Frame), (s.upto f.ts).rxGate f.lport f.rx = (true, g) →
    o = g.markCe f.ce →
    (∀ v x, (∀ a, f.body ≠ .resolveRequest a) → o.steer f.lport f.vlan f.dstIp = some v → o.vi? v = some x →
      (f.fragment = true → exec (.rxFrame f) s = .next (o.modNet (fun n => { n with rxFrag := bump n.rxFrag }))) ∧
      (f.fragment = false → f.body = .echo →
        exec (.rxFrame f) s = .next (o.route v f.srcIp none 0 (.answer v f.srcIp .echo))) ∧
      (∀ a, f.fragment = false → f.body = .resolveReply a → exec (.rxFrame f) s = .next (o.learn f.vlan f.lport a)) ∧
      (∀ b, f.fragment = false → f.body = .other b → exec (.rxFrame f) s = .next o.countOther) ∧
      (∀ q, f.fragment = false → f.body = .roceRequest q → x.conns.find? (fun c => c.2.devQpn.toNat == q) = none →
        exec (.rxFrame f) s = .next (o.modNet (fun n => { n with rxMismatch := bump n.rxMismatch }))) ∧
      (∀ q rc c, f.fragment = false → f.body = .roceRequest q → x.conns.find? (fun c => c.2.devQpn.toNat == q) = some (rc, c) →
        (x.pair.role = 0 ∨ x.pair.rc ≠ rc) →
        exec (.rxFrame f) s = .next ((o.modNet (fun n => { n with rdmaReject := bump n.rdmaReject })).rcSend v c (.nak v q)))) ∧
    (∀ a v x, f.fragment = false → f.body = .resolveRequest a →
      o.vis.find? (fun e => e.2.addr.vlan == f.vlan && bitOf e.2.addr.ports f.lport && o.portExists f.lport &&
        isAddrOf e.2.addr a) = some (v, x) →
      exec (.rxFrame f) s = .next (o.xmit f.lport 0 (.answer v f.srcIp (.resolveRequest a)))) ∧
    ((∀ a, f.body ≠ .resolveRequest a) → o.steer f.lport f.vlan f.dstIp = none →
      exec (.rxFrame f) s = .next (o.modNet (fun n => { n with rxNoVi := bump n.rxNoVi })))

/-- SEQ_OPEN, SEQ_FORK, SEQ_CLOSE and SEQ_QUERY complete with their own effect (R93, R118, R148, R156, R280, R283). -/
def Obligations.SequenceCommands : Prop :=
  (∀ (s : State) (p : Packet) (v : Nat) (y x : Vi) (par : Option Seq), s.admits p 0x0401 v = true →
    let pay := pPay p
    let q := leAt pay 0 4
    let src := leAt pay 4 4
    let o := (s.opened p v).cancelSpills v src
    let place := (s.command p v).place o
    let ctx := clampN (leAt pay 12 4) 1 Config.maxContext
    let pos := nearestPow2 (clampN (leAt pay 16 2) 16 2048)
    let train := bitOf (leAt pay 19 1) 0
    let set := leAt pay 20 2
    let setOpt := if set = 0xFFFF then none else some set
    let m := samplingAt pay 22 24
    let n := (par.map (fun o => min (leAt pay 8 4) (min o.p ctx))).getD 0
    let sq : Seq :=
      { p := 0, ctx := ctx, pagePos := pos, fmt := leAt pay 18 1, train := train, set := setOpt, samp := m, tokens := [], last := none,
        pinned := false, lastCpl := 0, opened := (s.command p v).ts, pages := x.layers.map (fun _ => []), saved := none }
    let fresh := o.modVi v (fun x => { x with seqs := tset x.seqs q sq })
    (s.opened p v).vi? v = some y → o.vi? v = some x → tget x.seqs src = par →
    (src = 0xFFFFFFFF ∨ (par.isSome = true ∧ o.blocked93 v src place = false)) → (set ≠ 0xFFFF → setBlocked v y set place = false) →
    q ≠ 0xFFFFFFFF → leAt pay 18 1 ≤ 1 → (set ≠ 0xFFFF → (tget x.sets set).map AdpSet.damaged = some false) →
    thas x.seqs q = false → (train = true → set ≠ 0xFFFF) → x.img.gen ≠ 0 →
    (∀ a ∈ par, a.train = false ∧ a.pagePos = pos ∧ a.fmt = leAt pay 18 1 ∧ a.set = setOpt) →
    sumNat (o.vis.map (fun e => e.2.seqs.length)) < Config.maxSequences →
    x.digitalUsed + Config.seqBytes n ≤ x.part.digital * 1048576 →
    exec (.seqOpen p) s = .next (s.completes p v
      (((par.map (fun a => fresh.sharePages v src q a n)).getD fresh).emit v (some q) false (.seqOpen (seqOpenBytes q
        (if par.isSome then src else 0xFFFFFFFF) n sq)))
      stOk (openReply pay n))) ∧
  (∀ (s : State) (p : Packet) (v : Nat) (x : Vi) (sq : Seq), s.admits p 0x0403 v = true →
    let q := leAt (pPay p) 0 4
    let o := (s.opened p v).cancelSpills v q
    let child := leAt (pPay p) 4 4
    o.vi? v = some x → tget x.seqs q = some sq → o.blocked93 v q ((s.command p v).place o) = false → child ≠ 0xFFFFFFFF →
    thas x.seqs child = false → sq.train = false → sumNat (o.vis.map (fun e => e.2.seqs.length)) < Config.maxSequences →
    x.digitalUsed + Config.seqBytes sq.tokens.length ≤ x.part.digital * 1048576 →
    exec (.seqFork p) s = .next (s.completes p v
      (((o.modVi v (fun x => { x with seqs := (tset x.seqs child
          { sq with pinned := false, lastCpl := 0, opened := (s.command p v).ts, saved := none }) })).sharePages
        v q child sq sq.p).emit v (some q) false (.seqFork child)) stOk (le 4 child ++ le 4 sq.p))) ∧
  (∀ (s : State) (p : Packet) (v : Nat) (x : Vi), s.admits p 0x0404 v = true →
    let o := s.opened p v
    let q := leAt (pPay p) 0 4
    let r := o.closeSeq v q
    o.vi? v = some x → thas x.seqs q = true →
    exec (.seqClose p) s = .next ((r.1.modVi v (fun x => { x with
      ends := x.ends ++ [⟨s.place p v, r.2, some q, none, r.2.length⟩] })).endWaits v)) ∧
  (∀ (s : State) (p : Packet) (v : Nat) (x : Vi) (sq : Seq), s.admits p 0x0405 v = true →
    let q := leAt (pPay p) 0 4
    let o := (s.opened p v).cancelSpills v q
    o.vi? v = some x → tget x.seqs q = some sq →
    exec (.seqQuery p) s = .next (s.completes p v o stOk (le 4 q ++ le 4 sq.p ++
      le 1 (b2n (o.steps.any (fun e => e.2.vi == v && e.2.seq == q && e.2.adm.isSome && !e.2.closed))) ++
      le 1 (b2n sq.pinned) ++ le 1 (b2n sq.train) ++
      zeros 1 ++ le 4 (x.countPages q [.resident, .spilling]) ++ le 4 (x.countPages q [.spilled, .fetching]) ++
      le 4 (x.countPages q [.dropped]) ++ le 2 (sq.set.getD 0xFFFF) ++ zeros 2 ++ le 8 sq.lastCpl)))

/-- KV_PIN, KV_EVICT and KV_PREFETCH complete with their own effect (R93, R145, R147, R153, R154, R155). -/
def Obligations.ResidencyCommands : Prop :=
  (∀ (s : State) (p : Packet) (v : Nat) (x : Vi) (sq : Seq), s.admits p 0x0501 v = true →
    let q := leAt (pPay p) 0 4
    let o := (s.opened p v).cancelSpills v q
    let away := x.awayPages q
    let o' := ((o.modVi v (fun x => x.modSeq q (fun sq => { sq with pinned := true }))).emit v (some q) (decide (away ≠ 0))
      (.kvPin true)).touchSeq v q ((s.command p v).place o)
    o.vi? v = some x → o.blocked93 v q ((s.command p v).place o) = false → tget x.seqs q = some sq →
    (bitOf (leAt (pPay p) 4 1) 0 = false → exec (.kvPin p) s = .next (s.completes p v
      ((o.modVi v (fun x => x.modSeq q (fun sq => { sq with pinned := false }))).emit v (some q) false (.kvPin false)) stOk
      (le 4 q ++ zeros 4))) ∧
    (bitOf (leAt (pPay p) 4 1) 0 = true → (sq.held = true ∨ 2 * x.pinnedBytes q ≤ x.kv.t1.size) →
      (away = 0 → exec (.kvPin p) s = .next (s.completes p v o' stOk (le 4 q ++ le 4 0))) ∧
      (away ≠ 0 → exec (.kvPin p) s = .next (o'.modEntry v (s.place p v) (fun e =>
        { e with state := .running, payload := le 4 q ++ le 4 away }))))) ∧
  (∀ (s : State) (p : Packet) (v : Nat) (x : Vi) (sq : Seq), s.admits p 0x0502 v = true →
    let q := leAt (pPay p) 0 4
    let o := (s.opened p v).cancelSpills v q
    let ks := x.privateResident q
    let t := ks.foldl (fun s k => s.startSpill v k) o
    o.vi? v = some x → tget x.seqs q = some sq → o.blocked93 v q ((s.command p v).place o) = false → sq.held = false →
    x.part.remote ≠ 0 →
    x.kv.t2Bytes + sumNat (ks.map (fun k => ((tget x.kv.pages k).map (fun p => blockBytes p.mElem + blockBytes p.mScale)).getD 0)) ≤
      x.part.remote * 1048576 →
    (∀ k ∈ ks, ((t.vi? v).bind (fun y => tget y.kv.pages k)).map Page.state = some .spilling) →
    (ks = [] → exec (.kvEvict p) s = .next (s.completes p v o stOk (le 4 q ++ le 4 0))) ∧
    (ks ≠ [] → exec (.kvEvict p) s = .next (t.modEntry v (s.place p v) (fun e =>
      { e with state := .running, payload := le 4 q ++ le 4 ks.length })))) ∧
  (∀ (s : State) (p : Packet) (v : Nat) (x : Vi), s.admits p 0x0503 v = true →
    let q := leAt (pPay p) 0 4
    let o := (s.opened p v).cancelSpills v q
    let o' := o.touchSeq v q ((s.command p v).place o)
    o.vi? v = some x → o.blocked93 v q ((s.command p v).place o) = false → thas x.seqs q = true →
    (x.awayPages q = 0 → exec (.kvPrefetch p) s = .next (s.completes p v o' stOk (le 4 q ++ le 4 0))) ∧
    (x.awayPages q ≠ 0 → exec (.kvPrefetch p) s = .next (o'.modEntry v (s.place p v) (fun e =>
      { e with state := .running, payload := le 4 q ++ le 4 (x.awayPages q) }))))

/-- T1_RECLAIM, SPILL_COMPLETE and FETCH_COMPLETE complete with their own effect (R143, R144, R145, R146, R158). -/
def Obligations.ResidencyEvents : Prop :=
  (∀ (s : State) (ts v k : Nat) (x : Vi), s.vi? v = some x → x.pair.role ≠ 2 → (s.upto ts).needsRoom v x = true →
    ((s.upto ts).spillCandidates v x).find? (fun k =>
      ((((s.upto ts).startSpill v k).vi? v).bind (fun y => tget y.kv.pages k)).map Page.state == some .spilling) = some k →
    exec (.t1Reclaim ts v) s = .next ((s.upto ts).startSpill v k)) ∧
  (∀ (s : State) (ts v : Nat) (x : Vi) (p : Nat × Page) (ps : List (Nat × Page)), s.vi? v = some x → x.pair.role ≠ 2 →
    (s.upto ts).needsRoom v x = true →
    ((s.upto ts).spillCandidates v x).find? (fun k =>
      ((((s.upto ts).startSpill v k).vi? v).bind (fun y => tget y.kv.pages k)).map Page.state == some .spilling) = none →
    (s.upto ts).dropCandidates v x = p :: ps →
    exec (.t1Reclaim ts v) s = .next ((s.upto ts).dropIndex v p.2.index p.2.refs)) ∧
  (∀ (s : State) (ts v k : Nat) (x : Vi), s.vi? v = some x →
    exec (.spillComplete ts v k) s = .next ((x.xfersOf (fun t => t.spills k)).foldl (fun s e =>
      (s.popXfer v e.1 e.2).spillDone v k (e.2.viGen == s.viTag v)) (s.upto ts)).wake) ∧
  (∀ (s : State) (v k : Nat) (x : Vi) (p : Page) (b : BlockPair), s.vi? v = some x → tget x.kv.pages k = some p → p.state = .spilling →
    p.refs ≠ [] → p.t1 = some b →
    (s.moving v x (fun t => t.spills k) = true → ∀ c, s.spillDone v k c = s) ∧
    (s.moving v x (fun t => t.spills k) = false → s.spillDone v k true = (s.freeT1 v p.mElem p.mScale b).modVi v (fun x =>
      x.modPage k (fun p => { p with state := .spilled, t1 := none })))) ∧
  (∀ (s : State) (ts v k : Nat) (data : List Byte) (x : Vi) (p : Page), s.vi? v = some x → tget x.kv.pages k = some p →
    exec (.fetchComplete ts v k data) s = .next ((x.xfersOf (fun t => t.fetches k)).foldl (fun s e =>
      let scale := e.2.purpose == .fetch k true
      let o := s.popXfer v e.1 e.2
      if e.2.viGen = s.viTag v then (o.fetchBlock v k scale (if scale then data.drop (blockBytes p.mElem) else data)).fetchDone v k true
      else o.fetchDone v k false) (s.upto ts)).wake) ∧
  (∀ (s : State) (v k : Nat) (x : Vi) (p : Page) (b : BlockPair), s.vi? v = some x → tget x.kv.pages k = some p → p.state = .fetching →
    p.refs ≠ [] → p.t1 = some b →
    (∀ scale data, s.fetchBlock v k scale data = { s with
      hbm := memWrite s.hbm (t1Base v + if scale then b.scale else b.elem)
        (bytesAt data 0 (blockBytes (if scale then p.mScale else p.mElem))) }) ∧
    (s.moving v x (fun t => t.fetches k) = false → s.fetchDone v k true = s.modVi v (fun x =>
      (x.freeT2 p).modPage k (fun p => { p with state := .resident, t2 := none }))))

/-- RDMA_RESPONSE, RC_ACK_TIMEOUT and TRANSFER_TIMEOUT complete with their own effect (R145, R244, R245, R346, R347,
R469). -/
def Obligations.RdmaEvents : Prop :=
  (∀ (s : State) (ts v rc : Nat) (x : Vi) (c : Conn) (t : Xfer), s.vi? v = some x → tget x.conns rc = some c → c.error = false →
    c.first = some t →
    (∀ data, t.purpose ≠ .pairCheck →
      exec (.rdmaResponse ts v rc (.ok data)) s = .next (((s.upto ts).xferOk v rc x t data).wake)) ∧
    (∀ f, t.purpose = .pairCheck → t.viGen = s.viTag v →
      exec (.rdmaResponse ts v rc (.peer f)) s = .next ((((s.upto ts).popXfer v rc t).pairChecked v (some f)).wake)) ∧
    (exec (.rdmaResponse ts v rc .rnr) s = .next ((s.upto ts).rnrRetry v rc t).wake) ∧
    ((∀ k b, t.purpose ≠ .fetch k b) →
      exec (.rdmaResponse ts v rc .nak) s = .next ((((s.upto ts).popXfer v rc t).xferFails v t).wake)) ∧
    (∀ k b, t.purpose = .fetch k b → exec (.rdmaResponse ts v rc .nak) s = .next
      ((if x.closing.isSome then (s.upto ts).popXfer v rc t else (s.upto ts).fetchAgain v rc t).wake))) ∧
  (∀ (s : State) (ts v rc : Nat) (x : Vi) (c : Conn), s.vi? v = some x → tget x.conns rc = some c → c.error = false → c.out ≠ [] →
    (c.tries < c.retry → exec (.rcAckTimeout ts v rc) s = .next (((s.upto ts).modVi v (fun x => x.modConn rc (fun c =>
      { c with tries := c.tries + 1, failSince := some (c.failSince.getD (max s.now ts)) }))).resend v rc)) ∧
    (c.retry ≤ c.tries → exec (.rcAckTimeout ts v rc) s = .next (((s.upto ts).connError v rc).wake))) ∧
  (∀ (s : State) (ts v rc start : Nat) (x : Vi) (c : Conn) (t : Xfer), s.vi? v = some x → tget x.conns rc = some c →
    c.out.head? = some t → s.timeoutFrom v x c = some start → start + c.transferNs ≤ max s.now ts →
    (x.closing.isSome = true → exec (.transferTimeout ts v rc) s = .next (((s.upto ts).dropXfer v rc t).modVi v (fun x =>
      { x with closing := x.closing.map (fun k => { k with xfers := k.xfers + 1 }) }))) ∧
    (x.closing = none → s.inReset v = false →
      exec (.transferTimeout ts v rc) s = .next ((((s.upto ts).dropXfer v rc t).xferFails v t).wake)))

/-- SEQ_STEP, STEP_ADMIT, STEP_COMMIT and STEP_END complete with their own effect (R90, R91, R94, R96, R97, R98, R100,
R106, R139, R141, R281). -/
def Obligations.StepCommands : Prop :=
  (∀ (s : State) (p : Packet) (v : Nat) (x : Vi), s.admits p 0x0402 v = true → staticSeqStep (s.arrived p v) (cmdOfPacket v p) = none →
    let o := s.opened p v
    let pay := pPay p
    let place := (s.command p v).place o
    let k : StepKind := if leAt pay 4 1 = 0 then .decode else if leAt pay 4 1 = 1 then .prefill else .verify
    o.vi? v = some x → (x.img.held = true → (s.command p v).failIfHeld = false) →
    exec (.seqStep p) s = .next ((o.touchSeq v (leAt pay 0 4) place).addStep
      { Step.waiting v (leAt pay 0 4) k (some (s.place p v)) place (tokensAt pay 24 (leAt pay 6 2)) with
        failIfHeld := (s.command p v).failIfHeld, sample := bitOf (leAt pay 5 1) 0
        samp := if bitOf (leAt pay 5 1) 1 then some (samplingAt pay 8 12) else none })) ∧
  (∀ (s : State) (ts k : Nat) (t : Step),
    let o := s.upto ts
    (∀ e ∈ s.steps, e.2.inFlight = false → e.2.failIfHeld = true → (s.vi? e.2.vi).map (fun x => x.img.held) ≠ some true) →
    (sortBy (fun (a b : Nat × Step) => o.admitLt a.2 b.2) (s.steps.filter (fun e => !e.2.inFlight))).find?
      (fun e => o.admission e.1 e.2 != .wait) = some (k, t) →
    (∀ p, o.admission k t = .go p → exec (.stepAdmit ts) s = .next (o.admitStep k t p)) ∧
    (∀ st, o.admission k t = .fail st → exec (.stepAdmit ts) s = .next ((o.dropSaved t).failStep k st))) ∧
  (∀ (s : State) (ts k : Nat) (t : Step) (x : Vi) (sq : Seq), s.step? k = some t → s.vi? t.vi = some x → tget x.seqs t.seq = some sq →
    t.inFlight = true → t.ending = false → t.toks.all Tok.done = true → s.pwr.state ≤ 1 → s.hbmHeld = false → bufferRoom x t = true →
    let o := s.upto ts
    (t.kind = .recompute → exec (.stepCommit ts k) s = .next ((o.commitRecompute k t x sq).afterStep t.vi)) ∧
    (t.kind = .backward → exec (.stepCommit ts k) s = .next ((o.commitBackward k t x sq).afterStep t.vi)) ∧
    (t.kind ≠ .recompute → t.kind ≠ .backward → exec (.stepCommit ts k) s = .next ((o.commitForward k t x sq).afterStep t.vi))) ∧
  (∀ (s : State) (ts k : Nat) (t : Step), s.step? k = some t → t.ending = true →
    (t.crossed = true ∨ t.toks.all Tok.done = true) →
    let o := s.upto ts
    exec (.stepEnd ts k) s = .next ((if o.endsForReset t = false then o.failStep k stAbandoned
      else if t.entry = none then o.requeue k else o.dropStep k).afterStep t.vi))

/-- EMBED, NORM, ACT and RESID complete with their own effect (R105, R114, R115, R116, R174, R175). -/
def Obligations.ScoreCommands : Prop :=
  ∀ (s : State) (ts step tok : Nat) (t : Step) (im : Image) (c : Tok) (x : Vi), s.step? step = some t → s.imageOf t.vi = some im →
    s.vi? t.vi = some x → t.tok? tok = some c → t.inFlight = true → t.crossed = false → c.done = false → s.pwr.state ≤ 1 →
    s.hbmHeld = false →
    let o := s.upto ts
    let d := descAt im c.desc
    let row := bfVec im.digital (leAt d 16 8 + 2 * (t.tokens.getD tok 0 * dOut d)) (dOut d)
    let xs := c.slot0.map cToF
    let st := normStats (leAt d 36 1) (dF32 d 32) xs
    let f := leAt d 16 1
    let m := ofBf (bfAt d 16)
    (dKind d = 1 → t.kind ≠ .backward → exec (.embed ts step tok) s = .next (o.finishDesc im step tok (fun c =>
      { c with slot0 := row.map (fun e => ⟨bMul e (bfAt d 28), 0⟩) }))) ∧
    (dKind d = 1 → t.kind = .backward → exec (.embed ts step tok) s = .next (o.finishDesc im step tok id)) ∧
    (dKind d = 2 → t.kind ≠ .backward → exec (.norm ts step tok) s = .next
      ((o.keep step t c.pos c.desc (.norm (c.slot0.map Comp.hi) st.1 st.2)).finishDesc im step tok (fun c =>
        { c with slots := tset c.slots (dDst d) (normOf x im t.adp d xs st.1 st.2) }))) ∧
    (∀ ys r mu, dKind d = 2 → t.kind = .backward → savedAt (savedItems x t) c.pos c.desc = some (.norm ys r mu) →
      let b := normBack (leAt d 36 1) ys r mu (normGain x im t.adp d) (slotGrad c (dDst d) (dIn d))
      ∃ o', exec (.norm ts step tok) s = .next (o'.finishDesc im step tok (fun c => dropGrad
          { c with grad0 := ((resGrad c (dIn d)).zip b.1).map (fun e => cAdd e.1 e.2) } (dDst d))) ∧
        (o' = o ∨ ∃ i, o' = o.stage step i b.2)) ∧
    (dKind d = 5 → t.kind ≠ .backward → exec (.act ts step tok) s = .next (o.finishDesc im step tok (fun c =>
      { c with slots := tset c.slots (dDst d) (actOut f (tgetD c.slots (dSrc d) []) (tgetD c.slots (dSrc2 d) [])) }))) ∧
    (∀ a b, dKind d = 5 → t.kind = .backward → (fwdSlot x im t c c.desc (dSrc d)).1 = some a →
      (if gated f then (fwdSlot x im t c c.desc (dSrc2 d)).1 else some []) = some b →
      let g := actBack f a b (slotGrad c (dDst d) (dOut d))
      exec (.act ts step tok) s = .next (o.finishDesc im step tok (fun c =>
        let c := addGrad (dropGrad c (dDst d)) (dSrc d) g.1
        if gated f then addGrad c (dSrc2 d) g.2 else c))) ∧
    (dKind d = 6 → t.kind ≠ .backward → exec (.resid ts step tok) s = .next (o.finishDesc im step tok (fun c =>
      { c with slot0 := (c.slot0.zip (tgetD c.slots (dSrc d) [])).map (fun e => cAdd e.1 (fMul (ofBf e.2) m)) }))) ∧
    (dKind d = 6 → t.kind = .backward → exec (.resid ts step tok) s = .next (o.finishDesc im step tok (fun c =>
      addGrad c (dSrc d) ((resGrad c (dIn d)).map (fun g => fMul m (cToF g))))))

/-- ATTN, ROUTE, EXPERTS and HEAD complete with their own effect (R105, R110, R112, R113, R117, R119, R127, R169, R177). -/
def Obligations.TokenCommands : Prop :=
  ∀ (s : State) (ts step tok : Nat) (t : Step) (im : Image) (c : Tok) (x : Vi), s.step? step = some t → s.imageOf t.vi = some im →
    s.vi? t.vi = some x → t.tok? tok = some c → t.inFlight = true → t.crossed = false → c.done = false → s.pwr.state ≤ 1 →
    s.hbmHeld = false →
    let o := s.upto ts
    let d := descAt im c.desc
    let n := leAt d 32 2
    let ch := routeOf (routerLogits (tgetD c.slots (dSrc d) []) (bfVec im.digital (leAt d 16 8) (dIn d * n)) n)
      (bfTable im.digital (leAt d 24 8) n) (leAt d 34 1) (leAt d 35 1) (dF32 d 36)
    let o' := o.keep step t c.pos c.desc (.route ch)
    let rs : List Choice :=
      ch.map (fun g => ⟨g.1, g.2, o'.pickReplica t.vi x im (expertOf im (expertsOf im c.desc d) g.1), none, none, none, none, none⟩)
    let z := headLogits x im t d c.logits
    let got := sampleToken z (sampOf x t) (uniform (Config.draw s.draws))
    (∀ sq, dKind d = 4 → x.seqOf t = some sq → t.kind ≠ .backward →
      (∀ e ∈ t.toks.take tok, e.done = true ∨ c.desc < e.desc) →
      exec (.attn ts step tok) s = .next (o.attnForward im x sq step tok t c d)) ∧
    (∀ sq, dKind d = 4 → x.seqOf t = some sq → t.kind = .backward →
      (∀ e ∈ t.toks.drop (tok + 1), e.done = true ∨ e.desc < c.desc) →
      exec (.attn ts step tok) s = .next (o.attnBackward im x sq step tok t c d)) ∧
    (dKind d = 7 → t.kind ≠ .backward → exec (.route ts step tok) s = .next (o'.finishDesc im step tok (fun c =>
      { c with lists := tset c.lists (dLayer d) rs }))) ∧
    (dKind d = 7 → t.kind = .backward → exec (.route ts step tok) s = .next (o.finishDesc im step tok id)) ∧
    (dKind d = 8 → t.kind ≠ .backward → (∀ r ∈ c.routes, r.out.isSome = true) →
      exec (.experts ts step tok) s = .next (o.finishDesc im step tok (fun c =>
        let g := c.routes.foldl (fun acc r => (acc.zip (r.out.getD [])).map (fun e =>
          cAddPair e.1 ⟨fMul r.gate e.2.hi, fMul r.gate e.2.lo⟩)) c.slot0
        { c with slot0 := g, routes := [] }))) ∧
    (dKind d = 8 → t.kind = .backward → (∀ r ∈ c.routes, r.dx.isSome = true) →
      exec (.experts ts step tok) s = .next (o.finishDesc im step tok (fun c =>
        let g := c.routes.foldl (fun acc r => (acc.zip (r.dx.getD [])).map (fun e => cAdd e.1 (ofBf e.2)))
          (List.replicate (dIn d) Comp.zero)
        { addGrad c (dSrc d) (g.map cToF) with routes := [] }))) ∧
    (dKind d = 9 → t.kind ≠ .backward → (t.kind ≠ .fwdSave ∨ t.targets.getD tok none = none) → c.logits ≠ [] → c.sampled = none →
      exec (.head ts step tok) s = .next (({ o with draws := s.draws + 1 } : State).finishDesc im step tok (fun c =>
        { c with logits := z, sampled := some got }))) ∧
    (∀ y, dKind d = 9 → t.kind = .fwdSave → t.targets.getD tok none = some y → c.logits ≠ [] → c.sampled = none →
      let l := lossOf z y t.lossScale (dF32 d 28)
      ∃ o' : State, exec (.head ts step tok) s = .next ((o'.modStep step (fun t => { t with loss := cAdd t.loss l.1 })).modTok step tok
          (fun c => { c with logits := l.2, sampled := some (y, l.1) })) ∧ (o' = o ∨ ∃ i, o' = o.stage step i l.2)) ∧
    (∀ g, dKind d = 9 → t.kind = .backward → savedAt (savedItems x t) c.pos c.desc = some (.head g) →
      exec (.head ts step tok) s = .next (o.finishDesc im step tok (fun c => addGrad c (dSrc d) (g.map ofBf))))

/-- WAVE_CLOSE, TRIT_CYCLE, BAND_READ_END, CHAIN_HOP_RECEIVE, LAYER_OPERATION_END and TRANSPOSE_READ complete with their
own effect (R42, R45, R57, R75, R81, R107, R109, R178, R184). -/
def Obligations.WaveCommands : Prop :=
  (∀ (s : State) (ts v proj : Nat) (x : Vi) (im : Image), s.vi? v = some x → x.img.image = some im →
    let o := s.upto ts
    let o' := o.closeWave v x im proj (o.waveQueue v x im proj)
    exec (.waveClose ts v proj) s = .next (((tget o'.waves s.nextWave).map (fun w =>
      w.ops.foldl (fun s e => s.opDone im o.nextWave (e.1 / 4096) (e.1 % 4096)) o')).getD o')) ∧
  (∀ (s : State) (ts y : Nat),
    let as := (tkeys (s.yelm y).reads).reverse
    let o := as.foldl (fun s a => s.cycleRead y a) (s.upto ts)
    let lit := ((((s.yelm y).reads.filter (fun r => !r.2.todo.isEmpty)).map (fun r => r.1 % 1024)).eraseDups).length
    as ≠ [] → exec (.tritCycle ts y) s = .next (o.modYelm y (fun ye => { ye with litNow := if o.pulsesOff then 0 else lit }))) ∧
  (∀ (s : State) (ts y a : Nat), exec (.bandReadEnd ts y a) s = .next
    ((((s.yelm y).doneReads a).foldl (fun s e => s.endRead y e.1 e.2) (s.upto ts)).pumpTiles y)) ∧
  (∀ (s : State) (ts wave slot y ch : Nat) (w : Wave) (h : Nat × Nat × Nat × Nat × Ch24) (im : Image), tget s.waves wave = some w →
    w.hops.find? (fun h => h.1 == slot && h.2.1 == y && h.2.2.1 == ch) = some h → s.imageOf w.vi = some im →
    ∃ o' : State, exec (.chainHopReceive ts wave slot y ch) s = .next (o'.chainStep im wave slot y ch) ∧
      tget o'.waves wave = some { w with
        hops := w.hops.erase h
        ops := tmod w.ops (slot * 4096 + y) (fun o => if (tget o.recv ch).any (fun r => decide (h.2.2.2.1 ≤ r.1)) then o
          else { o with recv := tset o.recv ch (h.2.2.2.1, h.2.2.2.2) }) }) ∧
  (∀ (s : State) (ts wave slot : Nat) (w : Wave) (t : WaveTok) (im : Image), tget s.waves wave = some w → tget w.toks slot = some t →
    s.imageOf w.vi = some im →
    let p := projAt im w.proj
    let w' := { w with
      toks := tdel w.toks slot, ops := w.ops.filter (fun o => o.1 / 4096 != slot)
      hops := w.hops.filter (fun h => h.1 != slot), adp := tdel w.adp slot }
    let o := { s.upto ts with waves := if w'.toks = [] then tdel s.waves wave else tset s.waves wave w' }
    let left := sumNat ((w.ops.filter (fun o => o.1 / 4096 == slot)).map (fun o => o.2.allot))
    (distinct (p.places.flatMap (placeChannels im p))).length ≤ t.out.length →
    exec (.layerOperationEnd ts wave slot) s = .next (((o.modTok t.step t.tok (fun c => { c with share := c.share + left })).count w.vi p.unit cTokens 1).deliver im t p)) ∧
  (∀ (s : State) (ts y a k i : Nat) (t : Step) (x : Vi) (im : Image) (c : Tok) (w : TWant) (pl : Place) (ix : ArrayIdx) (pr : Profile)
      (rd : (Nat × Nat) × (Nat × Nat)) (rest : List ((Nat × Nat) × (Nat × Nat))),
    s.step? k = some t → s.vi? t.vi = some x → s.imageOf t.vi = some im → t.tok? i = some c →
    (tWants x im t c).find? (fun w => (tPlace x im t.vi y a w).isSome && tget (tPart x im c w y).left a != some 0) = some w →
    tPlace x im t.vi y a w = some pl → ((s.yelm y).arr a).idx = some ix → profileOf ix.fmt ix.profile = some pr →
    t.inFlight = true → t.crossed = false → (s.yelm y).resetting = false → (s.yelm y).cal ≠ 2 → ((s.yelm y).arr a).st = .idle →
    (s.yelm y).reads = [] → s.trainRoom x y = true → s.decodeWaits y = false → 0 < s.litLimit y → s.pwr.state ≤ 1 →
    let p := projAt im w.proj
    let part := tPart x im c w y
    let n := part.recipe.actTrits
    let all := tReads p pl ix pr
    tSkip im p pl n w.dy (all.drop (all.length - (tget part.left a).getD all.length)) = rd :: rest →
    let r := tRead im p pl pr ((s.yelm y).arr a) (s.yelm y).trims a n s.draws w.dy part.dx rd.1 rd.2
    let ps := putPart c.partials { part with dx := r.1, left := tset part.left a (tSkip im p pl n w.dy rest).length }
    let o := ((((({ s.upto ts with draws := r.2.2 } : State).modYelm y (fun ye => { ye with
      transposeCycles := ye.transposeCycles + n })).count t.vi p.unit cTbands 1).count t.vi p.unit cTovr (b2n r.2.1)).modTok k i
        (fun c => { c with partials := ps }))
    exec (.transposeRead ts y a k i) s = .next
      (if partsDone ps w.role < p.places.length then o else o.transposeDone im x k i t { c with partials := ps } w))

/-- ADP_SET_CREATE, ADP_SET_XFER, ADP_SET_CLOSE and ADP_UPDATE complete with their own effect (R161, R162, R163, R165,
R181, R182, R240, R286). -/
def Obligations.AdapterCommands : Prop :=
  (∀ (s : State) (p : Packet) (v : Nat) (x : Vi), s.admits p 0x0601 v = true → staticAdpSetCreate (s.arrived p v) (cmdOfPacket v p) = none →
    let o := s.opened p v
    let n := leAt (pPay p) 0 2
    let a := newSet (x.img.image.getD ⟨0, [], 0, 0, [], [], [], [], [], [], [], [], [], [], 0⟩) o.draws (pPay p)
    o.vi? v = some x → n ≤ 63 → setBlocked v x n ((s.command p v).place o) = false → x.digitalUsed + a.1.bytes ≤ x.part.digital * 1048576 → thas x.sets n = false →
    exec (.adpSetCreate p) s = .next (s.completes p v
      ((({ o with draws := a.2 } : State).modVi v (fun x => { x with sets := tset x.sets n { a.1 with lastVersion := o.now } })).emitSet
        v n a.1) stOk (setCreateReply (pPay p) 1 a.1.bytes))) ∧
  (∀ (s : State) (p : Packet) (v : Nat) (x : Vi) (a : AdpSet) (r : Region), s.admits p 0x0602 v = true →
    let o := s.opened p v
    let n := leAt (pPay p) 0 2
    let dir := leAt (pPay p) 2 1
    o.vi? v = some x → setBlocked v x n ((s.command p v).place o) = false → tget x.sets n = some a →
    tget x.regions (leAt (pPay p) 4 4) = some r → dir ≤ 1 → r.use = 4 → (dir = 0 → a.damaged = false) →
    (dir = 1 → o.versionRoom v x n a ≠ .savedUses ∧ o.versionRoom v x n a ≠ .stepsUse ∧ a.stale = false) →
    leAt (pPay p) 8 8 + a.bytes ≤ r.length → o.connOk v r.rc = true →
    exec (.adpSetXfer p) s = .next ((o.modEntry v (s.place p v) (fun e => { e with state := .running })).rdma v r.rc
      (.command (s.place p v)) (decide (dir = 0)) (r.addr + leAt (pPay p) 8 8) a.bytes (pQueue p)
      (if dir = 0 then a.tensors.flatMap Tensor.record else []))) ∧
  (∀ (s : State) (p : Packet) (v : Nat) (x : Vi), s.admits p 0x0603 v = true →
    let o := s.opened p v
    let n := leAt (pPay p) 0 2
    o.vi? v = some x → setBlocked v x n ((s.command p v).place o) = false → thas x.sets n = true →
    x.seqs.any (fun q => q.2.set == some n) = false →
    exec (.adpSetClose p) s = .next (s.completes p v
      ((o.modVi v (fun x => { x with sets := tdel x.sets n })).emit v none false (.adpClosed n)) stOk (bytesAt (pPay p) 0 2 ++ zeros 2))) ∧
  (∀ (s : State) (p : Packet) (v : Nat) (x : Vi) (a : AdpSet), s.admits p 0x0606 v = true →
    let o := s.opened p v
    let n := leAt (pPay p) 0 2
    let w := adamAt (pPay p)
    let r := a.update w o.now
    o.vi? v = some x → setBlocked v x n ((s.command p v).place o) = false → tget x.sets n = some a → a.damaged = false → a.stale = false →
    o.versionRoom v x n a ≠ .savedUses → o.versionRoom v x n a ≠ .stepsUse →
    exec (.adpUpdate p) s = .next (s.completes p v ((o.modVi v (fun x => x.modSet n (fun _ => r.1))).emitSet v n r.1) stOk
      (updateReply (pPay p) w (a.version + 1) (a.t + 1) r.2 o.now)))

/-- ADP_FWD_SAVE and ADP_BWD complete with their own effect (R93, R168, R172, R173, R208). -/
def Obligations.TrainingCommands : Prop :=
  (∀ (s : State) (p : Packet) (v : Nat) (x : Vi), s.admits p 0x0604 v = true →
    staticAdpFwdSave (s.arrived p v) (cmdOfPacket v p) = none →
    let o := s.opened p v
    let q := leAt (pPay p) 0 4
    let place := (s.command p v).place o
    o.vi? v = some x → (tget x.seqs q).map Seq.train ≠ some false → (x.img.held = true → (s.command p v).failIfHeld = false) →
    exec (.adpFwdSave p) s = .next ((o.touchSeq v q place).addStep
      { Step.waiting v q .fwdSave (some (s.place p v)) place (fwdTokens (pPay p)) with
        failIfHeld := (s.command p v).failIfHeld, targets := fwdTargets (pPay p)
        lossScale := fClampOr (BitVec.ofNat 32 (leAt (pPay p) 8 4)) 0 0x47800000#32 0 })) ∧
  (∀ (s : State) (p : Packet) (v : Nat) (x : Vi), s.admits p 0x0605 v = true →
    let o := s.opened p v
    let q := leAt (pPay p) 0 4
    let place := (s.command p v).place o
    o.vi? v = some x → o.seqOpen v x q place = true →
    (bitOf (leAt (pPay p) 4 1) 0 = false → (x.img.held = true → (s.command p v).failIfHeld = false) →
      exec (.adpBwd p) s = .next ((o.touchSeq v q place).addStep
        { Step.waiting v q .backward (some (s.place p v)) place [] with failIfHeld := (s.command p v).failIfHeld })) ∧
    (bitOf (leAt (pPay p) 4 1) 0 = true → o.blocked93 v q place = false → ((tget x.seqs q).bind Seq.saved).isSome = true →
      exec (.adpBwd p) s = .next (s.completes p v (o.modVi v (fun x => x.modSeq q (fun sq => { sq with saved := none }))) stOk
        (bwdReply (pPay p) 0 0 0))))

/-- TILE_READ, TILE_WRITE and BAND_READ_START complete with their own effect (R43, R83, R85, R86, R87, R321). -/
def Obligations.YelmCommands : Prop :=
  (∀ (s : State) (p : Packet) (v y : Nat) (x : Vi), s.admits p 0x0701 v = true →
    let o := s.opened p v
    o.vi? v = some x → tileFinding o v x (pPay p) false = none → physYelm v x.part (leAt (pPay p) 0 2) = some y →
    exec (.tileRead p) s = .next ((o.modYelm y (fun ye => { ye with tiles := ye.tiles ++ [(v, s.place p v)] })).pumpTiles y)) ∧
  (∀ (s : State) (p : Packet) (v y : Nat) (x : Vi), s.admits p 0x0702 v = true →
    let o := s.opened p v
    o.vi? v = some x → tileFinding o v x (pPay p) true = none → physYelm v x.part (leAt (pPay p) 0 2) = some y →
    exec (.tileWrite p) s = .next ((o.modYelm y (fun ye => { ye with tiles := ye.tiles ++ [(v, s.place p v)] })).pumpTiles y)) ∧
  (∀ (s : State) (ts y a wid slot place row0 : Nat) (d1 d2 : Int) (crcOk : Bool) (w : Wave) (t : WaveTok) (x : Vi) (im : Image),
    let o := s.upto ts
    (o.mayLight y).contains a = true → o.nextBand y a = some (wid, slot, place, row0) → tget s.waves wid = some w →
    tget w.toks slot = some t → s.vi? w.vi = some x → s.imageOf w.vi = some im →
    let p := projAt im w.proj
    let band := bandOf w.recipe p
    let n := w.recipe.actTrits
    let xs := bandInputs p (p.places.getD place ⟨0, 0, 0, 0, 0, 0⟩) row0 band t.x (outlierRows im p w.recipe t.x).1
    let sa := bandScale xs n
    let q := xs.map (fun v => quantAct v sa n)
    (operandOk xs sa q d1 d2 crcOk = true → ∃ u, exec (.bandReadStart ts y a d1 d2 crcOk) s = .next u ∧
      ((u.yelm y).arr a).st = .lit ∧
      tget (u.yelm y).reads a = some
        { wave := wid, slot := slot, place := place, row0 := row0, band := band, recipe := w.recipe, sa := sa, q := q,
          todo := planList q n row0 band none n, held := none, halves := none, got := [], sums := [], reads := 0,
          reruns := 0, ovrRepeats := 0, clamped := false, pinned := false,
          adds := (s.yelm y).accHold, hold := if (s.yelm y).accHold then tgetD (s.yelm y).acc (bankOf a) [] else []
          trims := (s.yelm y).trims, latched := true, missed := none }) ∧
    (operandOk xs sa q d1 d2 crcOk = false →
      exec (.bandReadStart ts y a d1 d2 crcOk) s = .next (o.operandFails im x wid slot y a row0 w t)))

/-- IMG_LOAD, IMG_SWAP, IMG_ERASE, IMG_REFRESH and IMG_CHECK_PASS_END complete with their own effect (R195, R196, R199,
R206, R207, R212, R213, R279). -/
def Obligations.ImageCommands : Prop :=
  (∀ (s : State) (p : Packet) (v : Nat) (x : Vi), s.admits p 0x0301 v = true → staticImg false (s.arrived p v) (cmdOfPacket v p) = none →
    let src : Source := ⟨leAt (pPay p) 0 4, leAt (pPay p) 8 8, leAt (pPay p) 16 8⟩
    let o := (s.opened p v).modImg v (fun m => m.begin (ImgOp.start .load (s.place p v) (progLimit (pPay p)) .check src))
    o.vi? v = some x →
    exec (.imgLoad p) s = .next (o.rdma v (x.regionConn src.region) .image false
      (((tget x.regions src.region).map Region.addr).getD 0 + src.ofs) src.len 0 [])) ∧
  (∀ (s : State) (p : Packet) (v : Nat) (x : Vi), s.admits p 0x0302 v = true → staticImg true (s.arrived p v) (cmdOfPacket v p) = none →
    let src : Source := ⟨leAt (pPay p) 0 4, leAt (pPay p) 8 8, leAt (pPay p) 16 8⟩
    let o := (s.opened p v).modImg v (fun m => m.begin (ImgOp.start .swap (s.place p v) (progLimit (pPay p)) .check src))
    o.vi? v = some x →
    exec (.imgSwap p) s = .next (o.rdma v (x.regionConn src.region) .image false
      (((tget x.regions src.region).map Region.addr).getD 0 + src.ofs) src.len 0 [])) ∧
  (∀ (s : State) (p : Packet) (v : Nat) (x : Vi), s.admits p 0x0303 v = true →
    let o := s.opened p v
    o.vi? v = some x → x.img.op = none → x.img.gen ≠ 0 →
    exec (.imgErase p) s = .next (o.modImg v (fun m => m.begin (ImgOp.start .erase (s.place p v) 16 .raise m.source)))) ∧
  (∀ (s : State) (p : Packet) (v : Nat) (x : Vi), s.admits p 0x0304 v = true →
    let o := s.opened p v
    let m := fClampOr (BitVec.ofNat 32 (leAt (pPay p) 4 4)) 0x3EC28F5C#32 fOne 0x3EC28F5C#32
    let due := (mappedArrays v x).filter (fun e => !bitOf (leAt (pPay p) 0 1) 0 || fLt ((o.yelm e.1).arr e.2).margin m)
    let o' := due.foldl (fun s e => s.modArr e.1 e.2 (fun a => { a with due := true })) o
    o.vi? v = some x → x.img.gen ≠ 0 →
    (due ≠ [] → exec (.imgRefresh p) s =
      .next (o'.modImg v (fun i => { i with refresh := i.refresh ++ [⟨s.place p v, m, due, due.length⟩] }))) ∧
    (due = [] → exec (.imgRefresh p) s = .next (s.completes p v o' stOk (zeros 4 ++ le 4 m.toNat)))) ∧
  (∀ (s : State) (ts v : Nat) (x : Vi) (op : ImgOp),
    let o := (s.upto ts).popImage v
    o.vi? v = some x → x.img.op = some op → op.phase = .check →
    exec (.imgCheckPassEnd ts v .unreadable) s = .next (o.rejectImg v x op stNoObject) ∧
    ∀ bs,
      let im := parseImage bs
      let m := mapImage o v x.part im (if op.kind = .swap then x.img.map else keptMap x im)
      let same := (List.range im.units.length).filter (unitMatches v x im (m.getD []))
      exec (.imgCheckPassEnd ts v (.read bs)) s = .next (
        if imgBad bs op.source.len = true then o.rejectImg v x op stBadLength
        else if imgWrong o.sec bs im = true then o.rejectImg v x op stNoObject
        else if imgOver o v x im m x.digitalUsed = true then o.rejectImg v x op stNoResource
        else if op.kind = .swap then
          if (x.img.image.map (fun old => swapForbids old im)).getD false = true then o.rejectImg v x op stNotPermitted
          else (o.modImg v (fun i => { i with map := m.getD [] })).modOp v (fun w => { w with
            phase := .raise, image := some im, done := same, skipped := same.length })
        else ((o.modImg v (fun i =>
          { i with map := m.getD [], units := i.units.filter (fun u => same.contains u.1) })).modOp v (fun w => { w with
            phase := .program, image := some im, done := same
            started := (List.range im.units.length).filter (fun u => !same.contains u)
            todo := (im.arrays.filter (fun a => !same.contains a.unit)).map (fun a => (a.yelm, a.array))
            skipped := (im.arrays.filter (fun a => same.contains a.unit)).length })).imgPump v))

/-- The events of programming, erasing, swapping, refreshing and retiring arrays complete with their own effect (R201,
R202, R203, R204, R205, R209, R212, R214, R215, R328). -/
def Obligations.ArrayEvents : Prop :=
  (∀ (s : State) (ts y a attempts : Nat) (ok : Bool) (g : Prog) (v n : Nat) (x : Vi), ((s.yelm y).arr a).prog = some g →
    s.owner y = some (v, x, n) → (g.job = .program v ∨ ∃ old, g.job = .spareFill v old) → g.erased = true → g.loaded = true → g.row < 1024 →
    s.pulsesOff = false → (s.yelm y).resetting = false → 0 < attempts → attempts ≤ 24 → (ok = true ∨ attempts = 24) →
    exec (.rowProgram ts y a attempts ok) s = .next (if ok = true then (s.upto ts).modArr y a (fun r =>
      { r with cells := tset r.cells g.row (g.target g.row), prog := some { g with row := g.row + 1 } })
      else (s.upto ts).rowFails v n y a g attempts)) ∧
  (∀ (s : State) (ts y a v : Nat) (g : Prog), ((s.yelm y).arr a).prog = some g → 1024 ≤ g.row →
    let o := (s.upto ts).modArr y a (fun r => { seedArr (s.yelmTemp y) r with
      st := .idle, prog := none, idx := ((s.vi? v).bind Vi.fillFrom).bind (fun f => f.1.idxOf g.logical)
      alpha := fOne, v := 0, pg := 0, h := 0, due := false, slice := 0 })
    (g.job = .program v → exec (.arrayProgrammed ts y a) s =
      .next ((((o.notRefreshed v y a).modOp v (fun w => { w with programmed := w.programmed + 1 })).imgPump v).pumpTiles y)) ∧
    (∀ old, g.job = .spareFill v old → exec (.arrayProgrammed ts y a) s =
      .next (((o.modArr y old (fun r => { r with retire := r.retire.map (fun t => { t with ready := true }) })).imgPump v).pumpTiles y))) ∧
  (∀ (s : State) (ts y a v : Nat) (g : Prog), ((s.yelm y).arr a).prog = some g → g.erased = false →
    (g.job = .erase v → exec (.arrayEraseDone ts y a) s = .next ((((((s.upto ts).modArr y a (fun r =>
      { seedArr (s.yelmTemp y) r with st := .spare, cells := [], prog := none, idx := none, retire := none })).notRefreshed v y a).modOp v (fun w =>
        { w with erased := w.erased + 1 })).imgPump v).pumpTiles y)) ∧
    ((g.job = .program v ∨ ∃ old, g.job = .spareFill v old) → exec (.arrayEraseDone ts y a) s = .next (((s.upto ts).modArr y a (fun r =>
      { seedArr (s.yelmTemp y) r with cells := [], prog := some { g with erased := true } })).pumpTiles y))) ∧
  (∀ (s : State) (ts y a v n sp l : Nat) (x : Vi) (t : Retire), ((s.yelm y).arr a).retire = some t → s.owner y = some (v, x, n) →
    t.ready = true → t.spare = some sp → x.logicalOf n a = some l →
    s.waves.any (fun w => w.2.ops.any (fun o => o.1 % 4096 == y && !(o.2.bands.isEmpty && o.2.running.isEmpty))) = false →
    exec (.spareSwitch ts y a) s = .next (((if ((s.yelm y).arr a).prog.map Prog.job = some (.program v) then
        (s.upto ts).modOp v (fun o => { o with programmed := o.programmed + 1 }) else s.upto ts).retireTo v y n a sp l
      t.sourceCopy).imgPump v)) ∧
  (∀ (s : State) (ts y a : Nat) (t : Retire), ((s.yelm y).arr a).retire = some t → t.retry = some 0 →
    exec (.retireRetry ts y a) s = .next (if t.failed = true then (s.upto ts).retryFailed y a else (s.upto ts).startRetire y a)) ∧
  (∀ (s : State) (ts y a : Nat), exec (.suspectMarkExpiry ts y a) s =
    .next ((s.upto ts).modArr y a (fun r => { r with marks := r.marks.filter (fun t => decide (max s.now ts < t + Config.markLifeNs)) }))) ∧
  (∀ (s : State) (ts v unit : Nat) (x : Vi) (w : ImgOp) (old new : Image), s.vi? v = some x → x.img.op = some w → x.img.image = some old →
    w.image = some new → w.kind = .swap → w.phase = .barrier → unit < new.units.length → w.done.contains unit = false →
    w.started.contains unit = false → s.mayStart v old new w unit = true →
    let todo := (new.arrays.filter (fun a => a.unit == unit)).map (fun a => (a.yelm, a.array))
    let gone := (old.arrays.filter (fun a => a.unit == unit && !todo.contains (a.yelm, a.array))).map (fun a =>
      ((physYelm v x.part a.yelm).getD 0, x.physArr a.yelm a.array))
    exec (.swapUnitStart ts v unit) s = .next ((((s.upto ts).modImg v (fun m =>
      { m with units := tdel m.units unit })).modOp v (fun o =>
        { o with started := o.started ++ [unit], todo := o.todo ++ todo, toErase := o.toErase ++ gone })).imgPump v)) ∧
  (∀ (s : State) (ts y a v : Nat) (bad : List Nat) (g : Prog), ((s.yelm y).arr a).prog = some g → g.job = .refresh v →
    let n := ((s.yelm y).arr a).slice + 1
    let o := (((List.range 8).map (fun i => (n - 1) * 8 + i)).filter bad.contains).foldl (fun s row => s.suspect y a 0 row)
      ((s.upto ts).modArr y a (fun r => { r with st := .idle, prog := none, slice := n }))
    exec (.refreshSliceEnd ts y a bad) s = .next (if n < 128 then (o.imgPump v).pumpTiles y
      else (((o.modArr y a (fun r => { seedArr (o.yelmTemp y) r with
        alpha := fOne, v := 0, pg := 0, h := 0, due := false, slice := 0, marks := [] })).refreshed v y a).imgPump v).pumpTiles y))

/-- RECIPE_SET, FLAG_WINDOW_END, CLR_UNIT, CLR_ALL and FLAG_WINDOW_WRITE complete with their own effect (R218, R224, R225,
R231, R232, R306). -/
def Obligations.PrecisionCommands : Prop :=
  (∀ (s : State) (p : Packet) (v : Nat) (x : Vi) (old : Recipe), s.admits p 0x0801 v = true →
    let o := s.opened p v
    let i := leAt (pPay p) 0 2
    let r := maskRecipe old (leAt (pPay p) 2 2) (recipeEntry (pPay p) 4) o.nextBoundary
    o.vi? v = some x → x.img.latestRecipe i = some old →
    exec (.recipeSet p) s = .next (s.completes p v
      ((o.modImg v (fun m => { m with pendingRecipes := m.pendingRecipes ++ [(o.nextBoundary, i, r)] })).emit v none false
        (.recipe i (recipeBytes r) o.nextBoundary))
      stOk (le 2 i ++ le 2 x.img.gen ++ recipeBytes r ++ le 8 o.nextBoundary))) ∧
  (∀ (s : State) (ts v : Nat) (x : Vi), s.vi? v = some x → x.prec.started = true → x.prec.window ≤ x.prec.beat →
    exec (.flagWindowEnd ts v) s = .next (((s.upto ts).evalWindow v).modVi v (fun x => { x with prec := { x.prec with beat := x.prec.beat - x.prec.window } }))) ∧
  (∀ (s : State) (ts v : Nat) (value : Reg),
    let o := s.upto ts
    (s.gated 3 = false → bitOf value.toNat 1 = true →
      exec (.clrUnit ts v value) s = .next (o.modVi (o.precVi v) (fun x => { x with prec := { x.prec with
        units := tmod x.prec.units x.unitSel (fun u => { u with counts := List.replicate 12 0, window := List.replicate 13 0 }) } }))) ∧
    (s.gated 3 = false → bitOf value.toNat 0 = true →
      exec (.clrAll ts v value) s = .next (o.modVi (o.precVi v) (fun x => { x with prec := { x.prec with
        totals := List.replicate 12 0
        units := tmapv x.prec.units (fun _ u => { u with counts := List.replicate 12 0, window := List.replicate 13 0 }) } }))) ∧
    (s.gated 3 = false → exec (.flagWindowWrite ts v value) s = .next (o.modView (o.precVi v) (fun x =>
      { x with prec := { x.prec with
        window := max 1 (value.toNat % 65536), started := false, beat := 0
        units := tmapv x.prec.units (fun _ u => { u with window := List.replicate 13 0 }) } }))) ∧
    (s.gated 3 = true → exec (.clrUnit ts v value) s = .next o ∧ exec (.clrAll ts v value) s = .next o ∧
      exec (.flagWindowWrite ts v value) s = .next o))

/-- CAL_RUN, CAL_REQ, ROTATION_PASS, the calibration of a yelm and CAL_TABLE_READ complete with their own effect (R307,
R373, R375, R377, R378, R380, R381, R382, R383, R385). -/
def Obligations.CalibrationCommands : Prop :=
  (∀ (s : State) (p : Packet) (v : Nat) (x : Vi), s.admits p 0x0802 v = true →
    let o := s.opened p v
    let n := leAt (pPay p) 0 2
    let ys := if n = 0xFFFF then x.yelmsOf v else (physYelm v x.part n).toList
    o.vi? v = some x → ys ≠ [] →
    exec (.calRun p) s = .next (((ys.foldl (fun s y => s.modYelm y (fun ye => { ye with cal := if ye.cal = 0 then 1 else ye.cal })) o).modEntry
      v (s.place p v) (fun e => { e with state := .running })).modCal (fun b => { b with
        requests := b.requests.filter (fun r => !(r.1 == v && r.2.1 == some (s.place p v))) ++ [(v, some (s.place p v), ys, 0)] }))) ∧
  (∀ (s : State) (ts v : Nat) (value : Reg),
    (s.gated 8 = false → v = 0 → value.toNat % 4096 < Config.yelmCount →
      exec (.calReq ts v value) s = .next ((s.upto ts).requestCal (value.toNat % 4096))) ∧
    ((s.gated 8 = true ∨ v ≠ 0 ∨ Config.yelmCount ≤ value.toNat % 4096) → exec (.calReq ts v value) s = .next (s.upto ts))) ∧
  (∀ (s : State) (ts : Nat), s.cal.rotEn = true → s.cal.passActive = false → (s.upto ts).now % s.period = 0 → s.pwr.state ≤ 1 →
    s.pwr.want = none → s.cal.passStart + s.cal.rotPeriod * 1000000000 ≤ (s.upto ts).now →
    exec (.rotationPass ts) s = .next ((s.upto ts).modCal (fun b => { b with
      passActive := true, passStart := (s.upto ts).now, queue := List.range Config.yelmCount, src := b.srcPend.getD b.src, srcPend := none
      refUv := b.refUvPend.getD b.refUv, refUvPend := none }))) ∧
  (∀ (s : State) (ts y : Nat), s.pwr.state ≤ 1 → s.pwr.want = none → s.pulsesOff = false → s.nextCal (y / 16) = some y →
    exec (.yelmCalibrationStart ts y) s = .next (((s.upto ts).modYelm y (fun ye => { ye with cal := 2, calStart := (s.upto ts).now })).modCal (fun b =>
      { b with queue := b.queue.filter (· != y), requests := b.requests.filter (fun r => !(r.2.1.isNone && r.2.2.1.contains y)) }))) ∧
  (∀ (s : State) (ts y : Nat) (found : List TapFound), (s.yelm y).cal = 2 → s.pulsesOff = false →
    let o := s.upto ts
    (s.cal.refBad = false → exec (.yelmCalibrationEnd ts y found) s = .next ((((o.modYelm y (fun ye =>
        { ye with cal := 3, found := found, calTemp := (s.diode (dieOfYelm y)).getD 0x42200000#32 })).modCal (fun b =>
          { b with tapLimit := satAdd b.tapLimit (found.filter tapLimited).length })).endPass).pumpAllTiles)) ∧
    (s.cal.refBad = true →
      let o' := o.serveRequests y (s.yelm y).calStart false
      exec (.yelmCalibrationEnd ts y found) s = .next (((o'.modYelm y (fun ye => { ye with cal := o'.calRest y, found := [] })).endPass).pumpAllTiles))) ∧
  (∀ (s : State) (ts y : Nat), (s.yelm y).cal = 3 →
    let ye := s.yelm y
    let sets := ye.found.foldl (commitTap (fRat ye.calTemp)) ye.stored
    let o := ((s.upto ts).modCal (fun b => { b with setId := bump b.setId, yelmCals := bump b.yelmCals })).serveRequests y ye.calStart
      (sets != ye.stored)
    exec (.calStoreWriteDone ts y) s = .next ((o.modYelm y (fun ye => { ye with
      stored := sets, setId := o.cal.setId, lastCal := o.now, trimDue := true, found := [], cal := o.calRest y })).endPass)) ∧
  (∀ (s : State) (p : Packet) (v y : Nat) (x : Vi), s.admits p 0x0803 v = true →
    let o := s.opened p v
    let bank := leAt (pPay p) 2 1
    let set := leAt (pPay p) 3 1
    let ye := o.yelm y
    let table := if set = 0xFF then ye.trims else ye.stored.getD set []
    o.vi? v = some x → physYelm v x.part (leAt (pPay p) 0 2) = some y → bank ≤ 19 → (set ≤ 4 ∨ set = 0xFF) →
    exec (.calTableRead p) s = .next (s.completes p v o stOk
      (le 2 (leAt (pPay p) 0 2) ++ le 1 bank ++ le 1 set ++ le 4 ye.setId ++
        le 4 (if set = 0xFF then ye.trimTemp else nominalTemps.getD set 0).toNat ++ (List.range 1040).flatMap (fun i =>
          le 4 (if bank ≥ 16 ∧ i ≥ 1024 then 0 else trimWord (tgetD table (bank * 1040 + i) (0, 0)))))))

/-- ERR_DRAIN, CPER_EXPORT, TEST_PACK_LOAD, TEST_PACK_RUN and TEST_END complete with their own effect (R335, R336, R337,
R339, R340). -/
def Obligations.ErrorCommands : Prop :=
  (∀ (s : State) (p : Packet) (v : Nat), s.admits p 0x0A03 v = true →
    let o := s.opened p v
    let g := o.ringOf v
    let out := g.recs.take (clampN (leAt (pPay p) 0 2) 1 127)
    exec (.errDrain p) s = .next (s.completes p v (o.modRing v (fun g =>
      { g with recs := g.recs.drop out.length, lost := 0, lostFirst := 0, lostLast := 0 })) stOk
      (le 2 out.length ++ zeros 2 ++ le 4 g.lost ++ out.flatMap recBytes))) ∧
  (∀ (s : State) (p : Packet) (v : Nat) (x : Vi) (r : Region), s.admits p 0x0A04 v = true →
    let o := s.opened p v
    let mine := (o.ringOf v).recs.filter (fun e => decide (2 ≤ e.code / 256) && decide (e.code / 256 ≤ 4))
    let fit := cperFit (leAt (pPay p) 16 8) (mine.map (cperBytes o.time))
    let rep := fun bytes n => le 8 bytes ++ le 4 n ++ zeros 4
    o.vi? v = some x → tget x.regions (leAt (pPay p) 0 4) = some r → r.use = 4 →
    leAt (pPay p) 8 8 + leAt (pPay p) 16 8 ≤ r.length →
    (fit.flatten = [] → exec (.cperExport p) s = .next (s.completes p v o stOk (rep 0 0))) ∧
    (fit.flatten ≠ [] → o.connOk v r.rc = true → exec (.cperExport p) s = .next ((o.modEntry v (s.place p v) (fun e =>
      { e with state := .running, payload := rep fit.flatten.length fit.length })).rdma v r.rc (.command (s.place p v)) true
        (r.addr + leAt (pPay p) 8 8) fit.flatten.length (pQueue p) fit.flatten))) ∧
  (∀ (s : State) (p : Packet) (v : Nat) (x : Vi) (r : Region), s.admits p 0x0A01 v = true →
    let o := s.opened p v
    o.vi? v = some x → tget x.regions (leAt (pPay p) 0 4) = some r → r.use = 0 → leAt (pPay p) 8 8 + leAt (pPay p) 16 8 ≤ r.length →
    leAt (pPay p) 16 8 ≤ Config.packBytes → o.err.packs.length < Config.packMax → o.connOk v r.rc = true →
    exec (.testPackLoad p) s = .next ((o.modEntry v (s.place p v) (fun e => { e with state := .running })).rdma v r.rc
      (.command (s.place p v)) false (r.addr + leAt (pPay p) 8 8) (leAt (pPay p) 16 8) (pQueue p) [])) ∧
  (∀ (s : State) (p : Packet) (v : Nat) (k : Pack), s.admits p 0x0A02 v = true →
    let o := s.opened p v
    let first := leAt (pPay p) 4 2
    let left := (List.range (min (leAt (pPay p) 6 2) (Config.yelmCount - first))).flatMap (fun i =>
      (List.range k.tests).map (fun t => (first + i, t)))
    (tvals o.err.packs).find? (fun k => k.id == leAt (pPay p) 0 4) = some k → first < Config.yelmCount →
    exec (.testPackRun p) s = .next (((o.modEntry v (s.place p v) (fun e => { e with state := .running })).modErr (fun b => { b with
      runs := b.runs.filter (fun r => r.entry != s.place p v) ++ [⟨s.place p v, k.id, left, [], []⟩] })).endRuns)) ∧
  (∀ (s : State) (ts pack y a : Nat) (w : TestResult) (r : PackRun), s.err.runs.find? (fun r => r.pack == pack && r.left.contains (y, w.test)) = some r →
    s.serving = true → a < 1024 →
    let o := (s.upto ts).modErr (fun b => { b with runs := b.runs.map (fun q => if q.entry = r.entry then
      { r with left := r.left.erase (y, w.test), tested := addNew r.tested (y, a)
               failed := if w.pass then r.failed else addNew r.failed (y, a) } else q) })
    exec (.testEnd ts pack y a w) s = .next (if w.pass = true then o.endRuns
      else if 2 ≤ w.kind then (o.requestCal y).endRuns
      else ((o.suspect y a 1 w.row).report { recOf 0x0108 3 (((o.owner y).map Prod.fst).getD 0xFFFF) o.now with
        yelm := y, array := a, die := dieOfYelm y, detail := le 4 pack ++ le 2 w.test ++ le 1 (bankOf a) }).endRuns))

/-- RESET, RESET_END, REPLAY and UNKNOWN_OPCODE complete with their own effect (R266, R274, R290, R291, R315, R316, R342,
R343, R427). -/
def Obligations.ResetCommands : Prop :=
  (∀ (s : State) (p : Packet) (v y : Nat) (x : Vi), s.admits p 0x0A05 v = true →
    let o := s.opened p v
    o.vi? v = some x → o.resetFinding v x (leAt (pPay p) 0 1) (leAt (pPay p) 2 2) = (stOk, y) →
    exec (.reset p) s = .next ((o.modEntry v (s.place p v) (fun e => { e with state := .running })).startReset (leAt (pPay p) 0 1) y 0
      [(v, s.place p v)])) ∧
  (∀ (s : State) (ts domain target : Nat) (op : ResetOp),
    s.err.resets.find? (fun r => r.domain == domain && (r.target == target || decide (4 ≤ domain))) = some op →
    (domain < 4 → (domain = 3 → s.viQuiet op.target = true) → exec (.resetEnd ts domain target) s = .next ((s.upto ts).finishReset op)) ∧
    (4 ≤ domain → (domain = 5 → s.pins.sysResetL = true ∧ s.pins.pwrOk = true) → s.sec.boot.romLoader = false →
      exec (.resetEnd ts domain target) s = .next (((s.upto ts).modSec SecBlk.boot).finishReset op)) ∧
    (4 ≤ domain → (domain = 5 → s.pins.sysResetL = true ∧ s.pins.pwrOk = true) → s.sec.boot.romLoader = true →
      exec (.resetEnd ts domain target) s = .next ((s.upto ts).modSec SecBlk.boot))) ∧
  (∀ (s : State) (ts v : Nat) (x : Vi), s.vi? v = some x → s.serving = true → s.err.outOfService = false → s.inReset v = false →
    let o := (tkeys x.queues).foldl (fun s q => s.sendRecorded v q x.jrnl.entries.length) (s.upto ts)
    let es := o.replayUpto v
    let o' : State := { o with vis := tmapv o.vis (fun w x => x.modJrnl (fun j =>
      { j with replay := if w = v then [] else j.replay.filter (fun id => !es.contains (w, id)) })) }
    exec (.replay ts v) s = .next ((es.foldl (fun s e => s.replayOne e.1 e.2) o').wake)) ∧
  (∀ (s : State) (p : Packet) (v st : Nat), opKnown (pOpcode p) = false → s.comesIn p = true → (s.entered p).check p = .reply v st →
    exec (.unknownOpcode p) s = .next (((s.entered p).takeTicket p).answer v p (fReply + fFinal) st []))

/-- ECC_ERROR, RESIDUE_FAIL, HEARTBEAT and HEARTBEAT_LOST complete with their own effect (R326, R327, R341). -/
def Obligations.FaultEvents : Prop :=
  (∀ (s : State) (ts : Nat) (e : EccError), s.pwr.state ≤ 1 → s.pins.mainUp = true →
    let o := (s.upto ts).report ((s.upto ts).eccRecord e)
    exec (.eccError ts e) s = .next (if e.corrected = true then o else match e.site with
      | .stepData k => o.rerunOn k 0x0302 e.die
      | .page v k => (o.losePage v k e.die).wake
      | .imageSection v k => (o.rereadSection v e.address).rerunOn k 0x0302 e.die
      | .oneCopy => o
      | .bothCopies v q n => (o.loseItem v q n).afterStep v
      | .adapterSet v a => o.modVi v (fun x => { x with sets := tmod x.sets a (fun t => { t with damaged := true }) })
      | .monitorState y a => o.modArr y a (seedArr (o.yelmTemp y))
      | .trims y => o.reloadTrims y)) ∧
  (∀ (s : State) (ts unit place step : Nat) (t : Step), s.step? step = some t → t.inFlight = true →
    let group := if unit = 3 then place / 4 else place / 256
    let e := t.entry.bind (s.entry? t.vi)
    let o := (s.upto ts).report { recOf 0x0202 1 t.vi (s.upto ts).now with
      queue := (e.map Entry.queue).getD 0xFFFF, psn := (e.map Entry.psn).getD 0, seq := t.seq
      yelm := if unit = 3 then 0xFFFF else place, die := if unit = 3 then 48 + group else dieOfYelm place, detail := le 1 unit ++ le 2 place }
    exec (.residueFail ts unit place step) s = .next ((o.rerunStep step 0x0202 group false).wake)) ∧
  (∀ (s : State) (ts : Nat), s.serving = true → exec (.heartbeat ts) s =
    .next ((s.upto ts).modErr (fun b => { b with hb := (b.hb + 1) % 2 ^ 32, sinceRidge := none }))) ∧
  (∀ (s : State) (ts : Nat), s.serving = true → 8 ≤ s.err.missed → s.err.outOfService = false →
    let o := ((s.upto ts).report { recOf 0x0501 2 0xFFFF (s.upto ts).now with die := 60, detail := le 1 s.err.missed }).modSec
      SecBlk.trialFails
    (s.err.sinceRidge = none →
      exec (.heartbeatLost ts) s = .next ((o.modErr (fun b => { b with hbResets := bump b.hbResets })).startReset 4 0 2 [])) ∧
    (s.err.sinceRidge.isSome = true → exec (.heartbeatLost ts) s = .next (o.startReset 5 0 2 [])))

/-- PWR_CAP_SET, THERM_SET, PWR_STATE_SET, GOVERNOR_TICK, THERMAL_SAMPLE, POWER_STATE_ENTRY and POWER_STATE_EXIT complete
with their own effect (R294, R402, R403, R404, R405, R406, R412, R413, R414, R415). -/
def Obligations.PowerCommands : Prop :=
  (∀ (s : State) (p : Packet) (v : Nat), s.admits p 0x0D01 v = true →
    let o := s.opened p v
    let w := (clampN (leAt (pPay p) 0 2) 200 850 + 2) / 5 * 5
    let r := fun f => le 2 w ++ zeros 2 ++ le 8 f
    (o.pwr.capEnf ≤ w → exec (.pwrCapSet p) s = .next (s.completes p v
      (o.modPwr (fun b => { b with capReq := w, capFrom := o.nextBoundary, pendCap := some (o.nextBoundary, w) })) stOk (r o.nextBoundary))) ∧
    (w < o.pwr.capEnf →
      let f := o.boundaryAt (p.ts + o.pwr.graceMs * 1000000)
      let o' := o.modPwr (fun b => { b with capReq := w, capFrom := f, pendCap := some (f, w) })
      exec (.pwrCapSet p) s = .next (s.completes p v ((o'.noticeAll 0x0D81 (le 2 w ++ zeros 2 ++ le 4 o.pwr.power.toNat ++ le 8 f)).modPwr (fun b =>
        { b with notices := satAdd b.notices o'.openVis.length }))
        stOk (r f)))) ∧
  (∀ (s : State) (p : Packet) (v : Nat), s.admits p 0x0D02 v = true →
    let o := s.opened p v
    let pick := fun (i old top : Nat) => if leAt (pPay p) i 1 = 0 then old else min (leAt (pPay p) i 1) top
    let sd := max 60 (pick 2 o.pwr.shutdownC 112)
    let th := max 60 (min sd (pick 1 o.pwr.throttleC 102))
    let wa := max 60 (min th (pick 0 o.pwr.warnC 95))
    let g := clampN (leAt (pPay p) 4 2) 10 2000
    exec (.thermSet p) s = .next (s.completes p v (o.modPwr (fun b => { b with warnC := wa, throttleC := th, shutdownC := sd, graceMs := g }))
      stOk (le 1 wa ++ le 1 th ++ le 1 sd ++ zeros 1 ++ le 2 g ++ zeros 2 ++ le 8 ((o.now / 10000 + 1) * 10000)))) ∧
  (∀ (s : State) (p : Packet) (v : Nat), s.admits p 0x0D03 v = true →
    let o := s.opened p v
    let st := leAt (pPay p) 0 1
    (st = 0 → exec (.pwrStateSet p) s = .next (s.completes p v o stOk (le 1 st ++ zeros 3 ++ le 8 o.now))) ∧
    ((st = 2 ∨ st = 3) → exec (.pwrStateSet p) s = .next (o.modPwr (fun b => { b with
      want := some (st, ((b.want.map Prod.snd).getD []).filter (· != s.place p v) ++ [s.place p v]) })))) ∧
  (∀ (s : State) (ts : Nat) (rails : List RailSample), s.pwr.state ≤ 1 → s.pins.mainUp = true →
    exec (.governorTick ts rails) s = .next (((s.upto ts).powerSample rails).modPwr (govern (s.upto ts).now))) ∧
  (∀ (s : State) (ts die : Nat) (temp : Int), s.pwr.state ≤ 1 → s.pins.mainUp = true → die < Config.dieCount →
    let d := tgetD s.pwr.dies die .cold
    let hot := if (1000 * s.pwr.shutdownC : Int) ≤ temp then d.hot + 1 else 0
    let o := (s.upto ts).modPwr (fun b => { b with dies := tset b.dies die { d with temp := temp, hot := hot } })
    exec (.thermalSample ts die temp) s = .next (if 2 ≤ hot then o.shutdown die (sixteenths temp)
      else ((o.warnSample die temp).throttleSample die temp).syncPins)) ∧
  (∀ (s : State) (ts st : Nat) (es : List Nat), s.pwr.want = some (st, es) → s.pwr.state ≤ 1 → s.drained = true →
    let o := es.foldl (fun s e => s.replyEntry st e) (s.upto ts).checkpoint
    let o' := ((if st = 3 then o.enterDeep else o.enterDoze).modPwr (fun b => { b with
      trippedPrev := if st = 3 then false else b.trippedPrev, wakePend := none })).syncPins
    exec (.powerStateEntry ts) s = .next ((o.pwr.wakePend.map (fun c => o'.wakeBy c)).getD o')) ∧
  (∀ (s : State) (ts : Nat), s.pwr.waking = true →
    (s.pwr.state = 2 → exec (.powerStateExit ts) s = .next (((s.upto ts).backInRun.deliverHeld).wake)) ∧
    (s.pwr.state = 3 → s.pins.pwrOk = true → s.pins.sysResetL = true →
      exec (.powerStateExit ts) s = .next (((((s.upto ts).modSec SecBlk.boot).restoreMac).backInRun).deliverHeld)))

/-- PBRAKE_ASSERT, PBRAKE_RELEASE, BRAKE_RAMP_TICK, REF_LOSS and REF_RETURN complete with their own effect (R410, R411,
R418, R419). -/
def Obligations.BrakeAndClockEvents : Prop :=
  (∀ (s : State) (ts : Nat),
    let o := { s.upto ts with pins := { s.pins with pbrakeL := false } }
    exec (.pbrakeAssert ts) s = .next (if 1 < s.pwr.state ∨ s.pwr.brakeOn = true then o
      else o.modPwr (fun b => { b with
        brakeOn := true, brakeSeen := true, brakeEvents := bump b.brakeEvents, brakeStart := o.now, brakeLit := 0 }))) ∧
  (∀ (s : State) (ts : Nat),
    let o := { s.upto ts with pins := { s.pins with pbrakeL := true } }
    (s.pwr.brakeOn = true → exec (.pbrakeRelease ts) s = .next ((o.modPwr (fun b => { b with
      brakeOn := false, brakeLit := 1, brakeUs := satAdd b.brakeUs ((o.now - b.brakeStart) / 1000) })).pumpAllTiles)) ∧
    (s.pwr.brakeOn = false → exec (.pbrakeRelease ts) s = .next o)) ∧
  (∀ (s : State) (ts : Nat), exec (.brakeRampTick ts) s = .next (if s.pwr.brakeOn = true then s.upto ts
    else (s.upto ts).modPwr (fun b => { b with brakeLit := min 16 (b.brakeLit + 1) }))) ∧
  (∀ (s : State) (ts ref : Nat), ref ≤ 2 → lget s.clk.refOk ref false = true →
    let o := { s.upto ts with clk := { s.clk with
      refOk := s.clk.refOk.set ref false, relock := s.clk.relock.set ref false, coast := 1, lossEvents := bump s.clk.lossEvents
      pllState := (pllsOf ref).foldl (fun ps i => ps.set i 3) s.clk.pllState
      pllMhz := (pllsOf ref).foldl (fun ps i => ps.set i (coastMhz i)) s.clk.pllMhz
      coastStart := some (s.clk.coastStart.getD (s.upto ts).now) } }
    exec (.refLoss ts ref) s = .next (if ref = 0 then o else (List.range 4).foldl (fun s i => s.dropLink (4 * (ref - 1) + i)) o)) ∧
  (∀ (s : State) (ts ref : Nat), ref ≤ 2 → lget s.clk.refOk ref false = false →
    exec (.refReturn ts ref) s = .next { s.upto ts with clk := { s.clk with refOk := s.clk.refOk.set ref true, relock := s.clk.relock.set ref true } })

/-- PWR_OK_FALL, PWR_OK_RISE, POWER_LOSS, POWER_UP, SYS_RESET_L, SYS_RESET_L_RELEASE and TEST_PORT_INSTRUCTION complete
with their own effect (R303, R342, R427, R434, R450, R451, R452, R453, R466). -/
def Obligations.SupplyEvents : Prop :=
  (∀ (s : State) (ts : Nat),
    let o := { s.upto ts with pins := { s.pins with pwrOk := false } }
    exec (.pwrOkRise ts) s = .next { s.upto ts with pins := { s.pins with pwrOk := true } } ∧
    (s.pwr.state ≠ 3 → s.pins.mainUp = true → exec (.pwrOkFall ts) s = .next o.loseMain) ∧
    ((s.pwr.state = 3 ∨ s.pins.mainUp = false) → exec (.pwrOkFall ts) s = .next o)) ∧
  (∀ (s : State) (ts : Nat), s.pins.vddAon = true → exec (.powerLoss ts) s = .next (s.upto ts).unplug) ∧
  (∀ (s : State) (ts : Nat) (puf : Bool), s.pins.vddAon = false →
    exec (.powerUp ts puf) s = .next ({ s.upto ts with
      now := max (s.upto ts).now s.time.floor, pins := { s.pins with vddAon := true, pwrReq := true } }.modSec (fun b =>
        { b with pufFail := !puf }))) ∧
  (∀ (s : State) (ts : Nat),
    let o := { s.upto ts with pins := { s.pins with sysResetL := false } }
    (s.pwr.state ≠ 3 → s.pins.pwrOk = true → s.pins.mainUp = true → s.pins.vddAon = true →
      exec (.sysResetL ts) s = .next ((if s.pwr.state = 2 then o.backInRun else o).startReset 5 0 1 [])) ∧
    ((s.pwr.state = 3 ∨ s.pins.pwrOk = false ∨ s.pins.mainUp = false ∨ s.pins.vddAon = false) → exec (.sysResetL ts) s = .next o)) ∧
  (∀ (s : State) (ts : Nat),
    let o := { s.upto ts with pins := { s.pins with sysResetL := true, tap := if drivesLands s.pins.tap = true then .bypass else s.pins.tap } }
    (s.pins.mainUp = false → s.pins.pwrOk = true → s.pins.vddAon = true → s.pwr.state ≠ 3 →
      exec (.sysResetLRelease ts) s = .next ((State.backInRun { o with pins := { o.pins with mainUp := true } }).modErr (fun b =>
        { b with resets := [⟨5, 0, o.now, 6, [], s.vis.map Prod.fst, []⟩] }))) ∧
    (s.pins.mainUp = true → exec (.sysResetLRelease ts) s = .next o)) ∧
  (∀ (s : State) (ts : Nat) (i : TapInstr), s.pins.vddAon = true → exec (.testPortInstruction ts i) s = .next { s.upto ts with
    pins := { s.pins with tap := if drivesLands i = true ∧ s.pins.sysResetL = true then .bypass else i } })

/-- The sideband commands complete with their own effect (R345, R398, R429, R454, R461, R462, R463, R464, R465). -/
def Obligations.SidebandCommands : Prop :=
  (∀ (s : State) (r : SbRequest), s.sidebandRuns r noBytes true = true →
    let o := s.upto r.ts
    exec (.idRead r) s = .next (o.sbReply sbDone
      (le 4 Config.devId ++ le 4 Config.stepping ++ le 4 Config.serialLo.toNat ++ le 4 Config.serialHi.toNat)) ∧
    exec (.statusRead r) s = .next (o.sbReply sbDone (
      let deep := decide (s.pwr.state = 3)
      let hot := (s.pwr.hot).getD (0xFF, 0)
      le 1 s.powerState ++ le 1 s.statusFlags ++ le 1 (if deep then 0 else hot.1) ++ zeros 1 ++
        le 2 (if deep then 0 else twos 16 (sixteenths hot.2)) ++ zeros 2 ++ le 4 (if deep then 0 else s.pwr.power.toNat) ++ le 8 o.now)) ∧
    ((1 < s.pwr.state ∨ s.pwr.want.isSome = true) → s.mon.trip = false → exec (.wake r) s = .next ((o.wakeBy 2).sbReply sbDone [])) ∧
    (s.err.outOfService = true →
      exec (.serviceRestore r) s = .next (((o.modErr (fun b => { b with starts := [] })).startReset 5 0 5 []).sbReply sbDone []))) ∧
  (∀ (s : State) (r : SbRequest), s.sidebandRuns r noBytes false = true →
    exec (.vi0AddrRead r) s = .next ((s.upto r.ts).sbReply sbDone (((s.vi? 0).map (fun x => addrBytes x.addr)).getD (zeros 48)))) ∧
  (∀ (s : State) (r : SbRequest), s.sidebandRuns r (fun d => d.length == 5) true = true →
    let a := leAt r.data 0 4
    let n := clampN (leAt r.data 4 1) 1 16
    sbInRange a n = true → (0x10000 ≤ a → (s.sbWaits || s.sec.romLoader || s.pwr.state == 3 || !s.pins.mainUp) = false) →
    exec (.regReadSb r) s = .next (((s.upto r.ts).readRange 0 a n).2.sbReply sbDone ((s.upto r.ts).readRange 0 a n).1)) ∧
  (∀ (s : State) (r : SbRequest), s.sidebandRuns r (fun d => d.length == 48) false = true →
    notUnicast (addrAt r.data 0).ipv6 = false → s.tenants.any (fun e => addrClash e.2.addr (addrAt r.data 0)) = false →
    exec (.vi0AddrWrite r) s = .next (State.sbReply { s.upto r.ts with pins := { s.pins with vi0Pend := some (addrAt r.data 0) } } sbDone [])) ∧
  (∀ (s : State) (r : SbRequest), s.sidebandRuns r (fun d => d.length == 4) false = true → s.recoverable = true →
    leAt r.data 0 4 ≤ Config.firmwareBytes →
    exec (.fwRecoverBegin r) s = .next (((s.upto r.ts).modSec (fun b => { b with
      slots := b.slots.set (1 - b.preferred) { b.slot (1 - b.preferred) with valid := false }
      recovery := some (leAt r.data 0 4, []) })).sbReply sbDone [])) ∧
  (∀ (s : State) (r : SbRequest) (n : Nat) (bs : List Byte),
    s.sidebandRuns r (fun d => decide (5 ≤ d.length) && decide (d.length ≤ 244)) false = true → s.recoverable = true →
    s.sec.recovery = some (n, bs) →
    let o := leAt r.data 0 4
    let body := r.data.drop 4
    let padded := if bs.length < o then bs ++ zeros (o - bs.length) else bs
    o + body.length ≤ n →
    exec (.fwRecoverData r) s = .next (((s.upto r.ts).modSec (fun b =>
      { b with recovery := some (n, padded.take o ++ body ++ padded.drop (o + body.length)) })).sbReply sbDone [])) ∧
  (∀ (s : State) (r : SbRequest) (n : Nat) (bs : List Byte), s.sidebandRuns r noBytes false = true → s.recoverable = true →
    s.sec.recovery = some (n, bs) →
    exec (.fwRecoverEnd r) s = .next (if fwOk s.sec (bytesAt bs 0 n) = true then
      ((s.upto r.ts).modSec (fun b => SecBlk.boot { b with
        slots := b.slots.set (1 - b.preferred) (slotOf (bytesAt bs 0 n)), preferred := 1 - b.preferred, trialCount := 0, trial := true
        recovery := none })).sbReply sbDone []
      else ((s.upto r.ts).modSec (fun b => { b with recovery := none })).sbReply sbRefused [])) ∧
  (∀ (s : State) (r : SbRequest) (code : Nat), s.sidebandRuns r (fun _ => true) true = true →
    [0x01, 0x02, 0x03, 0x10, 0x11, 0x20, 0x21, 0x30, 0x31, 0x32].contains code = false →
    exec (.unknownSidebandCode r code) s = .next ((s.upto r.ts).sbReply sbNotApplicable []))

/-- SEQ_CFG_WRITE, MONITOR_CONVERSION, REF_SETTLE_TIMEOUT and the wake sources complete with their own effect (R388, R390,
R391, R392, R395, R396, R398, R399, R400, R401). -/
def Obligations.SentinelEvents : Prop :=
  (∀ (s : State) (ts v e : Nat) (value : Reg),
    (v = 0 → 24 ≤ e → e ≤ 31 → exec (.seqCfgWrite ts v e value) s = .next ((s.upto ts).modMon (fun b => { b with
      cfgPend := tset b.cfgPend e (cfgClamp value.toNat), res := b.res.set e (lget b.res e 0 % 2 ^ 31) }))) ∧
    ((v ≠ 0 ∨ e < 24 ∨ 31 < e) → exec (.seqCfgWrite ts v e value) s = .next (s.upto ts))) ∧
  (∀ (s : State) (ts e sub : Nat) (ratios : List Int) (settled : Bool), s.pins.vddAon = true → ratios ≠ [] →
    let o := s.upto ts
    let w := s.seqCfg e
    let r := convMean (cfgGain w) ratios
    let sb := if cfgCh w = 16 ∨ cfgCh w = 17 then (if cfgScan w then sub else cfgSub w) else 0
    let q := fun (o : State) i => quantity e i (o.codeVolts w r.1)
    let uv := fun (o : State) => ratRoundAway (o.codeVolts w r.1 * 1000000)
    let was := fun (o : State) (q : Option (Nat × Nat × Rat)) => q.bind (fun q => (tget o.mon.filt q.1).bind (fun f => if f.2.2 then some f.1 else none))
    let filtered := fun (o : State) (q : Option (Nat × Nat × Rat)) => (q.map (fun q => o.filterSample q.1 q.2.1 q.2.2)).getD o
    let o1 := o.modMon (fun b => { b with
      seqBusy := true, refNow := o.refOf (cfgRef w), refSettled := settled, res := b.res.set e (resWord r.1 sb r.2 settled) })
    let o2 := filtered o1 (q o1 sb)
    let o3 := if e = 0 then o2.modCal (fun b => { b with refMeas := (uv o2).toNat }) else o2
    let o4 := if e = 12 then o3.dieDecides sb else o3
    let o5 := if e = 1 then o4.refDecides (r.2 || !settled) else o4
    let o6 := if e = 13 then o5.rdacDecides sb (uv o5) else o5
    let o7 := ((q o1 sb).map (fun i => o6.railDecides i.1 (was o1 (q o1 sb)))).getD o6
    ¬ (e = 2 ∧ 18 ≤ sub ∧ sub ≤ 47) → s.seqRuns e = true →
    exec (.monitorConversion ts e sub ratios settled) s = .next (if o7.lastOfRound e sb = true then o7.endRound else o7)) ∧
  (∀ (s : State) (ts sub : Nat) (ratios : List Int) (settled : Bool), s.pins.vddAon = true → ratios ≠ [] → 18 ≤ sub → sub ≤ 47 →
    s.chanOn sub = true →
    let o := s.upto ts
    let w := s.seqCfg 2
    let o1 := o.modMon (fun b => { b with seqBusy := true, refNow := o.refOf (cfgRef w), refSettled := settled })
    let x := 4 * o1.codeVolts w (convMean (cfgGain w) ratios).1
    exec (.monitorConversion ts 2 sub ratios settled) s = .next ((o1.filterSample (sub + 57) 4000000 x).railDecides (sub + 57)
      ((tget o1.mon.filt (sub + 57)).bind (fun f => if f.2.2 then some f.1 else none)))) ∧
  (∀ (s : State) (ts : Nat), exec (.refSettleTimeout ts) s = .next ((s.upto ts).modMon (fun b => { b with refSettled := false })) ∧
    exec (.wakeL ts) s = .next ((s.upto ts).wakeBy 1) ∧
    (s.mon.wakeArmed = true → s.mon.wakeAt ≤ (s.upto ts).now →
      exec (.wakeAt ts) s = .next (((s.upto ts).modMon (fun b => { b with wakeArmed := false })).wakeBy 4))) ∧
  (∀ (s : State) (ts : Nat) (value : Reg),
    let o := s.upto ts
    let t := value.toNat % 2 ^ 32 * 2 ^ 32 + s.mon.wakeLo
    ((t = 0 ∨ o.now < t) → exec (.wakeAtHiWrite ts 0 value) s = .next (o.modMon (fun b => { b with wakeAt := t, wakeArmed := decide (t ≠ 0) }))) ∧
    (t ≠ 0 → t ≤ o.now → 1 < s.pwr.state → exec (.wakeAtHiWrite ts 0 value) s = .next ((o.modMon (fun b =>
      { b with wakeAt := 0, wakeLo := 0, wakeArmed := false })).wakeBy 4)) ∧
    (t ≠ 0 → t ≤ o.now → s.pwr.state ≤ 1 → exec (.wakeAtHiWrite ts 0 value) s = .next (o.modMon (fun b =>
      { b with wakeAt := t, wakeLo := b.wakeLo, wakeArmed := false })))) ∧
  (∀ (s t : State) (f : Frame) (p : Packet), s.pwr.state = 2 → f.lport = s.wakePort → (s.upto f.ts).rxPort f.lport f.rx = (true, t) →
    f.sloson = some p → t.wakeOk p = true →
    exec (.wakePacket f) s = .next (if heldBytes t.mon.held + p.bytes.length ≤ Config.holdBytes
      then (t.modMon (fun b => { b with held := b.held ++ [f] })).wakeBy 3
      else (t.modMon (fun b => { b with wakeDropped := bump b.wakeDropped })).wakeBy 3))

/-- REG_READ, REG_WRITE, DIAG_ECHO, CNT_CLEAR, PORT_MODE_WRITE, ENERGY_MJ_LO_READ and TX_PN_LO_READ complete with their
own effect (R89, R233, R259, R295, R296, R423, R443). -/
def Obligations.RegisterCommands : Prop :=
  (∀ (s : State) (p : Packet) (v : Nat) (x : Vi), s.admits p 0x0E01 v = true →
    let o := s.opened p v
    let a := leAt (pPay p) 0 4
    let n := clampN (leAt (pPay p) 4 2) 1 64
    o.vi? v = some x → rangeRefusal v x a n = none →
    let r := (List.range n).foldl (fun (r : List Byte × State) i =>
      (r.1 ++ le 4 (r.2.readReg v (a + 4 * i)), r.2.latch v (a + 4 * i))) ([], o)
    exec (.regRead p) s = .next (s.completes p v r.2 stOk (le 4 a ++ le 2 n ++ zeros 2 ++ r.1))) ∧
  (∀ (s : State) (p : Packet) (v : Nat) (x : Vi), s.admits p 0x0E02 v = true →
    let o := s.opened p v
    let a := leAt (pPay p) 0 4
    let n := leAt (pPay p) 4 2
    o.vi? v = some x → rangeRefusal v x a n = none →
    let o' := (List.range n).foldl (fun s i => s.writeReg v (a + 4 * i) (leAt (pPay p) (8 + 4 * i) 4)) o
    exec (.regWrite p) s = .next (s.completes p v o' stOk
      (le 4 a ++ le 2 n ++ zeros 2 ++ (List.range n).flatMap (fun i => le 4 (o'.readReg v (a + 4 * i)))))) ∧
  (∀ (s : State) (p : Packet) (v : Nat), s.admits p 0x0E03 v = true →
    exec (.diagEcho p) s = .next (s.completes p v (s.opened p v) stOk (pPay p))) ∧
  (∀ (s : State) (ts v n y : Nat) (x : Vi) (value : Reg), s.vi? v = some x → n < 3072 → physYelm v x.part n = some y →
    bitOf s.clk.ywinEn (y / 256) = true → bitOf value.toNat 0 = true →
    exec (.cntClear ts v n value) s = .next ((s.upto ts).modYelm y (fun ye => { ye with counts := List.replicate 7 0 }))) ∧
  (∀ (s : State) (ts port : Nat) (value : Reg), s.gated 1 = false →
    exec (.portModeWrite ts 0 port value) s = .next ((s.upto ts).modNet (fun n => { n with
      portPend := n.portPend.set port (some (min (value.toNat % 4) 2)), eee := n.eee.set port (bitOf value.toNat 2) }))) ∧
  (∀ (s : State) (ts v : Nat), s.gated 5 = false → s.gated 10 = false →
    exec (.energyMjLoRead ts v) s = .next ((s.upto ts).modVi v (fun x => { x with sel := { x.sel with energyHi := some (hi32 s.pwr.energyMj) } })) ∧
    exec (.txPnLoRead ts v) s = .next ((s.upto ts).readTxPnLo v))

/-- ATTEST_GET, MACSEC_KEY, FW_UPDATE and the events and registers of security complete with their own effect (R293, R429,
R430, R431, R435, R436, R437, R438, R439, R442). -/
def Obligations.SecurityCommands : Prop :=
  (∀ (s : State) (p : Packet) (v : Nat) (x : Vi), s.admits p 0x0C01 v = true →
    let o := s.opened p v
    let body := o.reportBody v x (bytesAt (pPay p) 0 32)
    let o' := (o.modEntry v (s.place p v) (fun e => { e with state := .running })).modSec (fun k => { k with
      batch := k.batch ++ [(v, s.place p v, body)], batchStart := some (k.batchStart.getD p.ts) })
    o.vi? v = some x →
    (o.sec.pufFail = true → exec (.attestGet p) s = .next (s.completes p v o stOk (body ++ zeros 3908))) ∧
    (o.sec.pufFail = false → exec (.attestGet p) s = .next (if 256 ≤ o'.sec.batch.length then o'.closeBatch else o'))) ∧
  (∀ (s : State) (ts t : Nat), s.sec.batchStart = some t → t + s.sec.batchS * 1000000000 ≤ (s.upto ts).now →
    exec (.attestBatchClose ts) s = .next (s.upto ts).closeBatch) ∧
  (∀ (s : State) (ts : Nat), s.sec.treeWork = true →
    exec (.lmsTreeDerived ts) s = .next (s.sec.waitingBatches.foldl (fun s b => s.signBatch b.1 b.2) ((s.upto ts).modSec (fun k => { k with
      treeWork := false, lmsTree := k.lmsTree + 1, lmsLeft := Config.lmsLeaves, waitingBatches := [] })))) ∧
  (∀ (s : State) (p : Packet) (v : Nat), s.admits p 0x0C02 v = true →
    let o := s.opened p v
    let lp := leAt (pPay p) 0 1
    let dir := leAt (pPay p) 1 1
    let ch := leAt (pPay p) 2 1
    let an := leAt (pPay p) 3 1
    let m := lget o.sec.ms lp .off
    let m' := if (bytesAt (pPay p) 36 32).all (· == 0) = true then m.delete dir ch an else if dir = 0 then m
      else { m with rx := tset m.rx ch ((tgetD m.rx ch []).filter (fun a => a.an != an) ++ [macAssoc (pPay p)]) }
    o.portExists lp = true → dir ≤ 1 → an ≤ 3 → (dir = 1 → ch ≤ 7) →
    exec (.macsecKey p) s = .next (s.completes p v (o.modSec (fun b => { b with ms := b.ms.set lp m' })) stOk (bytesAt (pPay p) 0 4 ++ zeros 4))) ∧
  (∀ (s : State) (p : Packet) (v : Nat) (x : Vi) (r : Region), s.admits p 0x0C03 v = true →
    staticFwUpdate (s.arrived p v) (cmdOfPacket v p) = none →
    let o := s.opened p v
    o.vi? v = some x → tget x.regions (leAt (pPay p) 0 4) = some r →
    x.jrnl.entries.any (fun e => e.2.opcode == 0x0C03 && e.2.state == .running && e.1 != s.place p v) = false →
    o.connOk v r.rc = true →
    exec (.fwUpdate p) s = .next ((o.modEntry v (s.place p v) (fun e => { e with state := .running })).rdma v r.rc (.command (s.place p v)) false
      (r.addr + leAt (pPay p) 8 8) (leAt (pPay p) 16 8) (pQueue p) [])) ∧
  (∀ (s : State) (ts w e : Nat) (bs : List Byte), s.sec.fwPackage = some (w, e, bs) →
    let o := (s.upto ts).modSec (fun b => { b with fwPackage := none })
    let n := slotOf bs
    exec (.fwSlotWritten ts true) s = .next (((o.modSec (fun b => { b with
      slots := b.slots.set w n, preferred := w, trialCount := 0, staged := true, trial := true })).outcome 0 e stOk
        (le 1 n.major ++ le 1 n.minor ++ le 2 n.build)).fwNext) ∧
    exec (.fwSlotWritten ts false) s = .next ((o.outcome 0 e stNoObject (zeros 4)).fwNext)) ∧
  (∀ (s : State) (ts : Nat) (value : Reg), s.gated 10 = false →
    let o := s.upto ts
    (bitOf value.toNat 0 = true → exec (.svnCommit ts 0 value) s = .next (o.modSec (fun b => { b with
      trial := false, trialCount := 0, minSvn := max b.minSvn (b.slot b.bootSlot).svn }))) ∧
    (bitOf value.toNat 0 = true → exec (.opkeyCommit ts 0 value) s = .next (o.modSec (fun b => { b with
      opDigest := b.opDigest.set b.opSel b.opWrite, opValid := b.opValid ||| 2 ^ b.opSel, opDirty := false }))) ∧
    (bitOf value.toNat 1 = true → exec (.opkeyRevoke ts 0 value) s = .next ((o.modSec (fun b => { b with
      opDigest := b.opDigest.set s.sec.opSel (zeros 48)
      opValid := if bitOf b.opValid s.sec.opSel then b.opValid - 2 ^ s.sec.opSel else b.opValid, opDirty := false })).modErr (fun b =>
        { b with packs := b.packs.filter (fun p => p.2.signer != s.sec.opSel) }))) ∧
    (bitOf value.toNat 0 = true → exec (.msOff ts 0 value) s = .next (o.modSec (fun b =>
      { b with ms := b.ms.set s.sec.msSel { lget b.ms s.sec.msSel .off with tx := none, rx := [] } }))))

/-- PAIR_JOIN, PAIR_LEAVE, PAIR_TAKEOVER and PAIR_UNMIRRORED complete with their own effect (R292, R352, R363, R364, R366,
R368). -/
def Obligations.PairCommands : Prop :=
  (∀ (s : State) (p : Packet) (v t : Nat) (x : Vi), s.admits p 0x0B01 v = true →
    let o := s.opened p v
    let role := leAt (pPay p) 2 1
    let rc := leAt (pPay p) 4 2
    let n := leAt (pPay p) 6 2
    let o' := (o.modEntry v (s.place p v) (fun e => { e with state := .running })).modPair t (fun p' => { p'.ended with
      role := role + 1, state := 1, leaseMs := if n = 0 then 500 else clampN n 50 5000, peerVi := leAt (pPay p) 8 2, rc := rc, former := none
      joinEntry := some (v, s.place p v), joinStart := o.now, checking := decide (role = 0) })
    pairTarget o (s.command p v) = some (t, x) → thas x.conns rc = true → role ≤ 1 → leAt (pPay p) 8 2 ≤ 255 → o.joinOk x role = true →
    exec (.pairJoin p) s = .next (if role = 0 then o'.rdma t rc .pairCheck false 0 64 0 [] else o')) ∧
  (∀ (s : State) (p : Packet) (v t : Nat) (x : Vi), s.admits p 0x0B02 v = true →
    let o := s.opened p v
    let o' := if o.pairUp x then o.pairSend t x.pair.rc .leave else o
    pairTarget o (s.command p v) = some (t, x) → x.pair.role ≠ 0 → x.pair.state < 5 →
    exec (.pairLeave p) s = .next (s.completes p v (o'.unpair t x) stOk (bytesAt (pPay p) 0 2 ++ zeros 2))) ∧
  (∀ (s : State) (p : Packet) (v t : Nat) (x : Vi), s.admits p 0x0B03 v = true →
    let o := s.opened p v
    let o' := (o.modEntry v (s.place p v) (fun e => { e with state := .running })).modPair t (fun p' => { p' with
      state := 6, takeEntry := some (v, s.place p v), takeStart := o.now, awaiting := o.pairUp x, group := [] })
    pairTarget o (s.command p v) = some (t, x) → x.pair.role = 2 → x.pair.state = 2 → x.digestDiff = false →
    exec (.pairTakeover p) s = .next (if o.pairUp x then o'.pairSend t x.pair.rc .depose else o'.takeover t)) ∧
  (∀ (s : State) (p : Packet) (v t : Nat) (x : Vi), s.admits p 0x0B04 v = true →
    let o := s.opened p v
    let rep := bytesAt (pPay p) 0 3 ++ zeros 1
    pairTarget o (s.command p v) = some (t, x) → x.pair.role = 1 → x.pair.state ≠ 5 →
    (leAt (pPay p) 2 1 ≠ 0 → x.pair.state ≠ 4 →
      let o1 := (o.joinFails t).modPair t (fun p' => { p' with
        state := 4, sending := false, checking := false, rejoin := false, snapDue := false, unacked := [], unmirrored := (o.joinFails t).now
        leaseEnd := 0, leaveDue := true })
      let o2 := if o1.pairUp x then o1.pairReturns t x.pair.rc else o1
      exec (.pairUnmirrored p) s = .next (s.completes p v (o2.releaseAll t) stOk rep)) ∧
    (leAt (pPay p) 2 1 = 0 → x.pair.state = 4 → o.pairUp x = true →
      exec (.pairUnmirrored p) s = .next (s.completes p v ((o.modPair t (fun p' => { p' with
        state := 1, checking := true, rejoin := true, leaveDue := false, joinStart := o.now })).rdma t x.pair.rc .pairCheck false 0 64 0 []) stOk rep)))

/-- MIRROR_RECORD, ACK, KEEPALIVE, the timeouts, DEPOSE, DEPOSED and LEAVE complete with their own effect (R352, R354,
R355, R356, R361, R362, R363, R364, R366, R368). -/
def Obligations.PairEvents : Prop :=
  (∀ (s : State) (ts v : Nat) (r : MirrorRecord) (x : Vi), s.vi? v = some x → x.pair.former = none → x.pair.role = 2 → x.pair.state = 2 →
    let o := (s.upto ts).modPair v (fun p => { p with expect := r.seqno + 1, group := x.pair.group ++ [r] })
    (r.crcOk = true → r.seqno = x.pair.expect → r.length ≤ 16777216 →
      exec (.mirrorRecord ts v r) s = .next (if r.groupEnd = true then o.mirrorGroup v (x.pair.group ++ [r]) r.seqno r.stamp else o)) ∧
    ((r.crcOk = false ∨ r.seqno ≠ x.pair.expect ∨ 16777216 < r.length) →
      exec (.mirrorRecord ts v r) s = .next ((s.upto ts).modPair v (fun p => { p with state := 1, broken := true, group := [] })))) ∧
  (∀ (s : State) (ts v seqno stamp : Nat) (x : Vi), s.vi? v = some x → x.pair.former = none → x.pair.role = 1 →
    (x.pair.state = 2 ∨ x.pair.state = 3) → x.pair.sending = true → seqno < x.pair.nextSeqno →
    let p := x.pair
    let done := p.unacked.filter (fun r => decide (r.seqno ≤ seqno))
    let at_ := max p.ackStamp (((done.getLast?).map PairRec.stamp).getD stamp)
    let lease := at_ + p.leaseMs * 1000000
    exec (.ack ts v seqno stamp) s = .next (((s.upto ts).modPair v (fun p => { p with
      unacked := p.unacked.filter (fun r => decide (seqno < r.seqno)), ackStamp := at_, leaseEnd := lease
      state := if p.state = 3 ∧ (s.upto ts).now < lease then 2 else p.state })).releaseAccepted v done)) ∧
  (∀ (s : State) (ts v : Nat) (x : Vi), s.vi? v = some x →
    let o := s.upto ts
    (x.pair.lastSent + x.pair.leaseMs * 125000 ≤ o.now → exec (.keepalive ts v) s = .next (o.emit v none true .keepalive)) ∧
    (x.pair.role = 1 → x.pair.state = 2 → x.pair.leaseEnd ≤ o.now → exec (.leaseExpiry ts v) s = .next (o.fence v true)) ∧
    (x.pair.role = 2 → x.pair.state = 6 → x.pair.takeStart + 2 * x.pair.leaseMs * 1000000 ≤ o.now →
      exec (.deposeTimeout ts v) s = .next (o.takeover v)) ∧
    (x.pair.role = 2 → x.pair.state = 1 → x.pair.joinEntry.isSome = true → x.pair.expect = 0 → x.pair.joinStart + 10000000000 ≤ o.now →
      exec (.joinTimeout ts v) s = .next ((o.joinFails v).modPair v Pair.ended)) ∧
    (x.pair.role = 1 → x.pair.state ≠ 5 → exec (.depose ts v) s =
      .next ((((o.abandonSteps (fun _ t => t.vi == v && !t.ending)).1).pairSend v x.pair.rc .deposed).enterDeposed v)) ∧
    (x.pair.role = 2 → x.pair.state = 6 → exec (.deposed ts v) s = .next (o.takeover v)) ∧
    (x.pair.role = 1 → x.pair.state ≠ 5 → x.pair.state ≠ 4 →
      exec (.deposed ts v) s = .next ((o.modPair v (fun p => { p with deposedSeen := true })).enterDeposed v)) ∧
    (x.pair.role ≠ 0 → x.pair.state < 5 → exec (.leave ts v) s = .next (o.unpair v x)))

/-- BEAT_BOUNDARY acts in the order of the table of R307 (R307, R306, R308, R403). -/
def Obligations.BeatBoundary : Prop :=
  (∀ s : State, s.pins.vddAon = false → exec .beatBoundary s = .next s) ∧
  (∀ s : State, s.pins.vddAon = true →
    let b := s.comingBoundary
    let o := (({ s with now := b } : State).modTime (fun t => { t with boundary := b })).timeStep.periodChange
    ((1 < o.pwr.state ∨ o.pins.mainUp = false) → exec .beatBoundary s = .next o.preferenceChange.windowBoundary.countBeat) ∧
    (o.pwr.state ≤ 1 → o.pins.mainUp = true →
      let o1 := (((o.afterWake).trimBoundary).recipeBoundary).preferenceChange
      let o2 := if o1.serving then (tkeys o1.vis).foldl (fun s v => s.barrierBoundary v) o1 else o1
      let o3 := (o2.windowBoundary).ageBoundary
      let o4 := if o3.serving then o3.refreshBoundary else o3
      let o5 := (((o4.portBoundary 0).portBoundary 1).addrBoundary).powerBoundary.clockBoundary
      let o6 := if o5.serving then (((((o5.pairBoundary).takeovers).checkpoint).heartbeatBoundary).retireBoundary).maintBoundary else o5
      exec .beatBoundary s = .next (o6.countBeat.drainPorts.pumpAllTiles.wake)))

/-- A step takes the command at the front of the queue and runs it on the state with the rest of the queue (R264, R266). -/
def Obligations.StepRunsExec : Prop :=
  (∀ (c : Instr) (rest : List Instr) (s : State), s.pending = c :: rest → step s = exec c { s with pending := rest }) ∧
  (∀ (s : State), s.pending = [] → step s = .next s)

/-- Every step answers a next state, takes only the front command, never lets time or MIN_SVN step backward, and keeps
memory canonical (R302, R430, R266). -/
def Obligations.EveryStepKeeps : Prop :=
  ∀ (s : State), Memory.wf s = true →
    ∃ t, step s = .next t ∧ t.pending = s.pending.tail ∧ s.now ≤ t.now ∧ s.sec.minSvn ≤ t.sec.minSvn ∧ Memory.wf t = true

/-- The state after reset has an empty queue and memory in canonical form (R302, R430, R266). -/
def Obligations.ResetKeeps : Prop :=
  State.reset.pending = [] ∧ Memory.wf State.reset = true ∧ ∀ (a : Nat), memGet State.reset.hbm a = 0

/-- What reset leaves: the Reset columns of the register tables (R259, R318, R349, R385, R400, R421, R422, R442, R450,
R247, R231, R304). -/
def Obligations.ResetState : Prop :=
  let s := State.reset
  (s.net.portMode = [0, 0] ∧ s.net.linkUp = 0 ∧ s.net.maxFrame = 9216 ∧ s.net.udp = 0xBA04 ∧ s.net.prioMap = 0x76543210 ∧ s.net.trust = 0 ∧
    s.net.pfcEn = 0x08 ∧ s.net.pfcWd = 100 ∧ s.net.cplRetry = 8 ∧ s.net.dscpLo = 0x18100800 ∧ s.net.dscpHi = 0x38302820 ∧
    s.net.ets = List.replicate 7 (false, 14) ++ [(true, 14)] ∧ s.net.rxNoVi = 0 ∧ s.net.rxOther = 0) ∧
  (s.time.unset = true ∧ traced s.time = false ∧ s.time.active = 3 ∧ s.time.pref = 3 ∧ s.time.srcEn = 0 ∧ s.time.beatLog2 = 3 ∧
    s.period = 1000000 ∧ s.time.stepEvents = 0 ∧ s.time.lossEvents = 0) ∧
  (s.err.ring = Sys2Proof.Machine.Ring.empty ∧ s.err.missed = 0 ∧ s.err.outOfService = false ∧ s.err.lastDomain = 0xF ∧ s.err.devResets = 0 ∧
    s.err.resets = []) ∧
  (s.cal.refFault = false ∧ s.cal.passActive = false ∧ s.cal.rotEn = true ∧ s.cal.src = 0 ∧ s.cal.refUv = 1250000 ∧
    s.cal.rotPeriod = 600 ∧ s.cal.passCount = 0) ∧
  (s.mon.refSettled = false ∧ s.mon.userEn = 0 ∧ s.mon.rounds = 0 ∧ s.mon.railAlarm = 0 ∧ s.mon.maintEn = true ∧ s.mon.wakeMargin = 400) ∧
  (s.pwr.state = 0 ∧ s.pwr.brakeOn = false ∧ s.pwr.capEnf = 850 ∧ s.pwr.capReq = 850 ∧ s.pwr.govLit = 16 ∧ s.pwr.graceMs = 200 ∧
    s.pwr.shutdownC = 112 ∧ s.pwr.throttleC = 102 ∧ s.pwr.warnC = 95 ∧ s.pwr.tripDie = 0xFF ∧ s.pwr.energyMj = 0) ∧
  (s.clk.clkEn = 0x7FF ∧ s.clk.ywinEn = 0xFFF ∧ s.clk.coast = 0 ∧ s.clk.pllSel = 0) ∧
  (s.sec.imgSigReq = false ∧ s.sec.pufFail = false ∧ s.sec.lmsLeft = 1048576 ∧ s.sec.batchS = 10 ∧ s.sec.opValid = 0) ∧
  (s.pins.pbrakeL = true ∧ s.pins.pwrReq = true ∧ s.pins.thermTripL = true) ∧
  (tkeys s.vis = [0] ∧ (s.vi? 0).map (fun x => tkeys x.queues) = some [0] ∧
    (s.vi? 0).map (fun x => (x.prec.window, x.prec.thresholds)) = some (1000, [1000, 100, 50000, 500, 10, 5000, 50000, 1000]))

/-- A request that fails a check of R266 is answered, dropped or counted as its table says, and does nothing else (R238,
R249, R264, R266, R267, R399). -/
def Obligations.RequestChecks : Prop :=
  ∀ (r : Nat × (Packet → Instr)), r ∈ requestRows → ∀ (s : State) (p : Packet), pOpcode p = r.1 →
    let u := s.entered p
    let t := u.takeTicket p
    (s.comesIn p = false → exec (r.2 p) s = .next u) ∧
    (s.comesIn p = true →
      (∀ (v st : Nat), u.check p = .reply v st → exec (r.2 p) s = .next (t.answer v p (fReply + fFinal) st [])) ∧
      (∀ (v : Nat), u.check p = .duplicate v → exec (r.2 p) s = .next (t.repeatSent v p)) ∧
      (u.check p = .drop → exec (r.2 p) s = .next t) ∧
      (u.check p = .ignore → exec (r.2 p) s = .next u) ∧
      (u.check p = .dropOther → exec (r.2 p) s = .next (t.modNet (fun n => { n with rxOther := bump n.rxOther }))) ∧
      (u.check p = .dropNoVi → exec (r.2 p) s = .next (u.modNet (fun n => { n with rxNoVi := bump n.rxNoVi }))) ∧
      (u.check p = .dropMismatch → exec (r.2 p) s = .next (u.modNet (fun n => { n with rxMismatch := bump n.rxMismatch }))))

/-- A request that passes checks 1 to 13: its static check, the room in the journal, then the effect of its opcode on the
state it is journaled in (R266, R271, R310, R312). -/
def Obligations.RequestTaken : Prop :=
  ∀ (r : Nat × (Packet → Instr)), r ∈ requestRows → ∀ (st : StaticCheck) (eff : Effect), commandOf r.1 = some (st, eff) →
    ∀ (s : State) (p : Packet) (v : Nat) (x : Vi), pOpcode p = r.1 → s.comesIn p = true → (s.entered p).check p = .pass v →
      (s.arrived p v).vi? v = some x → thas x.queues (pQueue p) = true →
      (∀ (status : Nat) (pay : List Byte), st (s.arrived p v) (cmdOfPacket v p) = some (status, pay) →
        exec (r.2 p) s = .next ((s.arrived p v).answer v p (fReply + fFinal) status pay)) ∧
      (st (s.arrived p v) (cmdOfPacket v p) = none → x.fits (entrySize (pOpcode p) p) = false →
        exec (r.2 p) s = .next (((s.arrived p v).modVi v (fun x => x.modJrnl (fun j => { j with fullCount := bump j.fullCount }))).answer v p
          (fReply + fFinal) stJournalFull [])) ∧
      (st (s.arrived p v) (cmdOfPacket v p) = none → x.fits (entrySize (pOpcode p) p) = true →
        exec (r.2 p) s = .next ((s.opened p v).runEffect eff (s.command p v)))

/-- An answer to a failed check is not journaled and marks no PSN: it changes nothing but what sending changes (R266,
R267, R310). -/
def Obligations.RefusalLeavesNothing : Prop :=
  ∀ (s : State) (v : Nat) (p : Packet) (flags st : Nat) (pay : List Byte),
    let t := s.answer v p flags st pay
    (∀ (w : Nat), w ≠ v → t.vi? w = s.vi? w) ∧
    (∀ (x : Vi), s.vi? v = some x → ∃ y, t.vi? v = some y ∧ y.jrnl = x.jrnl ∧ y.queues = x.queues ∧ y.addr = x.addr) ∧
    (∀ (a : Nat), memGet t.hbm a = memGet s.hbm a) ∧ t.steps = s.steps ∧ t.waves = s.waves ∧ t.yelms = s.yelms

/-- An accepted request is journaled at the next place with its stamp and bytes, its PSN is marked, ACCEPTED is sent where
it has two phases; nothing else changes (R266, R267, R271, R310, R311). -/
def Obligations.AcceptedRequest : Prop :=
  ∀ (s : State) (p : Packet) (op v : Nat), s.admits p op v = true →
    ∃ x q y, (s.arrived p v).vi? v = some x ∧ tget x.queues (pQueue p) = some q ∧ (s.opened p v).vi? v = some y ∧
      s.place p v = x.jrnl.next ∧ y.jrnl.next = x.jrnl.next + 1 ∧
      tget y.jrnl.entries (s.place p v) = some { entryOf p q with acceptedSent := opTwoPhase op && !x.pair.holding } ∧
      (∀ (k : Nat), k ≠ s.place p v → tget y.jrnl.entries k = tget x.jrnl.entries k) ∧
      tget y.queues (pQueue p) = some (q.mark p) ∧
      (∀ (k : Nat), k ≠ pQueue p → tget y.queues k = tget x.queues k) ∧
      y.ctr.rx = bump x.ctr.rx ∧ y.addr = x.addr ∧
      (∀ (w : Nat), w ≠ v → (s.opened p v).vi? w = s.vi? w) ∧
      (∀ (a : Nat), memGet (s.opened p v).hbm a = memGet s.hbm a) ∧ (s.opened p v).steps = s.steps ∧
      (s.opened p v).waves = s.waves ∧ (s.opened p v).yelms = s.yelms

/-- A request that has been accepted is a duplicate when it arrives again: no command is run twice (R238, R266, R267). -/
def Obligations.AcceptedOnce : Prop :=
  ∀ (s : State) (p : Packet) (op v ts : Nat), s.admits p op v = true → unjournaled op = false → p.pull = none →
    (s.opened p v).check { p with ts := ts } = .duplicate v

/-- A command is completed once: its entry records the first outcome and keeps it (R271, R310, R313). -/
def Obligations.OutcomeOnce : Prop :=
  ∀ (s : State) (v e st : Nat) (pay : List Byte) (n : Entry), s.entry? v e = some n →
    let t := s.outcome v e st pay
    (n.state = .accepted ∨ n.state = .running →
      t.entry? v e = some { n with state := .recorded, status := st, payload := pay } ∧
      (∀ (st' : Nat) (pay' : List Byte), t.outcome v e st' pay' = t) ∧
      (∀ (k : Nat), k ≠ e → t.entry? v k = s.entry? v k) ∧ (∀ (w : Nat), w ≠ v → t.vi? w = s.vi? w) ∧
      (∀ (a : Nat), memGet t.hbm a = memGet s.hbm a) ∧ t.steps = s.steps ∧ t.waves = s.waves ∧ t.yelms = s.yelms) ∧
    (n.state = .recorded ∨ n.state = .sent ∨ n.state = .retired → t = s)

/-- The space of a journal ring: written at the tail, reclaimed from the head as far as the first entry that is not
retired, refused where a request does not fit (R312). -/
def Obligations.JournalSpace : Prop :=
  (∀ (s : State) (p : Packet) (op v : Nat) (x : Vi), s.admits p op v = true → (s.arrived p v).vi? v = some x →
    (∀ e ∈ x.jrnl.entries, e.1 < x.jrnl.next) →
    ∃ y n, (s.opened p v).vi? v = some y ∧ y.jrnl.entries = x.jrnl.entries ++ [(x.jrnl.next, n)] ∧ n.req = p) ∧
  (∀ (s : State) (v e : Nat) (x : Vi), s.vi? v = some x → ∃ y, (s.retire v e).vi? v = some y ∧
    y.jrnl.entries = (tmod x.jrnl.entries e (fun n => { n with state := .retired })).dropWhile (fun n => n.2.state == .retired)) ∧
  (∀ (j : Journal) (a b : Tbl Entry) (e : Nat × Entry), j.entries = a ++ e :: b → e.2.state ≠ .retired →
    ∃ a', j.reclaim.entries = a' ++ e :: b ∧ a' <:+ a) ∧
  (∀ (r : Nat × (Packet → Instr)), r ∈ requestRows → ∀ (st : StaticCheck) (eff : Effect), commandOf r.1 = some (st, eff) →
    ∀ (s : State) (p : Packet) (v : Nat) (x : Vi), pOpcode p = r.1 → s.comesIn p = true → (s.entered p).check p = .pass v →
      (s.arrived p v).vi? v = some x → thas x.queues (pQueue p) = true → st (s.arrived p v) (cmdOfPacket v p) = none →
      x.part.jrnl * 1048576 < x.jrnl.used + entrySize (pOpcode p) p →
      exec (r.2 p) s = .next (((s.arrived p v).modVi v (fun x => x.modJrnl (fun j => { j with fullCount := bump j.fullCount }))).answer v p
        (fReply + fFinal) stJournalFull []))

/-- Where a PSN lies, and what accepting it leaves: H moves only ahead, an accepted number is a duplicate from then on
(R267). -/
def Obligations.PsnWindow : Prop :=
  (∀ (w : Window) (k : Nat), w.h = none → psnPlace w k = .fresh) ∧
  (∀ (w : Window) (h k : Nat), w.h = some h →
    let d := (k + 2 ^ 32 - h) % 2 ^ 32
    (1 ≤ d → d ≤ 2 ^ 31 - 1 → psnPlace w k = .fresh ∧ (psnMark w k).h = some k) ∧
    (2 ^ 31 ≤ d → d ≤ 2 ^ 32 - 65536 → psnPlace w k = .behind) ∧
    (d = 0 ∨ 2 ^ 32 - 65535 ≤ d → (psnPlace w k = if k ∈ w.accepted then .duplicate else .fresh) ∧ (psnMark w k).h = some h)) ∧
  (∀ (w : Window) (k : Nat), psnPlace w k = .fresh → psnPlace (psnMark w k) k = .duplicate) ∧
  (∀ (w : Window) (h k j : Nat), w.h = some h → h < 2 ^ 32 → k < 2 ^ 32 → j < 2 ^ 32 → psnPlace w k = .fresh →
    (k + 2 ^ 32 - h) % 2 ^ 32 ≤ 2 ^ 31 - 65536 ∨ 2 ^ 31 ≤ (k + 2 ^ 32 - h) % 2 ^ 32 → psnPlace w j = .duplicate →
    psnPlace (psnMark w k) j ≠ .fresh)

/-- A full ring takes no record: it counts the loss and overwrites nothing, each ring for itself (R334). -/
def Obligations.ErrorRing : Prop :=
  (∀ (s : State) (size : Nat) (g : Sys2Proof.Machine.Ring) (r : Rec), g.recs.any (coalesces s r) = false → size ≤ g.recs.length →
    let g' := ringPut s size g r
    g'.recs = g.recs ∧ g'.written = g.written ∧ g'.coalesced = g.coalesced ∧ g'.lost = bump g.lost ∧ g'.lostLast = r.first ∧
      g'.lostFirst = if g.lost = 0 then r.first else g.lostFirst) ∧
  (∀ (s : State) (size : Nat) (g : Sys2Proof.Machine.Ring) (r : Rec) (i : Nat) (o : Rec), g.recs[i]? = some o →
    ∃ o', (ringPut s size g r).recs[i]? = some o' ∧ { o' with count := o.count, last := o.last } = o) ∧
  (∀ (s : State) (r : Rec),
    (s.report r).err.ring = ringPut s 4096 s.err.ring (if r.yelm = 0xFFFF then r else { r with flags := r.flags ||| 4 }) ∧
    (∀ (w : Nat), w ≠ r.vi ∨ w = 0 → (s.report r).vi? w = s.vi? w) ∧
    (∀ (x : Vi), r.vi ≠ 0 → s.vi? r.vi = some x →
      (s.report r).vi? r.vi = some { x with ring := ringPut s 256 x.ring (tenantView x.part r) }))

/-- The codes of PROFILE: the eleven of R193 under their formats, and no other (R193). -/
def Obligations.ProfileCodes : Prop :=
  (profileOf 1 0x10 = some ⟨[1]⟩ ∧ profileOf 1 0x11 = some ⟨[2]⟩ ∧ profileOf 1 0x12 = some ⟨[3]⟩ ∧
    profileOf 2 0x20 = some ⟨[1, 1]⟩ ∧ profileOf 2 0x21 = some ⟨[2, 1]⟩ ∧ profileOf 2 0x22 = some ⟨[3, 1]⟩ ∧ profileOf 2 0x23 = some ⟨[2, 2]⟩ ∧
    profileOf 3 0x30 = some ⟨[1, 1, 1]⟩ ∧ profileOf 3 0x31 = some ⟨[2, 1, 1]⟩ ∧ profileOf 3 0x32 = some ⟨[2, 2, 1]⟩ ∧
    profileOf 3 0x33 = some ⟨[3, 2, 1]⟩) ∧
  (∀ (fmt code : Nat), (fmt, code) ∉ [(1, 0x10), (1, 0x11), (1, 0x12), (2, 0x20), (2, 0x21), (2, 0x22), (2, 0x23), (3, 0x30), (3, 0x31), (3, 0x32),
    (3, 0x33)] → profileOf fmt code = none)

/-- HBM bytes: what is written is read back, every other byte stays, zeroed ranges read 0, and equal contents are equal
data (R131, R135, R158). -/
def Obligations.MemoryBytes : Prop :=
  (∀ (m : List Host.Cell) (a : Nat) (bs : List Byte), memWf m = true →
    memWf (memWrite m a bs) = true ∧ memRead (memWrite m a bs) a bs.length = bs ∧
    (∀ (k : Nat), k < a ∨ a + bs.length ≤ k → memGet (memWrite m a bs) k = memGet m k)) ∧
  (∀ (m : List Host.Cell) (a n : Nat), memWf m = true →
    memWf (memZero m a n) = true ∧ (∀ (k : Nat), memGet (memZero m a n) k = if a ≤ k ∧ k < a + n then 0 else memGet m k)) ∧
  (∀ (m m' : List Host.Cell), memWf m = true → memWf m' = true → (∀ (k : Nat), memGet m k = memGet m' k) → m = m')

/-- Balanced ternary: every integer of the range has exactly one n-trit representation; truncation rounds to the nearest,
negation swaps trits (R14, R19, R21). -/
def Obligations.BalancedTernary : Prop :=
  (∀ (n : Nat) (v : Int), v.natAbs ≤ tritMax n →
    (trits n v).length = n ∧ (∀ t ∈ trits n v, t = -1 ∨ t = 0 ∨ t = 1) ∧ tritVal (trits n v) = v) ∧
  (∀ (ts : List Int), (∀ t ∈ ts, t = -1 ∨ t = 0 ∨ t = 1) →
    (tritVal ts).natAbs ≤ tritMax ts.length ∧ trits ts.length (tritVal ts) = ts ∧ tritVal (ts.map (fun t => -t)) = -tritVal ts ∧
    ∀ (k : Nat), 2 * (tritVal ts - 3 ^ k * tritVal (ts.drop k)).natAbs < 3 ^ k) ∧
  ([1, 2, 3, 4].map tritMax = [1, 4, 13, 40])

/-- Five trits in a byte: packing and unpacking agree, and bytes from 243 on are invalid (R32). -/
def Obligations.TritPacking : Prop :=
  (∀ (a b c d e : Int), (∀ t ∈ [a, b, c, d, e], t = -1 ∨ t = 0 ∨ t = 1) →
    packByte [a, b, c, d, e] < 243 ∧ unpackByte (packByte [a, b, c, d, e]) = some [a, b, c, d, e]) ∧
  (∀ (n : Nat), n < 243 → ∃ u, unpackByte n = some u ∧ u.length = 5 ∧ packByte u = n) ∧
  (∀ (n : Nat), 243 ≤ n → unpackByte n = none) ∧ packByte [1, 0, -1, -1, 1] = 0xA7

/-- The buddy allocator hands out the smallest free block that is large enough, the lowest among equals, and loses no byte
(R132). -/
def Obligations.BuddyBlocks : Prop :=
  (∀ (a a' : Arena) (m off : Nat), a.take? m = some (off, a') →
    (∃ k, m ≤ k ∧ (k, off) ∈ a.free ∧ (∀ b ∈ a.free, m ≤ b.1 → k < b.1 ∨ (k = b.1 ∧ off ≤ b.2))) ∧
    (a.free.Nodup → a'.freeBytes + blockBytes m = a.freeBytes)) ∧
  (∀ (a : Arena) (m : Nat), a.take? m = none → ∀ b ∈ a.free, b.1 < m) ∧
  (∀ (a : Arena) (m off : Nat), a.free.Nodup → off + blockBytes m ≤ a.size → (a.give m off).freeBytes = a.freeBytes + blockBytes m) ∧
  (∀ (a : Arena) (m off : Nat), a.size < off + blockBytes m → a.give m off = a)

/-- Beats: the period, the boundary that comes, and the TAI seconds that begin a beat (R304, R308). -/
def Obligations.BeatPeriod : Prop :=
  (∀ (s : State) (ts : Nat), s.period = 125000 * 2 ^ s.time.beatLog2 ∧ s.beatOf ts = ts / s.period ∧
    s.now < s.nextBoundary ∧ s.nextBoundary ≤ s.now + s.period ∧ s.period ∣ s.nextBoundary) ∧
  (∀ (s : State) (k : Nat), s.time.beatLog2 ≤ 6 → s.period ∣ k * 1000000000) ∧
  (∀ (s : State) (k : Nat), 6 < s.time.beatLog2 → (s.period ∣ k * 1000000000 ↔ 2 ^ (s.time.beatLog2 - 6) ∣ k)) ∧
  State.reset.time.beatLog2 = 3

/-- A sideband transaction with a wrong PEC or length, or that finds the device in a reset, is answered and does nothing
(R461, R462, R463). -/
def Obligations.SidebandAnswers : Prop :=
  (∀ (c : (SbRequest → Instr) × (List Byte → Bool) × Bool), c ∈ sidebandRows → ∀ (s : State) (r : SbRequest),
    let u := s.upto r.ts
    (u.pins.vddAon = false → exec (c.1 r) s = .next u) ∧
    (u.pins.vddAon = true →
      (r.pecOk = false → exec (c.1 r) s = .next (u.sbReply 0x05 [])) ∧
      (r.pecOk = true → c.2.1 r.data = false → exec (c.1 r) s = .next (u.sbReply 0x04 [])) ∧
      (r.pecOk = true → c.2.1 r.data = true → c.2.2 = false → u.sbWaits = true → exec (c.1 r) s = .next (u.sbReply 0x02 [])))) ∧
  (∀ (s : State) (status : Nat) (pay : List Byte), s.sbReply status pay = { s with outbox := s.outbox ++ [Out.sideband (le 1 status ++ pay)] })

/-- A request passes only if it meets every one of the checks 1 to 13 (R238, R249, R264, R266, R267, R276, R351). -/
def Obligations.PassedRequest : Prop :=
  ∀ (s : State) (p : Packet) (v : Nat), s.check p = .pass v →
    ∃ x q, s.vi? v = some x ∧ tget x.queues (pQueue p) = some q ∧ headerOk p = true ∧ pVi p = v ∧ bitOf (pFlags p) 0 = false ∧ pVersion p ≤ 1 ∧
      pGen p = q.gen ∧ (pOpcode p ≠ 0x0105 → pOpcode p ≠ 0x0903 → psnPlace q.win (pPsn p) = .fresh) ∧
      (s.err.outOfService = true → v = 0 ∧ pOpcode p ∈ [0x0E01, 0x0A03, 0x0A04]) ∧
      (x.pair.fenced = true → pOpcode p / 256 = 0x0B ∨ pOpcode p ∈ [0x0903, 0x0105, 0x0E01, 0x0A03]) ∧
      opKnown (pOpcode p) = true ∧ layoutOk (pOpcode p) (pPay p) = true ∧
      (v ≠ 0 → pOpcode p / 256 ≠ 0x02 ∧ pOpcode p ∉ [0x0101, 0x0102, 0x0901, 0x0902, 0x0A01, 0x0A02, 0x0C02, 0x0C03, 0x0D01, 0x0D02, 0x0D03]) ∧
      (v = 0 → ¬(0x03 ≤ pOpcode p / 256 ∧ pOpcode p / 256 ≤ 0x06) ∧ pOpcode p / 256 ≠ 0x08) ∧
      (x.pair.role = 2 → mirrorRefuses (pOpcode p) = false) ∧
      (p.pull = none → s.steer p.lport p.vlan p.dstIp = some v ∧ p.dstPort = s.net.udp ∧ pLength p = p.bytes.length - 32 ∧
        p.bytes.length ≤ 8192) ∧
      (∀ (w k : Nat), p.pull = some (w, k) → w = v ∧ k = pQueue p ∧ ⟨p.ts, p.lport, p.bytes⟩ ∈ q.tickets)

/-- A number given to a connection or a region is below the limit and names nothing yet, wherever the device starts to
look (R244, R245, R246, R277). -/
def Obligations.FreeNumbers : Prop :=
  ∀ (α : Type) (t : Tbl α) (n : Nat),
    (∀ k, t.length < n → tpick t k n < n ∧ thas t (tpick t k n) = false) ∧
    (∀ k, k < n → thas t k = false → tpick t k n = k)
end

