-- ==== Sys2Proof/Laws/Tables.lean ====
section
/-! SUPPORT. Reading a table after changing it, and the same for the tables that State holds. -/
namespace Sys2Proof.Machine

theorem tget_tset {α : Type} (t : Tbl α) (k j : Nat) (v : α) : tget (tset t k v) j = if j = k then some v else tget t j := by
  induction t with
  | nil => simp [tset, tget]
  | cons e t ih =>
    obtain ⟨a, b⟩ := e
    unfold tset
    split
    · subst_vars; simp only [tget]
      split <;> rfl
    · split
      · simp only [tget]
      · simp only [tget, ih]
        split <;> rename_i h1
        · rw [if_neg (fun h => by simp_all)]
        · rfl

theorem tget_tmod {α : Type} (t : Tbl α) (k j : Nat) (f : α → α) :
    tget (tmod t k f) j = if j = k then (tget t j).map f else tget t j := by
  induction t with
  | nil => simp [tmod, tget]
  | cons e t ih =>
    obtain ⟨a, b⟩ := e
    simp only [tmod, List.map_cons] at *
    by_cases h : a = k
    · simp only [h, if_true, tget]
      split <;> simp_all
    · simp only [h, if_false, tget]
      split <;> simp_all

theorem tget_tdel {α : Type} (t : Tbl α) (k j : Nat) : tget (tdel t k) j = if j = k then none else tget t j := by
  induction t with
  | nil => simp [tdel, tget]
  | cons e t ih =>
    obtain ⟨a, b⟩ := e
    simp only [tdel, List.filter_cons] at *
    by_cases h : a = k
    · simp only [h, bne_self_eq_false, Bool.false_eq_true, if_false, ih, tget]
      split <;> simp_all
    · simp only [bne_iff_ne, ne_eq, h, not_false_eq_true, if_true, tget, ih]
      split <;> simp_all

theorem tget_tmapv {α : Type} (t : Tbl α) (j : Nat) (f : Nat → α → α) : tget (tmapv t f) j = (tget t j).map (f j) := by
  induction t with
  | nil => rfl
  | cons e t ih =>
    obtain ⟨a, b⟩ := e
    simp only [tmapv, List.map_cons, tget] at *
    split <;> simp_all

theorem tmod_tmod {α : Type} (t : Tbl α) (k : Nat) (f g : α → α) : tmod (tmod t k f) k g = tmod t k (fun x => g (f x)) := by
  simp only [tmod, List.map_map]
  refine List.map_congr_left (fun e _ => ?_)
  by_cases h : e.1 = k <;> simp [h]

/-- R231, R259: a register write on an open VI changes that VI. -/
theorem modView_open {s : State} {v : Nat} {x : Vi} (h : s.vi? v = some x) (f : Vi → Vi) : s.modView v f = s.modVi v f :=
  if_pos (by rw [h]; rfl)

/-- R231, R259: a register write on a VI number that is not open changes no VI. -/
theorem modView_free {s : State} {v : Nat} (h : s.vi? v = none) (f : Vi → Vi) : (s.modView v f).vis = s.vis := by
  unfold State.modView
  rw [if_neg (by rw [h]; decide)]

theorem modVi_modVi (s : State) (v : Nat) (f g : Vi → Vi) : (s.modVi v f).modVi v g = s.modVi v (fun x => g (f x)) :=
  congrArg (fun t => ({ s with vis := t } : State)) (tmod_tmod ..)

theorem vi?_modVi (s : State) (v w : Nat) (f : Vi → Vi) : (s.modVi v f).vi? w = if w = v then (s.vi? w).map f else s.vi? w :=
  tget_tmod ..

theorem vi?_setVi (s : State) (v w : Nat) (x : Vi) : (s.setVi v x).vi? w = if w = v then some x else s.vi? w := tget_tset ..

theorem step?_modStep (s : State) (k j : Nat) (f : Step → Step) :
    (s.modStep k f).step? j = if j = k then (s.step? j).map f else s.step? j := tget_tmod ..

theorem tget_modConn (x : Vi) (c d : Nat) (f : Conn → Conn) :
    tget (x.modConn c f).conns d = if d = c then (tget x.conns d).map f else tget x.conns d := tget_tmod ..

theorem tget_modQueue (x : Vi) (q r : Nat) (f : Queue → Queue) :
    tget (x.modQueue q f).queues r = if r = q then (tget x.queues r).map f else tget x.queues r := tget_tmod ..

theorem tget_modSeq (x : Vi) (q r : Nat) (f : Seq → Seq) :
    tget (x.modSeq q f).seqs r = if r = q then (tget x.seqs r).map f else tget x.seqs r := tget_tmod ..

theorem tget_modEntry (x : Vi) (e d : Nat) (f : Entry → Entry) :
    tget (x.modEntry e f).jrnl.entries d = if d = e then (tget x.jrnl.entries d).map f else tget x.jrnl.entries d := tget_tmod ..

theorem entry?_modEntry (s : State) (v e w d : Nat) (f : Entry → Entry) :
    (s.modEntry v e f).entry? w d = if w = v ∧ d = e then (s.entry? w d).map f else s.entry? w d := by
  unfold State.modEntry State.entry?
  rw [vi?_modVi]
  by_cases hw : w = v
  · simp only [hw, if_true, true_and]
    cases s.vi? v with
    | none => simp
    | some x => simp only [Option.map_some, Option.bind_some, tget_modEntry]
  · simp only [hw, if_false, false_and]

theorem vi?_upto (s : State) (ts v : Nat) : (s.upto ts).vi? v = s.vi? v := rfl

end Sys2Proof.Machine
end

