-- ==== Sys2Proof/Laws/Sending.lean ====
section
/-! SUPPORT. What sending and the stream of a pair leave (R239, R254, R271, R354): every other VI, the journals and queues, the steering of frames,
and the engines. -/
namespace Sys2Proof.Machine

/-- What sending never touches. -/
def Apart (s t : State) : Prop := t.vis = s.vis ∧ t.hbm = s.hbm ∧ t.steps = s.steps ∧ t.waves = s.waves ∧ t.yelms = s.yelms ∧
  t.net.portMode = s.net.portMode ∧ t.net.udp = s.net.udp

theorem Apart.refl (s : State) : Apart s s := ⟨rfl, rfl, rfl, rfl, rfl, rfl, rfl⟩

theorem Apart.trans {s t u : State} (h : Apart s t) (k : Apart t u) : Apart s u :=
  ⟨k.1.trans h.1, k.2.1.trans h.2.1, k.2.2.1.trans h.2.2.1, k.2.2.2.1.trans h.2.2.2.1, k.2.2.2.2.1.trans h.2.2.2.2.1,
    k.2.2.2.2.2.1.trans h.2.2.2.2.2.1, k.2.2.2.2.2.2.trans h.2.2.2.2.2.2⟩

theorem Apart.foldl {α : Type} {f : State → α → State} (hf : ∀ s a, Apart s (f s a)) (l : List α) : ∀ s, Apart s (l.foldl f s) := by
  induction l with
  | nil => exact Apart.refl
  | cons a l ih => exact fun s => (hf s a).trans (ih _)

theorem macTx_apart {s : State} {t : State × Option Nat} {lp : Nat} (h : s.macTx lp = some t) : Apart s t.1 := by
  unfold State.macTx at h
  dsimp only at h
  repeat' (split at h)
  all_goals first | (injection h with h; subst h; exact ⟨rfl, rfl, rfl, rfl, rfl, rfl, rfl⟩) | cases h

theorem xmit_apart (s : State) (lp prio : Nat) (o : Out) : Apart s (s.xmit lp prio o) := by
  unfold State.xmit
  repeat' split
  all_goals first | exact Apart.refl s | exact ⟨rfl, rfl, rfl, rfl, rfl, rfl, rfl⟩ | (rename_i h; exact macTx_apart h)

theorem route_apart (s : State) (v : Nat) (dst : BitVec 128) (port : Option Nat) (prio : Nat) (o : Out) :
    Apart s (s.route v dst port prio o) := by
  unfold State.route
  split
  · exact Apart.refl s
  · split
    · exact Apart.refl s
    · split
      · exact xmit_apart ..
      · exact Apart.trans (t := s.modNet _) ⟨rfl, rfl, rfl, rfl, rfl, rfl, rfl⟩ (Apart.foldl (fun s lp => xmit_apart ..) _ _)

theorem steer_same {s t : State} (hv : t.vis = s.vis) (hm : t.net.portMode = s.net.portMode) (a b : Nat) (d : BitVec 128) : t.steer a b d = s.steer a b d := by
  unfold State.steer State.portExists; rw [hv, hm]

theorem steer_modVi (s : State) (v : Nat) (f : Vi → Vi) (hf : ∀ x,
    (f x).addr = x.addr) (a b : Nat) (d : BitVec 128) : (s.modVi v f).steer a b d = s.steer a b d := by
  unfold State.steer State.modVi tmod
  dsimp only
  rw [List.find?_map, Option.map_map]
  have e : (fun e : Nat × Vi => e.2.addr.vlan == b && bitOf e.2.addr.ports a && State.portExists { s with vis := s.vis.map (fun e => if e.1 = v then (e.1, f e.2) else e) } a && isAddrOf e.2.addr d) ∘ (fun e => if e.1 = v then (e.1, f e.2) else e) = (fun e : Nat × Vi => e.2.addr.vlan == b && bitOf e.2.addr.ports a && s.portExists a && isAddrOf e.2.addr d) := by
    funext e
    dsimp only [Function.comp]
    by_cases h : e.1 = v
    · rw [if_pos h]; dsimp only; rw [hf]; rfl
    · rw [if_neg h]; rfl
  rw [e]
  have e2 : (Prod.fst ∘ fun e : Nat × Vi => if e.1 = v then (e.1, f e.2) else e) = Prod.fst := by
    funext e
    dsimp only [Function.comp]
    by_cases h : e.1 = v
    · rw [if_pos h]
    · rw [if_neg h]
  rw [e2]

theorem find_tset (P : AddrRec → Bool) (l : Tbl Vi) (v : Nat) (x y : Vi) (hx : tget l v = some x) (hy : y.addr = x.addr)
    (h : (l.find? (fun e => P e.2.addr)).map Prod.fst = some v) : ((tset l v y).find? (fun e => P e.2.addr)).map Prod.fst = some v := by
  induction l with
  | nil => cases hx
  | cons e l ih =>
    obtain ⟨k, z⟩ := e
    unfold tset
    by_cases hk : v = k
    · subst hk
      rw [if_pos rfl]
      unfold tget at hx; rw [if_pos rfl] at hx; injection hx with hx; subst hx
      rw [List.find?_cons] at h ⊢
      dsimp only at h ⊢
      rw [hy]
      cases hp : P z.addr
      · rw [hp] at h; exact h
      · rfl
    · rw [if_neg hk]
      unfold tget at hx; rw [if_neg hk] at hx
      have h0 : P z.addr = false ∧ (l.find? (fun e => P e.2.addr)).map Prod.fst = some v := by
        rw [List.find?_cons] at h
        dsimp only at h
        cases hp : P z.addr
        · rw [hp] at h; exact ⟨rfl, h⟩
        · rw [hp] at h; simp only [Option.map_some, Option.some.injEq] at h; exact absurd h.symm hk
      split
      · rw [List.find?_cons]
        dsimp only
        rw [hy]
        cases hp : P x.addr
        · exact h
        · rfl
      · rw [List.find?_cons]
        dsimp only
        rw [h0.1]
        exact ih hx h0.2

theorem steer_setVi (s : State) (v : Nat) (x y : Vi) (hx : s.vi? v = some x) (hy : y.addr = x.addr) (a b : Nat) (d : BitVec 128)
    (h : s.steer a b d = some v) : (s.setVi v y).steer a b d = some v :=
  find_tset (fun r => r.vlan == b && bitOf r.ports a && s.portExists a && isAddrOf r d) s.vis v x y hx hy h

/-- What sending leaves of a VI. -/
def Kin (x y : Vi) : Prop := y.jrnl = x.jrnl ∧ y.queues = x.queues ∧ y.addr = x.addr ∧ y.pair.role = x.pair.role ∧
    y.pair.state = x.pair.state ∧ y.ctr.rx = x.ctr.rx

theorem Kin.refl (x : Vi) : Kin x x := ⟨rfl, rfl, rfl, rfl, rfl, rfl⟩

theorem Kin.trans {x y z : Vi} (h : Kin x y) (k : Kin y z) : Kin x z :=
  ⟨k.1.trans h.1, k.2.1.trans h.2.1, k.2.2.1.trans h.2.2.1, k.2.2.2.1.trans h.2.2.2.1, k.2.2.2.2.1.trans h.2.2.2.2.1,
      k.2.2.2.2.2.trans h.2.2.2.2.2⟩

structure SentBy (v : Nat) (s t : State) : Prop where
  other : ∀ w, w ≠ v → t.vi? w = s.vi? w
  own : ∀ x, s.vi? v = some x → ∃ y, t.vi? v = some y ∧ Kin x y
  hbm : t.hbm = s.hbm
  steps : t.steps = s.steps
  waves : t.waves = s.waves
  yelms : t.yelms = s.yelms
  udp : t.net.udp = s.net.udp
  steer : ∀ a b d, t.steer a b d = s.steer a b d

theorem SentBy.refl (v : Nat) (s : State) : SentBy v s s := ⟨fun _ _ => rfl, fun x h => ⟨x, h, Kin.refl x⟩, rfl, rfl, rfl, rfl, rfl,
    fun _ _ _ => rfl⟩

theorem SentBy.trans {v : Nat} {s t u : State} (h : SentBy v s t) (k : SentBy v t u) : SentBy v s u :=
  ⟨fun w hw => (k.other w hw).trans (h.other w hw), fun x hx => by
    obtain ⟨y, hy, h1⟩ := h.own x hx
    obtain ⟨z, hz, h2⟩ := k.own y hy
    exact ⟨z, hz, h1.trans h2⟩, k.hbm.trans h.hbm, k.steps.trans h.steps, k.waves.trans h.waves, k.yelms.trans h.yelms,
        k.udp.trans h.udp, fun a b d => (k.steer a b d).trans (h.steer a b d)⟩

theorem SentBy.of_apart {v : Nat} {s t : State} (h : Apart s t) : SentBy v s t :=
  ⟨fun w _ => by unfold State.vi?; rw [h.1], fun x hx => ⟨x, by unfold State.vi? at *; rw [h.1]; exact hx, Kin.refl x⟩, h.2.1, h.2.2.1,
      h.2.2.2.1, h.2.2.2.2.1, h.2.2.2.2.2.2, fun a b d => steer_same h.1 h.2.2.2.2.2.1 a b d⟩

theorem SentBy.modVi (v : Nat) (s : State) (f : Vi → Vi) (hf : ∀ x, Kin x (f x)) : SentBy v s (s.modVi v f) :=
  ⟨fun w hw => by rw [vi?_modVi, if_neg hw], fun x hx => ⟨f x, by rw [vi?_modVi, if_pos rfl, hx]; rfl, hf x⟩, rfl, rfl, rfl, rfl, rfl,
      fun a b d => steer_modVi s v f (fun x => (hf x).2.2.1) a b d⟩

theorem send_by (s : State) (v : Nat) (dst : BitVec 128) (udp prio : Nat) (b : List Byte) : SentBy v s (s.send v dst udp prio b) := by
  unfold State.send
  split
  · exact SentBy.refl v s
  · exact (SentBy.modVi v s (fun x => { x with ctr := { x.ctr with tx := bump x.ctr.tx } }) (fun x => ⟨rfl, rfl, rfl, rfl, rfl, rfl⟩)).trans
      (SentBy.of_apart (route_apart ..))

theorem answer_by (s : State) (v : Nat) (p : Packet) (flags st : Nat) (pay : List Byte) : SentBy v s (s.answer v p flags st pay) := send_by ..

theorem pairSend_by (s : State) (v rc : Nat) (m : PairMsg) : SentBy v s (s.pairSend v rc m) := by
  unfold State.pairSend
  repeat' split
  all_goals first | exact SentBy.refl v s | exact SentBy.of_apart (route_apart ..)

theorem emit_by (s : State) (v : Nat) (sq : Option Nat) (last : Bool) (b : MirrorBody) : SentBy v s (s.emit v sq last b) := by
  unfold State.emit
  split
  · exact SentBy.refl v s
  · split
    · dsimp only
      refine SentBy.trans ?_ (pairSend_by _ _ _ _)
      exact SentBy.modVi v s (fun x => x.modPair _) (fun x => ⟨rfl, rfl, rfl, rfl, rfl, rfl⟩)
    · exact SentBy.refl v s

theorem entry_by {v : Nat} {s t : State} (h : SentBy v s t) (k : Nat) (x : Vi) (hx : s.vi? v = some x) : t.entry? v k = s.entry? v k := by
  obtain ⟨y, hy, g⟩ := h.own x hx
  unfold State.entry?
  rw [hy, hx]
  simp only [Option.bind_some, g.1]

end Sys2Proof.Machine
end

