-- ==== Sys2Proof/Laws/Take.lean ====
section
/-! SUPPORT. What a Sloson request and a sideband command do once they are let through (R266, R271, R463): the one lemma each that a
statement about a command cites. -/
namespace Sys2Proof.Machine

@[simp] theorem command_vi (s : State) (p : Packet) (v : Nat) : (s.command p v).vi = v := rfl
@[simp] theorem command_entry (s : State) (p : Packet) (v : Nat) : (s.command p v).entry = s.place p v := rfl
@[simp] theorem command_pay (s : State) (p : Packet) (v : Nat) : (s.command p v).pay = pPay p := rfl
@[simp] theorem command_queue (s : State) (p : Packet) (v : Nat) : (s.command p v).queue = pQueue p := rfl
@[simp] theorem command_psn (s : State) (p : Packet) (v : Nat) : (s.command p v).psn = pPsn p := rfl
@[simp] theorem command_ts (s : State) (p : Packet) (v : Nat) : (s.command p v).ts = p.ts := rfl
@[simp] theorem command_lport (s : State) (p : Packet) (v : Nat) : (s.command p v).lport = p.lport := rfl
@[simp] theorem command_flags (s : State) (p : Packet) (v : Nat) : (s.command p v).flags = pFlags p := rfl
@[simp] theorem command_opcode (s : State) (p : Packet) (v : Nat) : (s.command p v).opcode = pOpcode p := rfl

/-- R266, R310: a request that is admitted and that check 14 does not reject runs its effect on the state it is journaled in. -/
theorem takeAs_admits {s : State} {p : Packet} {op v : Nat} {st : StaticCheck} (eff : Effect) (h : s.admits p op v = true)
    (hst : st (s.arrived p v) (cmdOfPacket v p) = none) :
    s.takeAs op p st eff = (s.opened p v).runEffect eff (s.command p v) := by
  simp only [State.admits, Bool.and_eq_true, beq_iff_eq] at h
  obtain ⟨⟨⟨hop, hs⟩, hc⟩, hx⟩ := h
  cases hv : (s.arrived p v).vi? v with
  | none => rw [hv] at hx; cases hx
  | some x =>
    rw [hv] at hx
    simp only [Option.any_some, Bool.and_eq_true] at hx
    obtain ⟨hq, hf⟩ := hx
    cases hq2 : tget x.queues (pQueue p) with
    | none => rw [thas, hq2] at hq; cases hq
    | some q =>
      subst hop
      unfold State.takeAs State.take State.opened State.command State.place
      unfold State.arrived at *
      unfold State.comesIn State.entered at *
      simp [hs, hc, hst, hv, hq2, hf]
      rfl

/-- An effect that answers now. -/
theorem runEffect_now {s t : State} {eff : Effect} {c : Cmd} {st : Nat} {pay : List Byte} (h : eff s c = (t, some (st, pay))) :
    s.runEffect eff c = t.outcome c.vi c.entry st pay := by unfold State.runEffect; rw [h]

/-- An effect whose answer comes later. -/
theorem runEffect_later {s t : State} {eff : Effect} {c : Cmd} (h : eff s c = (t, none)) : s.runEffect eff c = t := by
  unfold State.runEffect; rw [h]

/-- R268: a request that is never journaled acts at once. -/
theorem takeDirect_admits {s : State} {p : Packet} {op v : Nat} (eff : State → Cmd → State) (h : s.admitsDirect p op v = true) :
    s.takeDirect p eff = eff (s.openedDirect p v) (cmdOfPacket v p) := by
  simp only [State.admitsDirect, Bool.and_eq_true, beq_iff_eq] at h
  obtain ⟨⟨hop, hs⟩, hc⟩ := h
  unfold State.takeDirect State.openedDirect
  unfold State.comesIn State.entered at *
  simp [hs, hc]

/-- R105: a token that is at a descriptor of a kind may run it. -/
theorem ready_of (s : State) (ts : Nat) {k i K : Nat} {t : Step} {im : Image} {c : Tok} (h1 : s.step? k = some t)
    (h2 : s.imageOf t.vi = some im) (h4 : t.tok? i = some c) (h5 : t.inFlight = true) (h6 : t.crossed = false) (h7 : c.done = false)
    (h8 : s.pwr.state ≤ 1) (h9 : s.hbmHeld = false) (hk : dKind (descAt im c.desc) = K) :
    (s.upto ts).ready k i K = some (im, t, c, descAt im c.desc) := by
  have h1' : (s.upto ts).step? k = some t := h1
  have h2' : (s.upto ts).imageOf t.vi = some im := h2
  have h8' : (s.upto ts).pwr.state ≤ 1 := h8
  have h9' : (s.upto ts).hbmHeld = false := h9
  simp only [State.ready, h1', h2', h4]
  rw [if_pos]
  refine ⟨h5, ?_, ?_, hk, h8', ?_⟩
  · rw [h6]; rfl
  · rw [h7]; rfl
  · rw [h9']; rfl

/-- R461, R463: a sideband command that is carried out does what its code does and is answered. -/
theorem sideband_runs {s : State} {r : SbRequest} {len : List Byte → Bool} {exempt : Bool}
    (act : State → List Byte → State × Nat × List Byte) (h : s.sidebandRuns r len exempt = true) :
    s.sideband r len exempt act =
      ((act (s.upto r.ts) r.data).1).sbReply (act (s.upto r.ts) r.data).2.1 (act (s.upto r.ts) r.data).2.2 := by
  simp only [State.sidebandRuns, Bool.and_eq_true, Bool.or_eq_true, Bool.not_eq_true'] at h
  obtain ⟨⟨⟨hv, hp⟩, hl⟩, he⟩ := h
  have hv' : (s.upto r.ts).pins.vddAon = true := hv
  unfold State.sideband
  rcases he with he | he <;> simp [hv', hp, hl, he]

end Sys2Proof.Machine
end

