-- ==== Sys2Proof/Laws/Checks.lean ====
section
/-! SUPPORT. The checks of a request (R266, R267), what an arriving request does where one fails, and what journaling an accepted one leaves
(R310, R312). -/
namespace Sys2Proof.Machine

theorem admits_pass {s : State} {p : Packet} {op v : Nat} (h : s.admits p op v = true) : (s.entered p).check p = .pass v := by
  simp only [State.admits, Bool.and_eq_true, beq_iff_eq] at h
  exact h.1.2

theorem admits_out {s : State} {p : Packet} {op v : Nat} (h : s.admits p op v = true) :
    pOpcode p = op ∧ ∃ x q, (s.arrived p v).vi? v = some x ∧ tget x.queues (pQueue p) = some q ∧
      s.opened p v = (let r := ((s.arrived p v).noteHost (pOpcode p)).journal v x p q
        if opTwoPhase (pOpcode p) then r.1.sendAccepted v r.2 p else r.1) := by
  simp only [State.admits, Bool.and_eq_true, beq_iff_eq] at h
  obtain ⟨⟨⟨hop, _⟩, _⟩, hx⟩ := h
  refine ⟨hop, ?_⟩
  cases hv : (s.arrived p v).vi? v with
  | none => rw [hv] at hx; cases hx
  | some x =>
    rw [hv] at hx
    simp only [Option.any_some, Bool.and_eq_true] at hx
    cases hq2 : tget x.queues (pQueue p) with
    | none => rw [thas, hq2] at hx; cases hx.1
    | some q => exact ⟨x, q, rfl, hq2, by unfold State.opened; simp only [hv, hq2]⟩

theorem ite_pass {c : Prop} [Decidable c] {a b : Verdict} {w : Nat} (h : (if c then a else b) = .pass w) (ha : a ≠ .pass w := by nofun) : ¬c ∧ b = .pass w := by
  by_cases hc : c
  · rw [if_pos hc] at h; exact absurd h ha
  · rw [if_neg hc] at h; exact ⟨hc, h⟩

theorem checkOn_all {s : State} {v w : Nat} {x : Vi} {p : Packet} (h : s.checkOn v x p = .pass w) :
    w = v ∧ bitOf (pFlags p) 0 = false ∧ pVersion p ≤ 1 ∧ ∃ q, tget x.queues (pQueue p) = some q ∧
      (p.pull = none → pLength p = p.bytes.length - 32) ∧ pGen p = q.gen ∧
          (pOpcode p ≠ 0x0105 → pOpcode p ≠ 0x0903 → psnPlace q.win (pPsn p) = .fresh) ∧
      (s.err.outOfService = true → v = 0 ∧ pOpcode p ∈ [0x0E01, 0x0A03, 0x0A04]) ∧
      (x.pair.fenced = true → pOpcode p / 256 = 0x0B ∨ pOpcode p ∈ [0x0903, 0x0105, 0x0E01, 0x0A03]) ∧
      opKnown (pOpcode p) = true ∧ (layoutOk (pOpcode p) (pPay p) = true ∧ (p.pull = none → p.bytes.length ≤ Config.pushMax)) ∧
      (v ≠ 0 → pOpcode p / 256 ≠ 0x02 ∧ pOpcode p ∉ [0x0101, 0x0102, 0x0901, 0x0902, 0x0A01, 0x0A02, 0x0C02, 0x0C03, 0x0D01, 0x0D02,
          0x0D03]) ∧
      (v = 0 → ¬(0x03 ≤ pOpcode p / 256 ∧ pOpcode p / 256 ≤ 0x06) ∧ pOpcode p / 256 ≠ 0x08) ∧
      (x.pair.role = 2 → mirrorRefuses (pOpcode p) = false) := by
  unfold State.checkOn at h
  dsimp only at h
  obtain ⟨c1, h⟩ := ite_pass h
  obtain ⟨c2, h⟩ := ite_pass h
  cases hq : tget x.queues (pQueue p) with
  | none => rw [hq] at h; cases h
  | some q =>
    rw [hq] at h
    dsimp only at h
    obtain ⟨c3, h⟩ := ite_pass h
    obtain ⟨c4, h⟩ := ite_pass h (by split <;> nofun)
    obtain ⟨c5, h⟩ := ite_pass h
    obtain ⟨c6, h⟩ := ite_pass h
    obtain ⟨c7, h⟩ := ite_pass h
    obtain ⟨c8, h⟩ := ite_pass h
    obtain ⟨c9, h⟩ := ite_pass h
    obtain ⟨c10, h⟩ := ite_pass h
    obtain ⟨c11, h⟩ := ite_pass h
    obtain ⟨c12, h⟩ := ite_pass h
    injection h with h
    subst h
    refine ⟨rfl, Bool.eq_false_iff.2 c1, Nat.le_of_not_lt c2, q, rfl, fun hp => ?_, not_not.1 c4, fun h1 h2 => ?_, fun ho => ?_,
        fun hf => ?_, ?_, ?_, fun hv => ?_, fun hv => ?_, fun hr => ?_⟩
    · rw [hp] at c3
      simpa using c3
    · have hu : unjournaled (pOpcode p) = false := by unfold unjournaled; simp [h1, h2]
      rw [hu] at c5 c6
      cases hz : psnPlace q.win (pPsn p) with
      | fresh => rfl
      | duplicate => rw [hz] at c5; exact absurd rfl c5
      | behind => rw [hz] at c6; exact absurd rfl c6
    · rw [ho] at c7
      unfold serviceOk at c7
      simp at c7
      simp only [List.mem_cons, List.mem_nil_iff, or_false]
      refine ⟨c7.1, ?_⟩
      by_contra hn
      simp only [not_or] at hn
      exact hn.2.2 (c7.2 hn.1 hn.2.1)
    · rw [hf] at c8
      unfold fencedOk at c8
      simp at c8
      simp only [List.mem_cons, List.mem_nil_iff, or_false]
      by_contra hn
      simp only [not_or] at hn
      exact hn.2.2.2.2 (c8 hn.1 hn.2.1 hn.2.2.1 hn.2.2.2.1)
    · simpa using c9
    · simpa using c12
    · simp only [Bool.or_eq_true, not_or] at c10
      have := c10.1
      unfold opAllowed at this
      simp only [if_neg hv] at this
      simpa using this
    · simp only [Bool.or_eq_true, not_or] at c10
      have := c10.1
      unfold opAllowed at this
      simp only [if_pos hv] at this
      simpa using this
    · simp only [Bool.or_eq_true, not_or, Bool.and_eq_true, not_and] at c10
      exact Bool.eq_false_iff.2 (c10.2 (by rw [hr]; rfl))

theorem checkOn_pass {s : State} {v w : Nat} {x : Vi} {p : Packet} (h : s.checkOn v x p = .pass w) : w = v := (checkOn_all h).1

theorem check_pass {s : State} {p : Packet} {v : Nat} (h : s.check p = .pass v) : ∀ w q, p.pull = some (w, q) → w = v := by
  intro w q hp
  unfold State.check at h
  rw [hp] at h
  dsimp only at h
  cases hv : s.vi? w with
  | none => rw [hv] at h; cases h
  | some x =>
    rw [hv] at h
    dsimp only at h
    cases hq : tget x.queues q with
    | none => rw [hq] at h; cases h
    | some qu =>
      rw [hq] at h
      dsimp only at h
      obtain ⟨-, h⟩ := ite_pass h
      obtain ⟨-, h⟩ := ite_pass h
      obtain ⟨-, h⟩ := ite_pass h
      exact (checkOn_pass h).symm

theorem pfcOccupancy_apart (s : State) (lp prio k : Nat) : Apart s (s.pfcOccupancy lp prio k) := by
  unfold State.pfcOccupancy
  dsimp only
  repeat' split
  all_goals exact Apart.refl s

theorem rxPort_apart (s : State) (lp : Nat) (r : RxMeta) : Apart s (s.rxPort lp r).2 := by
  unfold State.rxPort
  split
  · exact ⟨rfl, rfl, rfl, rfl, rfl, rfl, rfl⟩
  · split
    · exact Apart.refl s
    · split
      · exact Apart.refl s
      · dsimp only
        split
        · exact ⟨rfl, rfl, rfl, rfl, rfl, rfl, rfl⟩
        · refine Apart.trans ?_ (Apart.foldl (fun s pr => pfcOccupancy_apart ..) _ _)
          split
          · exact ⟨rfl, rfl, rfl, rfl, rfl, rfl, rfl⟩
          · exact Apart.refl s

/-- R234, R256: coming in touches no VI and no engine. -/
theorem entered_apart (s : State) (p : Packet) : Apart s (s.entered p) := by
  refine Apart.trans (t := s.upto p.ts) ⟨rfl, rfl, rfl, rfl, rfl, rfl, rfl⟩ ?_
  unfold State.entered State.enter State.rxGate
  repeat' split
  all_goals first | exact Apart.refl _ | exact rxPort_apart ..

theorem arrived_by (s : State) (p : Packet) (v : Nat) (h : (s.entered p).check p = .pass v) :
    (∀ w, w ≠ v → (s.arrived p v).vi? w = s.vi? w) ∧ (s.arrived p v).hbm = s.hbm ∧ (s.arrived p v).steps = s.steps ∧
      (s.arrived p v).waves = s.waves ∧ (s.arrived p v).yelms = s.yelms := by
  obtain ⟨a1, a2, a3, a4, a5, -, -⟩ := entered_apart s p
  have av : ∀ w, (s.entered p).vi? w = s.vi? w := fun w => by unfold State.vi?; rw [a1]
  have e : ((s.entered p).takeTicket p).hbm = s.hbm ∧ ((s.entered p).takeTicket p).steps = s.steps ∧
      ((s.entered p).takeTicket p).waves = s.waves ∧ ((s.entered p).takeTicket p).yelms = s.yelms ∧
      ∀ w, w ≠ v → ((s.entered p).takeTicket p).vi? w = s.vi? w := by
    unfold State.takeTicket
    split
    · exact ⟨a2, a3, a4, a5, fun w _ => av w⟩
    · rename_i v' q hp
      have := check_pass h v' q hp
      subst this
      exact ⟨a2, a3, a4, a5, fun w hw => by rw [vi?_modVi, if_neg hw]; exact av w⟩
  refine ⟨fun w hw => ?_, e.1, e.2.1, e.2.2.1, e.2.2.2.1⟩
  unfold State.arrived State.noteRequest
  rw [vi?_modVi, if_neg hw]
  exact e.2.2.2.2 w hw

theorem tmod_id {α : Type} (t : Tbl α) (k : Nat) : tmod t k id = t := by
  unfold tmod
  conv => rhs; rw [← List.map_id t]
  refine List.map_congr_left (fun e _ => ?_)
  split <;> rfl

structure Grown (s : State) (x : Vi) (p : Packet) (q : Queue) (o : State) (v : Nat) (y : Vi) : Prop where
  next : y.jrnl.next = x.jrnl.next + 1
  entry : tget y.jrnl.entries (s.place p v) = some { entryOf p q with acceptedSent := opTwoPhase (pOpcode p) && !x.pair.holding }
  others : ∀ (k : Nat), k ≠ s.place p v → tget y.jrnl.entries k = tget x.jrnl.entries k
  win : ∀ {q}, tget x.queues (pQueue p) = some q → tget y.queues (pQueue p) = some (q.mark p)
  queues : ∀ (k : Nat), k ≠ pQueue p → tget y.queues k = tget x.queues k
  rx : y.ctr.rx = bump x.ctr.rx
  addr : y.addr = x.addr
  tail : ∃ f : Entry → Entry, y.jrnl.entries = tmod (tset x.jrnl.entries x.jrnl.next (entryOf p q)) x.jrnl.next f
  other : ∀ w, w ≠ v → o.vi? w = (s.arrived p v).vi? w
  hbm : o.hbm = (s.arrived p v).hbm
  steps : o.steps = (s.arrived p v).steps
  waves : o.waves = (s.arrived p v).waves
  yelms : o.yelms = (s.arrived p v).yelms
  udp : o.net.udp = (s.arrived p v).net.udp
  steer : ∀ a b d, (s.arrived p v).steer a b d = some v → o.steer a b d = some v

theorem noteHost_by (s : State) (op v : Nat) : SentBy v s (s.noteHost op) := by
  unfold State.noteHost
  split
  · exact SentBy.refl v s
  · exact SentBy.of_apart ⟨rfl, rfl, rfl, rfl, rfl, rfl, rfl⟩

theorem opened_own {s : State} {p : Packet} {v : Nat} {x : Vi} {q : Queue}
    (ho : s.opened p v = (let r := ((s.arrived p v).noteHost (pOpcode p)).journal v x p q
        if opTwoPhase (pOpcode p) then r.1.sendAccepted v r.2 p else r.1)) (hv : (s.arrived p v).vi? v = some x := by assumption) :
    ∃ y, (s.opened p v).vi? v = some y ∧ Grown s x p q (s.opened p v) v y := by
  have hpl : s.place p v = x.jrnl.next := by unfold State.place; rw [hv]; rfl
  have hn := noteHost_by (s.arrived p v) (pOpcode p) v
  generalize ht : (s.arrived p v).noteHost (pOpcode p) = t at *
  have tv : t.vi? v = some x := by
    have h1 : t.vis = (s.arrived p v).vis := by rw [← ht]; unfold State.noteHost; split <;> rfl
    unfold State.vi? at *; rw [h1]; exact hv
  -- the journaled state
  have hj : ∀ z, z = (t.journal v x p q).1 →
      (∀ w, w ≠ v → z.vi? w = t.vi? w) ∧ z.hbm = t.hbm ∧ z.steps = t.steps ∧ z.waves = t.waves ∧ z.yelms = t.yelms ∧
          z.net.udp = t.net.udp ∧ (∀ a b d, t.steer a b d = some v → z.steer a b d = some v) ∧
      ∃ y, z.vi? v = some y ∧ y.jrnl = { x.jrnl with entries := tset x.jrnl.entries x.jrnl.next (entryOf p q), next := x.jrnl.next + 1 } ∧
        y.queues = tmod x.queues (pQueue p) (fun q => q.mark p) ∧ y.addr = x.addr ∧
        y.pair.role = x.pair.role ∧ y.pair.state = x.pair.state ∧ y.ctr.rx = bump x.ctr.rx := by
    rintro z rfl
    unfold State.journal
    dsimp only
    have he := emit_by (t.setVi v { x with
      jrnl := { x.jrnl with entries := tset x.jrnl.entries x.jrnl.next (entryOf p q), next := x.jrnl.next + 1 }
      queues := tmod x.queues (pQueue p) (fun q => q.mark p)
      ctr := { x.ctr with rx := bump x.ctr.rx } }) v none true (.entry (entryHeader (entryOf p q)) p)
    refine ⟨fun w hw => (he.other w hw).trans (by rw [vi?_setVi, if_neg hw]), he.hbm, he.steps, he.waves, he.yelms, he.udp,
        fun a b d hs => (he.steer a b d).trans (by refine steer_setVi t v x _ tv ?_ a b d hs; rfl), ?_⟩
    obtain ⟨y, hy, k⟩ := he.own _ (by rw [vi?_setVi, if_pos rfl])
    exact ⟨y, hy, k.1, k.2.1, k.2.2.1, k.2.2.2.1, k.2.2.2.2.1, k.2.2.2.2.2⟩
  obtain ⟨j1, j2, j3, j4, j5, j6, j7, y, hy, k1, k2, k3, k4, k5, k6⟩ := hj _ rfl
  have e2 : (t.journal v x p q).2 = x.jrnl.next := rfl
  dsimp only at ho
  rw [e2] at ho
  generalize (t.journal v x p q).1 = z at *
  have hwin : ∀ {q' : Queue}, tget x.queues (pQueue p) = some q' → tget y.queues (pQueue p) = some (q'.mark p) := by
    intro q' hq; rw [k2, tget_tmod, if_pos rfl, hq]; rfl
  have hqs : ∀ (k : Nat), k ≠ pQueue p → tget y.queues k = tget x.queues k := fun k hk => by rw [k2, tget_tmod, if_neg hk]
  have hh : y.pair.holding = x.pair.holding := by unfold Pair.holding; rw [k4, k5]
  have plain : ∀ b, b = false → ∃ y, z.vi? v = some y ∧
      (tget y.jrnl.entries (s.place p v) = some { entryOf p q with acceptedSent := b }) := by
    rintro b rfl
    exact ⟨y, hy, by rw [k1, hpl]; dsimp only; rw [tget_tset, if_pos rfl]; rfl⟩
  have done : (opTwoPhase (pOpcode p) && !x.pair.holding) = false → s.opened p v = z →
      ∃ y, (s.opened p v).vi? v = some y ∧ Grown s x p q (s.opened p v) v y := by
    intro hb ho
    rw [ho]
    refine ⟨y, hy, ⟨by rw [k1], ?_, fun k hk => ?_, hwin, hqs, k6, k3, ⟨id, by rw [k1]; exact (tmod_id _ _).symm⟩,
        fun w hw => (j1 w hw).trans (hn.other w hw), j2.trans hn.hbm,
      j3.trans hn.steps, j4.trans hn.waves, j5.trans hn.yelms, j6.trans hn.udp, fun a b d hs => j7 a b d ((hn.steer a b d).trans hs)⟩⟩
    · rw [hb, k1, hpl]; dsimp only; rw [tget_tset, if_pos rfl]; rfl
    · rw [k1]; dsimp only; rw [tget_tset, if_neg (by rw [← hpl]; exact hk)]
  by_cases h2 : opTwoPhase (pOpcode p) = true
  · rw [if_pos h2] at ho
    unfold State.sendAccepted at ho
    rw [hy] at ho
    simp only [Option.map_some, Option.some.injEq] at ho
    by_cases h3 : y.pair.holding = true
    · rw [if_pos h3] at ho
      exact done (by rw [h2, ← hh, h3]; rfl) ho
    · rw [if_neg h3] at ho
      rw [ho]
      unfold State.accepts
      have ha := answer_by (z.modEntry v x.jrnl.next (fun n => { n with acceptedSent := true })) v p fReply stAccepted []
      obtain ⟨y', hy', g⟩ := ha.own (y.modEntry x.jrnl.next (fun n => { n with acceptedSent := true })) (by
        unfold State.modEntry; rw [vi?_modVi, if_pos rfl, hy]; rfl)
      obtain ⟨g1, g2, g3, g4, g5, g6⟩ := g
      refine ⟨y', hy', ⟨by rw [g1]; unfold Vi.modEntry; dsimp only; rw [k1], ?_, fun k hk => ?_, fun hq => by rw [g2]; exact hwin hq,
          fun k hk => by rw [g2]; exact hqs k hk,
        g6.trans k6, g3.trans k3, ⟨fun n => { n with acceptedSent := true }, by rw [g1]; unfold Vi.modEntry; dsimp only; rw [k1]⟩, fun w hw => (ha.other w hw).trans (by
          unfold State.modEntry; rw [vi?_modVi, if_neg hw]; exact (j1 w hw).trans (hn.other w hw)),
        ha.hbm.trans (j2.trans hn.hbm), ha.steps.trans (j3.trans hn.steps), ha.waves.trans (j4.trans hn.waves),
            ha.yelms.trans (j5.trans hn.yelms), ha.udp.trans (j6.trans hn.udp),
        fun a b d hs => (ha.steer a b d).trans (by
          unfold State.modEntry; rw [steer_modVi]; exact j7 a b d ((hn.steer a b d).trans hs); intro _; rfl)⟩⟩
      · rw [g1]; unfold Vi.modEntry; dsimp only
        rw [tget_tmod, hpl, if_pos rfl, k1]; dsimp only
        rw [tget_tset, if_pos rfl, h2, ← hh, Bool.eq_false_iff.2 h3]; rfl
      · rw [g1]; unfold Vi.modEntry; dsimp only
        rw [tget_tmod, if_neg (by rw [← hpl]; exact hk), k1]; dsimp only
        rw [tget_tset, if_neg (by rw [← hpl]; exact hk)]
  · rw [if_neg h2] at ho
    exact done (by rw [Bool.eq_false_iff.2 h2]; rfl) ho

theorem take_fails (s : State) (p : Packet) (st : StaticCheck) (eff : Effect) :
    let u := s.entered p
    let t := u.takeTicket p
    (s.comesIn p = false → s.take p st eff = u) ∧
    (s.comesIn p = true →
      (∀ (v st' : Nat), u.check p = .reply v st' → s.take p st eff = t.answer v p (fReply + fFinal) st' []) ∧
      (∀ (v : Nat), u.check p = .duplicate v → s.take p st eff = t.repeatSent v p) ∧
      (u.check p = .drop → s.take p st eff = t) ∧
      (u.check p = .ignore → s.take p st eff = u) ∧
      (u.check p = .dropOther → s.take p st eff = t.modNet (fun n => { n with rxOther := bump n.rxOther })) ∧
      (u.check p = .dropNoVi → s.take p st eff = u.modNet (fun n => { n with rxNoVi := bump n.rxNoVi })) ∧
      (u.check p = .dropMismatch → s.take p st eff = u.modNet (fun n => { n with rxMismatch := bump n.rxMismatch }))) := by
  unfold State.comesIn State.entered
  dsimp only
  refine ⟨fun h => ?_, fun h => ⟨fun _ _ k => ?_, fun _ k => ?_, fun k => ?_, fun k => ?_, fun k => ?_, fun k => ?_,
      fun k => ?_⟩⟩ <;> unfold State.take
  · simp [h]
  all_goals simp [h, k, State.countOther]

theorem takeDirect_fails (s : State) (p : Packet) (eff : State → Cmd → State) :
    let u := s.entered p
    let t := u.takeTicket p
    (s.comesIn p = false → s.takeDirect p eff = u) ∧
    (s.comesIn p = true →
      (∀ (v st' : Nat), u.check p = .reply v st' → s.takeDirect p eff = t.answer v p (fReply + fFinal) st' []) ∧
      (∀ (v : Nat), u.check p = .duplicate v → s.takeDirect p eff = t.repeatSent v p) ∧
      (u.check p = .drop → s.takeDirect p eff = t) ∧
      (u.check p = .ignore → s.takeDirect p eff = u) ∧
      (u.check p = .dropOther → s.takeDirect p eff = t.modNet (fun n => { n with rxOther := bump n.rxOther })) ∧
      (u.check p = .dropNoVi → s.takeDirect p eff = u.modNet (fun n => { n with rxNoVi := bump n.rxNoVi })) ∧
      (u.check p = .dropMismatch → s.takeDirect p eff = u.modNet (fun n => { n with rxMismatch := bump n.rxMismatch }))) := by
  unfold State.comesIn State.entered
  dsimp only
  refine ⟨fun h => ?_, fun h => ⟨fun _ _ k => ?_, fun _ k => ?_, fun k => ?_, fun k => ?_, fun k => ?_, fun k => ?_,
      fun k => ?_⟩⟩ <;> unfold State.takeDirect
  · simp [h]
  all_goals simp [h, k, State.countOther]

theorem take_passes (s : State) (p : Packet) (st : StaticCheck) (eff : Effect) (v : Nat) (x : Vi) (hs : s.comesIn p = true)
    (hc : (s.entered p).check p = .pass v) (hx : (s.arrived p v).vi? v = some x) (hq : thas x.queues (pQueue p) = true) :
      (∀ (status : Nat) (pay : List Byte), st (s.arrived p v) (cmdOfPacket v p) = some (status, pay) →
        s.takeAs (pOpcode p) p st eff = (s.arrived p v).answer v p (fReply + fFinal) status pay) ∧
      (st (s.arrived p v) (cmdOfPacket v p) = none → x.fits (entrySize (pOpcode p) p) = false →
        s.takeAs (pOpcode p) p st eff = ((s.arrived p v).modVi v (fun x => x.modJrnl (fun j => { j with fullCount := bump j.fullCount }))).answer v p
          (fReply + fFinal) stJournalFull []) ∧
      (st (s.arrived p v) (cmdOfPacket v p) = none → x.fits (entrySize (pOpcode p) p) = true →
        s.takeAs (pOpcode p) p st eff = (s.opened p v).runEffect eff (s.command p v)) := by
  refine ⟨fun a b h => ?_, fun h hf => ?_, fun h hf => ?_⟩
  · unfold State.takeAs State.take; unfold State.arrived at *; unfold State.comesIn State.entered at *; simp [hs, hc, h]
  · cases hq2 : tget x.queues (pQueue p) with
    | none => rw [thas, hq2] at hq; cases hq
    | some q => unfold State.takeAs State.take; unfold State.arrived at *; unfold State.comesIn State.entered at *; simp [hs, hc, h, hx, hq2, hf]
  · refine takeAs_admits eff ?_ h
    simp only [State.admits, hs, hc, hx, hq, hf, Option.any_some, Bool.and_self, BEq.rfl]

theorem reclaim_drop (l : Tbl Entry) : Machine.reclaim l = l.dropWhile (fun n => n.2.state == .retired) := by
  induction l with
  | nil => rfl
  | cons e l ih =>
    obtain ⟨k, e⟩ := e
    unfold Machine.reclaim
    rw [List.dropWhile_cons]
    by_cases h : e.state = .retired
    · rw [if_pos h, ih]; simp [h]
    · rw [if_neg h]; simp [h]

theorem tset_last {α : Type} (l : Tbl α) (k : Nat) (x : α) (h : ∀ e ∈ l, e.1 < k) : tset l k x = l ++ [(k, x)] := by
  induction l with
  | nil => rfl
  | cons e l ih =>
    obtain ⟨j, y⟩ := e
    have := h (j, y) List.mem_cons_self
    dsimp only at this
    unfold tset
    rw [if_neg (by omega), if_neg (by omega), ih (fun e he => h e (List.mem_cons_of_mem _ he))]; rfl

theorem tmod_last {α : Type} (l : Tbl α) (k : Nat) (x : α) (f : α → α) (h : ∀ e ∈ l, e.1 < k) : tmod (l ++ [(k, x)]) k f = l ++ [(k,
    f x)] := by
  unfold tmod
  rw [List.map_append]
  congr 1
  · conv => rhs; rw [← List.map_id l]
    refine List.map_congr_left (fun e he => ?_)
    have := h e he
    rw [if_neg (by omega)]; rfl
  · simp

theorem sideband_refuses (s : State) (r : SbRequest) (len : List Byte → Bool) (exempt : Bool) (act : State → List Byte → State × Nat × List Byte) :
    let u := s.upto r.ts
    (u.pins.vddAon = false → s.sideband r len exempt act = u) ∧
    (u.pins.vddAon = true →
      (r.pecOk = false → s.sideband r len exempt act = u.sbReply 0x05 []) ∧
      (r.pecOk = true → len r.data = false → s.sideband r len exempt act = u.sbReply 0x04 []) ∧
      (r.pecOk = true → len r.data = true → exempt = false → u.sbWaits = true → s.sideband r len exempt act = u.sbReply 0x02 [])) := by
  dsimp only
  refine ⟨fun h => ?_, fun h => ⟨fun h1 => ?_, fun h1 h2 => ?_, fun h1 h2 h3 h4 => ?_⟩⟩ <;> unfold State.sideband
  · simp [h]
  · simp [h, h1]; rfl
  · simp [h, h1, h2]; rfl
  · simp [h, h1, h2, h3, h4]; rfl

end Sys2Proof.Machine
end

