-- ==== Sys2Proof/Laws/Memory.lean ====
section
/-! SUPPORT. The bytes of HBM: every operation on them keeps the canonical form, and what a byte reads as after a write (log entry 9). -/
namespace Sys2Proof.Machine

/-- The canonical form, as a property of the whole list. -/
theorem memWf_iff (m : List Host.Cell) : memWf m = true ↔ (∀ c ∈ m, c.2 ≠ 0) ∧ m.Pairwise (fun a b => a.1 < b.1) := by
  induction m with
  | nil => simp [memWf]
  | cons a t ih =>
    cases t with
    | nil => simp [memWf]
    | cons b t =>
      obtain ⟨a1, a2⟩ := a
      obtain ⟨b1, b2⟩ := b
      have e : memWf ((a1, a2) :: (b1, b2) :: t) = (a2 != 0 && decide (a1 < b1) && memWf ((b1, b2) :: t)) := rfl
      rw [e, Bool.and_eq_true, Bool.and_eq_true, ih]
      simp only [bne_iff_ne, decide_eq_true_eq, List.mem_cons, List.pairwise_cons]
      constructor
      · rintro ⟨⟨h1, h2⟩, h3, h4, h5⟩
        refine ⟨?_, ?_, h4, h5⟩
        · rintro c (rfl | hc)
          · exact h1
          · exact h3 c hc
        · rintro c (rfl | hc)
          · exact h2
          · exact lt_trans h2 (h4 c hc)
      · rintro ⟨h1, h2, h4, h5⟩
        exact ⟨⟨h1 _ (Or.inl rfl), h2 _ (Or.inl rfl)⟩, fun c hc => h1 c (Or.inr hc), h4, h5⟩

theorem memWf_nil : memWf [] = true := rfl

theorem memSet_fst {m : List Host.Cell} {k : Nat} {v : Byte} {c : Host.Cell} (h : c ∈ memSet m k v) :
    (c = (k, v) ∧ v ≠ 0) ∨ c ∈ m := by
  induction m with
  | nil => unfold memSet at h; split at h <;> simp_all
  | cons a t ih =>
    obtain ⟨a, b⟩ := a
    unfold memSet at h
    split at h
    · split at h <;> simp_all; tauto
    · split at h
      · split at h <;> simp_all
      · rcases List.mem_cons.1 h with h | h
        · exact Or.inr (h ▸ List.mem_cons_self)
        · rcases ih h with h | h
          · exact Or.inl h
          · exact Or.inr (List.mem_cons_of_mem _ h)

theorem memWf_memSet {m : List Host.Cell} (h : memWf m = true) (k : Nat) (v : Byte) : memWf (memSet m k v) = true := by
  rw [memWf_iff] at *
  refine ⟨fun c hc => ?_, ?_⟩
  · rcases memSet_fst hc with ⟨rfl, hv⟩ | hc
    · exact hv
    · exact h.1 c hc
  · obtain ⟨-, hp⟩ := h
    induction m with
    | nil => unfold memSet; split <;> simp
    | cons a t ih =>
      obtain ⟨a, b⟩ := a
      rw [List.pairwise_cons] at hp
      unfold memSet
      split
      · split
        · exact hp.2
        · rename_i hk _; subst hk
          exact List.pairwise_cons.2 ⟨hp.1, hp.2⟩
      · split
        · split
          · exact List.pairwise_cons.2 hp
          · rename_i hk _
            refine List.pairwise_cons.2 ⟨?_, List.pairwise_cons.2 hp⟩
            intro c hc
            rcases List.mem_cons.1 hc with rfl | hc
            · exact hk
            · exact lt_trans hk (hp.1 c hc)
        · refine List.pairwise_cons.2 ⟨?_, ih hp.2⟩
          intro c hc
          rcases memSet_fst hc with ⟨rfl, _⟩ | hc
          · simp only; omega
          · exact hp.1 c hc

theorem memWf_memWrite {m : List Host.Cell} (h : memWf m = true) (bs : List Byte) : ∀ a, memWf (memWrite m a bs) = true := by
  induction bs generalizing m with
  | nil => intro a; exact h
  | cons b bs ih => intro a; exact ih (memWf_memSet h a b) (a + 1)

theorem memWf_memZero {m : List Host.Cell} (h : memWf m = true) (a k : Nat) : memWf (memZero m a k) = true := by
  rw [memWf_iff] at *
  exact ⟨fun c hc => h.1 c (List.mem_filter.1 hc).1, h.2.filter _⟩

theorem memWf_foldl {α : Type} {f : List Host.Cell → α → List Host.Cell} (hf : ∀ m a, memWf m = true → memWf (f m a) = true)
    (l : List α) : ∀ {m}, memWf m = true → memWf (l.foldl f m) = true := by
  induction l with
  | nil => intro m h; exact h
  | cons a l ih => intro m h; exact ih (hf m a h)

theorem memWf_writeRows {m : List Host.Cell} (h : memWf m = true) (base : Nat) (l : KvLayer) (fmt pos slot : Nat) (b : BlockPair)
    (r : KvRow) : memWf (writeRows m base l fmt pos slot b r) = true :=
  memWf_foldl (fun _ _ hm => memWf_memWrite (memWf_memWrite hm _ _) _ _) _ h

theorem memWf_writeStaged {m : List Host.Cell} (h : memWf m = true) (base : Nat) (l : KvLayer) (fmt pos layer : Nat) (t : Step)
    (b : BlockPair) (lo hi : Nat) : memWf (writeStaged m base l fmt pos layer t b lo hi) = true :=
  memWf_foldl (fun _ _ hm => memWf_writeRows hm ..) _ h

theorem memWf_clearSlots {m : List Host.Cell} (h : memWf m = true) (base : Nat) (l : KvLayer) (fmt pos : Nat) (b : BlockPair) (lo hi : Nat) :
    memWf (clearSlots m base l fmt pos b lo hi) = true :=
  memWf_foldl (fun _ _ hm => by
    split
    · exact hm
    · exact memWf_writeRows hm ..) _ h

theorem memGet_memSet {m : List Host.Cell} (h : memWf m = true) (k a : Nat) (v : Byte) :
    memGet (memSet m k v) a = if a = k then v else memGet m a := by
  rw [memWf_iff] at h
  obtain ⟨-, hp⟩ := h
  have miss : ∀ (t : List Host.Cell), (∀ c ∈ t, a < c.1) → memGet t a = 0 := by
    intro t
    induction t with
    | nil => intro _; rfl
    | cons c t ih =>
      intro hc
      obtain ⟨c1, c2⟩ := c
      have := hc (c1, c2) List.mem_cons_self
      unfold memGet
      rw [if_neg (by simp only at this; omega)]
      exact ih (fun c hc' => hc c (List.mem_cons_of_mem _ hc'))
  induction m with
  | nil => unfold memSet; split <;> simp_all [memGet]
  | cons e t ih =>
    obtain ⟨e, b⟩ := e
    rw [List.pairwise_cons] at hp
    unfold memSet
    split
    · rename_i hk; subst hk
      split
      · rename_i hv; subst hv
        by_cases ha : a = k
        · subst ha; rw [if_pos rfl]; exact miss t (fun c hc => hp.1 c hc)
        · rw [if_neg ha]; simp [memGet, ha]
      · by_cases ha : a = k <;> simp [memGet, ha]
    · split
      · rename_i hne hlt
        split
        · rename_i hv; subst hv
          by_cases ha : a = k
          · subst ha; rw [if_pos rfl]
            refine miss _ (fun c hc => ?_)
            rcases List.mem_cons.1 hc with rfl | hc
            · exact hlt
            · exact lt_trans hlt (hp.1 c hc)
          · rw [if_neg ha]
        · by_cases ha : a = k <;> simp [memGet, ha]
      · rename_i hne _
        have := ih hp.2
        by_cases hae : a = e
        · subst hae; simp [memGet, Ne.symm hne]
        · simp only [memGet, hae, if_false]; exact this

theorem memGet_memZero (m : List Host.Cell) (a k x : Nat) :
    memGet (memZero m a k) x = if a ≤ x ∧ x < a + k then 0 else memGet m x := by
  unfold memZero
  induction m with
  | nil => simp [memGet]
  | cons c t ih =>
    obtain ⟨c, b⟩ := c
    rw [List.filter_cons]
    by_cases hc : (decide (c < a) || decide (a + k ≤ c)) = true
    · rw [if_pos hc]
      simp only [memGet]
      by_cases hx : x = c
      · subst hx
        rw [if_pos rfl, if_pos rfl, if_neg]
        simp only [Bool.or_eq_true, decide_eq_true_eq] at hc; omega
      · rw [if_neg hx, if_neg hx]; exact ih
    · rw [if_neg hc, ih]
      simp only [Bool.or_eq_true, decide_eq_true_eq, not_or, not_lt, not_le] at hc
      simp only [memGet]
      by_cases hx : x = c
      · subst hx; rw [if_pos hc, if_pos hc]
      · rw [if_neg hx]

end Sys2Proof.Machine
end

