-- ==== Sys2Proof/Laws/Keeps.lean ====
section
/-! SUPPORT. What every step keeps (Keeps of Safety): the shared changes of State keep it, and so do choices and folds of them. -/
namespace Sys2Proof.Machine

variable {q : List Instr} {n m : Nat} {s : State}

theorem keeps_mk (p now dr ou ns nw net vis steps waves yelms hbm time err cal mon pwr clk sec pins store pv qv fr) :
    Keeps q n m (State.mk p now dr ou ns nw net vis steps waves yelms hbm time err cal mon pwr clk sec pins store pv qv fr) ↔
      p = q ∧ n ≤ now ∧ m ≤ sec.minSvn ∧ memWf hbm = true :=
  ⟨fun h => ⟨h.queue, h.now, h.svn, h.mem⟩, fun h => ⟨h.1, h.2.1, h.2.2.1, h.2.2.2⟩⟩

theorem Keeps.out (h : Keeps q n m s) : s.pending = q ∧ n ≤ s.now ∧ m ≤ s.sec.minSvn ∧ memWf s.hbm = true :=
  ⟨h.queue, h.now, h.svn, h.mem⟩

theorem Keeps.withMem (h : Keeps q n m s) {k : List Host.Cell} (hk : memWf k = true) :
    s.pending = q ∧ n ≤ s.now ∧ m ≤ s.sec.minSvn ∧ memWf k = true :=
  ⟨h.queue, h.now, h.svn, hk⟩

theorem keeps_modVi (v) (f : Vi → Vi) : Keeps q n m (s.modVi v f) ↔ Keeps q n m s :=
  ⟨fun h => ⟨h.queue, h.now, h.svn, h.mem⟩, fun h => ⟨h.queue, h.now, h.svn, h.mem⟩⟩

theorem keeps_modView (v) (f : Vi → Vi) : Keeps q n m (s.modView v f) ↔ Keeps q n m s := by
  unfold State.modView
  split
  · exact keeps_modVi v f
  · exact ⟨fun h => ⟨h.queue, h.now, h.svn, h.mem⟩, fun h => ⟨h.queue, h.now, h.svn, h.mem⟩⟩

theorem keeps_setVi (v) (x : Vi) : Keeps q n m (s.setVi v x) ↔ Keeps q n m s :=
  ⟨fun h => ⟨h.queue, h.now, h.svn, h.mem⟩, fun h => ⟨h.queue, h.now, h.svn, h.mem⟩⟩

theorem keeps_modStep (k) (f : Step → Step) : Keeps q n m (s.modStep k f) ↔ Keeps q n m s :=
  ⟨fun h => ⟨h.queue, h.now, h.svn, h.mem⟩, fun h => ⟨h.queue, h.now, h.svn, h.mem⟩⟩

theorem keeps_modWave (k) (f : Wave → Wave) : Keeps q n m (s.modWave k f) ↔ Keeps q n m s :=
  ⟨fun h => ⟨h.queue, h.now, h.svn, h.mem⟩, fun h => ⟨h.queue, h.now, h.svn, h.mem⟩⟩

theorem keeps_modNet (f : Net → Net) : Keeps q n m (s.modNet f) ↔ Keeps q n m s :=
  ⟨fun h => ⟨h.queue, h.now, h.svn, h.mem⟩, fun h => ⟨h.queue, h.now, h.svn, h.mem⟩⟩

theorem keeps_modErr (f : ErrBlk → ErrBlk) : Keeps q n m (s.modErr f) ↔ Keeps q n m s :=
  ⟨fun h => ⟨h.queue, h.now, h.svn, h.mem⟩, fun h => ⟨h.queue, h.now, h.svn, h.mem⟩⟩

theorem keeps_modTime (f : TimeBlk → TimeBlk) : Keeps q n m (s.modTime f) ↔ Keeps q n m s :=
  ⟨fun h => ⟨h.queue, h.now, h.svn, h.mem⟩, fun h => ⟨h.queue, h.now, h.svn, h.mem⟩⟩

theorem keeps_modPwr (f : PwrBlk → PwrBlk) : Keeps q n m (s.modPwr f) ↔ Keeps q n m s :=
  ⟨fun h => ⟨h.queue, h.now, h.svn, h.mem⟩, fun h => ⟨h.queue, h.now, h.svn, h.mem⟩⟩

theorem keeps_modMon (f : MonBlk → MonBlk) : Keeps q n m (s.modMon f) ↔ Keeps q n m s :=
  ⟨fun h => ⟨h.queue, h.now, h.svn, h.mem⟩, fun h => ⟨h.queue, h.now, h.svn, h.mem⟩⟩

theorem keeps_modCal (f : CalBlk → CalBlk) : Keeps q n m (s.modCal f) ↔ Keeps q n m s :=
  ⟨fun h => ⟨h.queue, h.now, h.svn, h.mem⟩, fun h => ⟨h.queue, h.now, h.svn, h.mem⟩⟩

theorem keeps_modEntry (v e) (f : Entry → Entry) : Keeps q n m (s.modEntry v e f) ↔ Keeps q n m s :=
  ⟨fun h => ⟨h.queue, h.now, h.svn, h.mem⟩, fun h => ⟨h.queue, h.now, h.svn, h.mem⟩⟩

theorem keeps_modPair (v) (f : Pair → Pair) : Keeps q n m (s.modPair v f) ↔ Keeps q n m s :=
  ⟨fun h => ⟨h.queue, h.now, h.svn, h.mem⟩, fun h => ⟨h.queue, h.now, h.svn, h.mem⟩⟩

theorem keeps_setYelm (y) (x : Yelm) : Keeps q n m (s.setYelm y x) ↔ Keeps q n m s :=
  ⟨fun h => ⟨h.queue, h.now, h.svn, h.mem⟩, fun h => ⟨h.queue, h.now, h.svn, h.mem⟩⟩

theorem keeps_modYelm (y) (f : Yelm → Yelm) : Keeps q n m (s.modYelm y f) ↔ Keeps q n m s :=
  ⟨fun h => ⟨h.queue, h.now, h.svn, h.mem⟩, fun h => ⟨h.queue, h.now, h.svn, h.mem⟩⟩

theorem keeps_modArr (y a) (f : Arr → Arr) : Keeps q n m (s.modArr y a f) ↔ Keeps q n m s :=
  ⟨fun h => ⟨h.queue, h.now, h.svn, h.mem⟩, fun h => ⟨h.queue, h.now, h.svn, h.mem⟩⟩

theorem keeps_modImg (v) (f : ImgState → ImgState) : Keeps q n m (s.modImg v f) ↔ Keeps q n m s :=
  ⟨fun h => ⟨h.queue, h.now, h.svn, h.mem⟩, fun h => ⟨h.queue, h.now, h.svn, h.mem⟩⟩

theorem keeps_modOp (v) (f : ImgOp → ImgOp) : Keeps q n m (s.modOp v f) ↔ Keeps q n m s :=
  ⟨fun h => ⟨h.queue, h.now, h.svn, h.mem⟩, fun h => ⟨h.queue, h.now, h.svn, h.mem⟩⟩

theorem keeps_modSec (f : SecBlk → SecBlk) : Keeps q n m (s.modSec f) ↔ s.pending = q ∧ n ≤ s.now ∧ m ≤ (f s.sec).minSvn ∧ memWf s.hbm = true :=
  ⟨fun h => ⟨h.queue, h.now, h.svn, h.mem⟩, fun h => ⟨h.1, h.2.1, h.2.2.1, h.2.2.2⟩⟩

theorem Keeps.ite {c : Prop} [Decidable c] {a b : State} (ha : Keeps q n m a) (hb : Keeps q n m b) :
    Keeps q n m (if c then a else b) := by
  split
  · exact ha
  · exact hb

theorem Keeps.foldl {α : Type} {f : State → α → State} (hf : ∀ s a, Keeps q n m s → Keeps q n m (f s a)) (l : List α) :
    ∀ {s}, Keeps q n m s → Keeps q n m (l.foldl f s) := by
  induction l with
  | nil => intro s h; exact h
  | cons a l ih => intro s h; exact ih (hf s a h)

end Sys2Proof.Machine
end

