-- ==== Sys2Proof/Laws/KeepsQueues.lean ====
section
/-! SUPPORT. Sending, the journal and the checks of a request; rows, interfaces, connections and queues. One lemma for every operation: it keeps Keeps. -/
namespace Sys2Proof.Machine
set_option Elab.async false
set_option linter.all false
set_option linter.unusedTactic false
set_option linter.unreachableTactic false
set_option linter.unusedSimpArgs false
variable {q : List Instr} {n m : Nat} {s : State}

/-! ### Ops -/

theorem State.draw_keeps (h : Keeps q n m s)  :
    Keeps q n m (State.draw s).2 := by
  unfold State.draw
  repeat' (first | assumption | simp only [keeps_mk] | with_reducible refine Keeps.out ?_ | with_reducible refine Keeps.foldl ?_ _ ?_ |
      with_reducible refine Keeps.ite ?_ ?_ | intro _ _ _ | split | dsimp only)

theorem State.upto_keeps (h : Keeps q n m s) (ts : Nat) : Keeps q n m (s.upto ts) :=
  ⟨h.queue, le_trans h.now (le_max_left _ _), h.svn, h.mem⟩

theorem State.report_keeps (h : Keeps q n m s) (r : Rec) :
    Keeps q n m (State.report s r) := by
  unfold State.report
  repeat' (first | assumption | simp only [keeps_modVi, keeps_modErr, keeps_mk] | with_reducible refine Keeps.out ?_ |
      with_reducible refine Keeps.foldl ?_ _ ?_ | with_reducible refine Keeps.ite ?_ ?_ | intro _ _ _ | split | dsimp only)

theorem State.reportN_keeps (h : Keeps q n m s) (r : Rec) (k : Nat) : Keeps q n m (s.reportN r k) := by
  induction k generalizing s with
  | zero => exact h
  | succ k ih => exact ih (State.report_keeps h r)

theorem State.uncorrected_keeps (h : Keeps q n m s) (old : Rec) (new : Rec) :
    Keeps q n m (State.uncorrected s old new) := by
  unfold State.uncorrected
  repeat' (first | assumption | simp only [keeps_modVi, keeps_modErr, keeps_mk] | with_reducible refine Keeps.out ?_ |
      with_reducible refine Keeps.foldl ?_ _ ?_ | with_reducible refine Keeps.ite ?_ ?_ | intro _ _ _ | split | dsimp only)

theorem State.macTx_keeps (h : Keeps q n m s) (lp : Nat) {t : State × Option Nat} (ht : s.macTx lp = some t) : Keeps q n m t.1 := by
  unfold State.macTx at ht
  split at ht
  · cases ht; exact h
  · split at ht
    · cases ht; exact h
    · split at ht
      · cases ht
      · cases ht; exact ⟨h.queue, h.now, h.svn, h.mem⟩

theorem State.xmit_keeps (h : Keeps q n m s) (lp prio : Nat) (o : Out) : Keeps q n m (s.xmit lp prio o) := by
  unfold State.xmit
  split
  · exact h
  · exact (keeps_modNet _).2 h
  · split
    · exact h
    · rename_i e
      have := State.macTx_keeps h _ e
      exact ⟨this.queue, this.now, this.svn, this.mem⟩

theorem State.route_keeps (h : Keeps q n m s) (v : Nat) (dst : BitVec 128) (port : Option Nat) (prio : Nat) (o : Out) :
    Keeps q n m (State.route s v dst port prio o) := by
  unfold State.route
  repeat' (first | assumption | with_reducible apply State.xmit_keeps | simp only [keeps_modNet, keeps_mk] |
      with_reducible refine Keeps.out ?_ | with_reducible refine Keeps.foldl ?_ _ ?_ | with_reducible refine Keeps.ite ?_ ?_ |
      intro _ _ _ | split | dsimp only)

theorem State.send_keeps (h : Keeps q n m s) (v : Nat) (dst : BitVec 128) (udp : Nat) (prio : Nat) (bytes : List Byte) :
    Keeps q n m (State.send s v dst udp prio bytes) := by
  unfold State.send
  repeat' (first | assumption | with_reducible apply State.route_keeps | simp only [keeps_modVi, keeps_mk] |
      with_reducible refine Keeps.out ?_ | with_reducible refine Keeps.foldl ?_ _ ?_ | with_reducible refine Keeps.ite ?_ ?_ |
      intro _ _ _ | split | dsimp only)

theorem State.rcSend_keeps (h : Keeps q n m s) (v : Nat) (c : Conn) (o : Out) :
    Keeps q n m (State.rcSend s v c o) := by
  unfold State.rcSend
  repeat' (first | assumption | with_reducible apply State.route_keeps | simp only [keeps_mk] | with_reducible refine Keeps.out ?_ |
      with_reducible refine Keeps.foldl ?_ _ ?_ | with_reducible refine Keeps.ite ?_ ?_ | intro _ _ _ | split | dsimp only)

theorem State.pfcOccupancy_keeps (h : Keeps q n m s) (lp : Nat) (prio : Nat) (headroom : Nat) :
    Keeps q n m (State.pfcOccupancy s lp prio headroom) := by
  unfold State.pfcOccupancy
  repeat' (first | assumption | simp only [keeps_modNet, keeps_mk] | with_reducible refine Keeps.out ?_ |
      with_reducible refine Keeps.foldl ?_ _ ?_ | with_reducible refine Keeps.ite ?_ ?_ | intro _ _ _ | split | dsimp only)

theorem State.takeHeadroom_keeps (h : Keeps q n m s) (lp : Nat) (r : RxMeta) :
    Keeps q n m (State.takeHeadroom s lp r) := by
  unfold State.takeHeadroom
  repeat' (first | assumption | with_reducible apply State.pfcOccupancy_keeps | simp only [keeps_mk] |
      with_reducible refine Keeps.out ?_ | with_reducible refine Keeps.foldl ?_ _ ?_ | with_reducible refine Keeps.ite ?_ ?_ |
      intro _ _ _ | split | dsimp only)

theorem State.rxPort_keeps (h : Keeps q n m s) (lp : Nat) (r : RxMeta) :
    Keeps q n m (State.rxPort s lp r).2 := by
  unfold State.rxPort
  repeat' (first | assumption | with_reducible apply State.takeHeadroom_keeps | simp only [keeps_modNet, keeps_modSec, keeps_mk] |
      with_reducible refine Keeps.out ?_ | with_reducible refine Keeps.foldl ?_ _ ?_ | with_reducible refine Keeps.ite ?_ ?_ |
      intro _ _ _ | split | dsimp only)

theorem State.rxGate_keeps (h : Keeps q n m s) (lp : Nat) (r : RxMeta) : Keeps q n m (s.rxGate lp r).2 := by
  unfold State.rxGate
  split
  · exact State.rxPort_keeps h lp r
  · exact h

theorem State.enter_keeps (h : Keeps q n m s) (p : Packet) : Keeps q n m (s.enter p).2 := by
  unfold State.enter
  split
  · exact h
  · exact State.rxGate_keeps h _ _

theorem State.answer_keeps (h : Keeps q n m s) (v : Nat) (p : Packet) (flags : Nat) (status : Nat) (pay : List Byte) :
    Keeps q n m (State.answer s v p flags status pay) := by
  unfold State.answer
  repeat' (first | assumption | with_reducible apply State.send_keeps | simp only [keeps_mk] | with_reducible refine Keeps.out ?_ |
      with_reducible refine Keeps.foldl ?_ _ ?_ | with_reducible refine Keeps.ite ?_ ?_ | intro _ _ _ | split | dsimp only)

theorem State.notice_keeps (h : Keeps q n m s) (v : Nat) (op : Nat) (pay : List Byte) :
    Keeps q n m (State.notice s v op pay) := by
  unfold State.notice
  repeat' (first | assumption | with_reducible apply State.send_keeps | simp only [keeps_modVi, keeps_mk] |
      with_reducible refine Keeps.out ?_ | with_reducible refine Keeps.foldl ?_ _ ?_ | with_reducible refine Keeps.ite ?_ ?_ |
      intro _ _ _ | split | dsimp only)

theorem State.issue_keeps (h : Keeps q n m s) (v : Nat) (rc : Nat) (t : Xfer) :
    Keeps q n m (State.issue s v rc t) := by
  unfold State.issue
  repeat' (first | assumption | with_reducible apply State.rcSend_keeps | with_reducible apply State.rdma_keeps |
      simp only [keeps_modVi, keeps_mk] | with_reducible refine Keeps.out ?_ | with_reducible refine Keeps.foldl ?_ _ ?_ |
      with_reducible refine Keeps.ite ?_ ?_ | intro _ _ _ | split | dsimp only)

theorem State.rdma_keeps (h : Keeps q n m s) (v : Nat) (rc : Nat) (purpose : Purpose) (write : Bool) (addr : Nat) (len : Nat) (q₁ : Nat) (data : List Byte) :
    Keeps q n m (State.rdma s v rc purpose write addr len q₁ data) := by
  unfold State.rdma
  repeat' (first | assumption | with_reducible apply State.issue_keeps | simp only [keeps_mk] | with_reducible refine Keeps.out ?_ |
      with_reducible refine Keeps.foldl ?_ _ ?_ | with_reducible refine Keeps.ite ?_ ?_ | intro _ _ _ | split | dsimp only)

theorem State.pumpReads_keeps (h : Keeps q n m s) (v : Nat) (rc : Nat) :
    Keeps q n m (State.pumpReads s v rc) := by
  unfold State.pumpReads
  repeat' (first | assumption | with_reducible apply State.rcSend_keeps | with_reducible apply State.rdma_keeps |
      simp only [keeps_modVi, keeps_mk] | with_reducible refine Keeps.out ?_ | with_reducible refine Keeps.foldl ?_ _ ?_ |
      with_reducible refine Keeps.ite ?_ ?_ | intro _ _ _ | split | dsimp only)

theorem State.pairSend_keeps (h : Keeps q n m s) (v : Nat) (rc : Nat) (m₁ : PairMsg) :
    Keeps q n m (State.pairSend s v rc m₁) := by
  unfold State.pairSend
  repeat' (first | assumption | with_reducible apply State.rcSend_keeps | simp only [keeps_mk] | with_reducible refine Keeps.out ?_ |
      with_reducible refine Keeps.foldl ?_ _ ?_ | with_reducible refine Keeps.ite ?_ ?_ | intro _ _ _ | split | dsimp only)

theorem State.emit_keeps (h : Keeps q n m s) (v : Nat) (seq : Option Nat) (last : Bool) (b : MirrorBody) :
    Keeps q n m (State.emit s v seq last b) := by
  unfold State.emit
  repeat' (first | assumption | with_reducible apply State.pairSend_keeps | simp only [keeps_modPair, keeps_mk] |
      with_reducible refine Keeps.out ?_ | with_reducible refine Keeps.foldl ?_ _ ?_ | with_reducible refine Keeps.ite ?_ ?_ |
      intro _ _ _ | split | dsimp only)

theorem State.takeTicket_keeps (h : Keeps q n m s) (p : Packet) :
    Keeps q n m (State.takeTicket s p) := by
  unfold State.takeTicket
  repeat' (first | assumption | simp only [keeps_modVi, keeps_mk] | with_reducible refine Keeps.out ?_ |
      with_reducible refine Keeps.foldl ?_ _ ?_ | with_reducible refine Keeps.ite ?_ ?_ | intro _ _ _ | split | dsimp only)

theorem State.countOther_keeps (h : Keeps q n m s)  :
    Keeps q n m (State.countOther s) := by
  unfold State.countOther
  repeat' (first | assumption | simp only [keeps_modNet, keeps_mk] | with_reducible refine Keeps.out ?_ |
      with_reducible refine Keeps.foldl ?_ _ ?_ | with_reducible refine Keeps.ite ?_ ?_ | intro _ _ _ | split | dsimp only)

theorem State.journal_keeps (h : Keeps q n m s) (v : Nat) (x : Vi) (p : Packet) (q₁ : Queue) :
    Keeps q n m (State.journal s v x p q₁).1 := by
  unfold State.journal
  repeat' (first | assumption | with_reducible apply State.emit_keeps | simp only [keeps_setVi, keeps_mk] |
      with_reducible refine Keeps.out ?_ | with_reducible refine Keeps.foldl ?_ _ ?_ | with_reducible refine Keeps.ite ?_ ?_ |
      intro _ _ _ | split | dsimp only)

theorem State.retire_keeps (h : Keeps q n m s) (v : Nat) (e : Nat) :
    Keeps q n m (State.retire s v e) := by
  unfold State.retire
  repeat' (first | assumption | with_reducible apply State.emit_keeps | simp only [keeps_modVi, keeps_modEntry, keeps_mk] |
      with_reducible refine Keeps.out ?_ | with_reducible refine Keeps.foldl ?_ _ ?_ | with_reducible refine Keeps.ite ?_ ?_ |
      intro _ _ _ | split | dsimp only)

theorem State.outcome_keeps (h : Keeps q n m s) (v : Nat) (e : Nat) (status : Nat) (pay : List Byte) :
    Keeps q n m (State.outcome s v e status pay) := by
  unfold State.outcome
  repeat' (first | assumption | with_reducible apply State.emit_keeps | simp only [keeps_modEntry, keeps_mk] |
      with_reducible refine Keeps.out ?_ | with_reducible refine Keeps.foldl ?_ _ ?_ | with_reducible refine Keeps.ite ?_ ?_ |
      intro _ _ _ | split | dsimp only)

theorem State.runEffect_keeps (h : Keeps q n m s) (eff : Effect) (c : Cmd)
    (he : ∀ s, Keeps q n m s → ∀ c, Keeps q n m (eff s c).1) : Keeps q n m (s.runEffect eff c) := by
  have hc := he s h c
  unfold State.runEffect
  split
  · rename_i e; rw [e] at hc; exact hc
  · rename_i e; rw [e] at hc; exact State.outcome_keeps hc ..

theorem State.accepts_keeps (h : Keeps q n m s) (v : Nat) (e : Nat) (p : Packet) :
    Keeps q n m (State.accepts s v e p) := by
  unfold State.accepts
  repeat' (first | assumption | with_reducible apply State.answer_keeps | simp only [keeps_modEntry, keeps_mk] |
      with_reducible refine Keeps.out ?_ | with_reducible refine Keeps.foldl ?_ _ ?_ | with_reducible refine Keeps.ite ?_ ?_ |
      intro _ _ _ | split | dsimp only)

theorem State.sendAccepted_keeps (h : Keeps q n m s) (v : Nat) (e : Nat) (p : Packet) :
    Keeps q n m (State.sendAccepted s v e p) := by
  unfold State.sendAccepted
  repeat' (first | assumption | with_reducible apply State.accepts_keeps | simp only [keeps_mk] | with_reducible refine Keeps.out ?_ |
      with_reducible refine Keeps.foldl ?_ _ ?_ | with_reducible refine Keeps.ite ?_ ?_ | intro _ _ _ | split | dsimp only)

theorem State.noteRequest_keeps (h : Keeps q n m s) (v : Nat) (p : Packet) :
    Keeps q n m (State.noteRequest s v p) := by
  unfold State.noteRequest
  repeat' (first | assumption | simp only [keeps_modVi, keeps_mk] | with_reducible refine Keeps.out ?_ |
      with_reducible refine Keeps.foldl ?_ _ ?_ | with_reducible refine Keeps.ite ?_ ?_ | intro _ _ _ | split | dsimp only)

theorem State.repeatSent_keeps (h : Keeps q n m s) (v : Nat) (p : Packet) :
    Keeps q n m (State.repeatSent s v p) := by
  unfold State.repeatSent
  repeat' (first | assumption | with_reducible apply State.send_keeps | simp only [keeps_modEntry, keeps_mk] |
      with_reducible refine Keeps.out ?_ | with_reducible refine Keeps.foldl ?_ _ ?_ | with_reducible refine Keeps.ite ?_ ?_ |
      intro _ _ _ | split | dsimp only)

theorem State.noteHost_keeps (h : Keeps q n m s) (op : Nat) :
    Keeps q n m (State.noteHost s op) := by
  unfold State.noteHost
  repeat' (first | assumption | simp only [keeps_modPwr, keeps_mk] | with_reducible refine Keeps.out ?_ |
      with_reducible refine Keeps.foldl ?_ _ ?_ | with_reducible refine Keeps.ite ?_ ?_ | intro _ _ _ | split | dsimp only)

theorem State.take_keeps (h : Keeps q n m s) (p : Packet) (static : StaticCheck) (eff : Effect)
    (he : ∀ s, Keeps q n m s → ∀ c, Keeps q n m (eff s c).1) : Keeps q n m (s.take p static eff) := by
  have h2 := State.enter_keeps (State.upto_keeps h p.ts) p
  unfold State.take
  generalize (s.upto p.ts).enter p = g at h2
  repeat' (first | assumption | with_reducible apply State.answer_keeps | with_reducible apply State.takeTicket_keeps |
      with_reducible apply State.countOther_keeps | with_reducible apply State.repeatSent_keeps |
      with_reducible apply State.noteRequest_keeps | with_reducible apply State.sendAccepted_keeps |
      with_reducible apply State.journal_keeps | with_reducible apply State.noteHost_keeps | with_reducible apply State.runEffect_keeps |
      simp only [keeps_modVi, keeps_modNet, keeps_mk] | split | dsimp only)

theorem State.takeDirect_keeps (h : Keeps q n m s) (p : Packet) (eff : State → Cmd → State)
    (he : ∀ s, Keeps q n m s → ∀ c, Keeps q n m (eff s c)) : Keeps q n m (s.takeDirect p eff) := by
  have h2 := State.enter_keeps (State.upto_keeps h p.ts) p
  unfold State.takeDirect
  generalize (s.upto p.ts).enter p = g at h2
  dsimp only
  split
  · exact h2
  · split
    case h_8 => exact he _ ((keeps_modVi _ _).2 (State.noteRequest_keeps (State.takeTicket_keeps (State.noteHost_keeps h2 _) _) _ _)) _
    all_goals repeat' (first | assumption | with_reducible apply State.answer_keeps | with_reducible apply State.takeTicket_keeps |
        with_reducible apply State.countOther_keeps | with_reducible apply State.repeatSent_keeps |
        simp only [keeps_modVi, keeps_modNet, keeps_mk])

theorem State.takeAs_keeps (h : Keeps q n m s) (op : Nat) (p : Packet) (static : StaticCheck) (eff : Effect)
    (he : ∀ s, Keeps q n m s → ∀ c, Keeps q n m (eff s c).1) : Keeps q n m (s.takeAs op p static eff) := by
  unfold State.takeAs
  split
  · exact State.take_keeps h p static eff he
  · exact State.upto_keeps h _

/-! ### Sched -/

theorem State.freeT1_keeps (h : Keeps q n m s) (v : Nat) (mE : Nat) (mS : Nat) (b : BlockPair) :
    Keeps q n m (State.freeT1 s v mE mS b) := by
  unfold State.freeT1
  repeat' (first | assumption | simp only [keeps_modVi, keeps_mk] | with_reducible refine Keeps.out ?_ | exact memWf_nil |
      with_reducible refine Keeps.withMem ?_ ?_ | with_reducible apply memWf_memZero |
      with_reducible refine Keeps.mem (q := q) (n := n) (m := m) ?_ | with_reducible refine Keeps.foldl ?_ _ ?_ |
      with_reducible refine Keeps.ite ?_ ?_ | intro _ _ _ | split | dsimp only)

theorem State.releasePage_keeps (h : Keeps q n m s) (v : Nat) (k : Nat) :
    Keeps q n m (State.releasePage s v k) := by
  unfold State.releasePage
  repeat' (first | assumption | with_reducible apply State.freeT1_keeps | simp only [keeps_modVi, keeps_mk] |
      with_reducible refine Keeps.out ?_ | with_reducible refine Keeps.foldl ?_ _ ?_ | with_reducible refine Keeps.ite ?_ ?_ |
      intro _ _ _ | split | dsimp only)

theorem State.unref_keeps (h : Keeps q n m s) (v : Nat) (q₁ : Nat) (k : Nat) :
    Keeps q n m (State.unref s v q₁ k) := by
  unfold State.unref
  repeat' (first | assumption | with_reducible apply State.releasePage_keeps | simp only [keeps_modVi, keeps_mk] |
      with_reducible refine Keeps.out ?_ | with_reducible refine Keeps.foldl ?_ _ ?_ | with_reducible refine Keeps.ite ?_ ?_ |
      intro _ _ _ | split | dsimp only)

theorem State.unpin_keeps (h : Keeps q n m s) (v : Nat) (st : Nat) (k : Nat) :
    Keeps q n m (State.unpin s v st k) := by
  unfold State.unpin
  repeat' (first | assumption | with_reducible apply State.releasePage_keeps | simp only [keeps_modVi, keeps_mk] |
      with_reducible refine Keeps.out ?_ | with_reducible refine Keeps.foldl ?_ _ ?_ | with_reducible refine Keeps.ite ?_ ?_ |
      intro _ _ _ | split | dsimp only)

theorem State.leaveWaves_keeps (h : Keeps q n m s) (k : Nat) :
    Keeps q n m (State.leaveWaves s k) := by
  unfold State.leaveWaves
  repeat' (first | assumption | simp only [keeps_mk] | with_reducible refine Keeps.out ?_ | with_reducible refine Keeps.foldl ?_ _ ?_ |
      with_reducible refine Keeps.ite ?_ ?_ | intro _ _ _ | split | dsimp only)

theorem State.dropStep_keeps (h : Keeps q n m s) (k : Nat) :
    Keeps q n m (State.dropStep s k) := by
  unfold State.dropStep
  repeat' (first | assumption | with_reducible apply State.freeT1_keeps | with_reducible apply State.unpin_keeps |
      with_reducible apply State.leaveWaves_keeps | simp only [keeps_modVi, keeps_mk] | with_reducible refine Keeps.out ?_ |
      exact memWf_nil | with_reducible refine Keeps.withMem ?_ ?_ | with_reducible apply memWf_memZero |
      with_reducible refine memWf_foldl ?_ _ ?_ | with_reducible refine Keeps.mem (q := q) (n := n) (m := m) ?_ |
      with_reducible refine Keeps.foldl ?_ _ ?_ | with_reducible refine Keeps.ite ?_ ?_ | intro _ _ _ | split | dsimp only)

theorem State.abandon_keeps (h : Keeps q n m s) (v : Nat) (e : Nat) :
    Keeps q n m (State.abandon s v e) := by
  unfold State.abandon
  repeat' (first | assumption | with_reducible apply State.outcome_keeps | simp only [keeps_mk] | with_reducible refine Keeps.out ?_ |
      with_reducible refine Keeps.foldl ?_ _ ?_ | with_reducible refine Keeps.ite ?_ ?_ | intro _ _ _ | split | dsimp only)

theorem State.failStep_keeps (h : Keeps q n m s) (k : Nat) (status : Nat) :
    Keeps q n m (State.failStep s k status) := by
  unfold State.failStep
  repeat' (first | assumption | with_reducible apply State.outcome_keeps | with_reducible apply State.dropStep_keeps |
      simp only [keeps_modVi, keeps_mk] | with_reducible refine Keeps.out ?_ | with_reducible refine Keeps.foldl ?_ _ ?_ |
      with_reducible refine Keeps.ite ?_ ?_ | intro _ _ _ | split | dsimp only)

theorem State.abandonSteps_keeps (h : Keeps q n m s) (sel : Nat → Step → Bool) :
    Keeps q n m (State.abandonSteps s sel).1 := by
  unfold State.abandonSteps
  repeat' (first | assumption | with_reducible apply State.failStep_keeps | simp only [keeps_modStep, keeps_mk] |
      with_reducible refine Keeps.out ?_ | with_reducible refine Keeps.foldl ?_ _ ?_ | with_reducible refine Keeps.ite ?_ ?_ |
      intro _ _ _ | split | dsimp only)

theorem State.endWaits_keeps (h : Keeps q n m s) (v : Nat) :
    Keeps q n m (State.endWaits s v) := by
  unfold State.endWaits
  repeat' (first | assumption | with_reducible apply State.emit_keeps | with_reducible apply State.outcome_keeps |
      with_reducible apply State.count_keeps | simp only [keeps_modVi, keeps_mk] | with_reducible refine Keeps.out ?_ |
      with_reducible refine Keeps.foldl ?_ _ ?_ | with_reducible refine Keeps.ite ?_ ?_ | intro _ _ _ | split | dsimp only)

theorem State.freeSeq_keeps (h : Keeps q n m s) (v : Nat) (q₁ : Nat) :
    Keeps q n m (State.freeSeq s v q₁) := by
  unfold State.freeSeq
  repeat' (first | assumption | with_reducible apply State.unref_keeps | simp only [keeps_modVi, keeps_mk] |
      with_reducible refine Keeps.out ?_ | with_reducible refine Keeps.foldl ?_ _ ?_ | with_reducible refine Keeps.ite ?_ ?_ |
      intro _ _ _ | split | dsimp only)

theorem State.closeSeq_keeps (h : Keeps q n m s) (v : Nat) (q₁ : Nat) :
    Keeps q n m (State.closeSeq s v q₁).1 := by
  unfold State.closeSeq
  repeat' (first | assumption | with_reducible apply State.emit_keeps | with_reducible apply State.outcome_keeps |
      with_reducible apply State.abandon_keeps | with_reducible apply State.abandonSteps_keeps |
      with_reducible apply State.freeSeq_keeps | simp only [keeps_mk] | with_reducible refine Keeps.out ?_ |
      with_reducible refine Keeps.foldl ?_ _ ?_ | with_reducible refine Keeps.ite ?_ ?_ | intro _ _ _ | split | dsimp only)

/-! ### Interfaces -/

theorem State.createVi_keeps (h : Keeps q n m s) (v : Nat) (a : AddrRec) (r : PartRec) :
    Keeps q n m (State.createVi s v a r) := by
  unfold State.createVi
  repeat' (first | assumption | simp only [keeps_mk] | with_reducible refine Keeps.out ?_ | with_reducible refine Keeps.foldl ?_ _ ?_ |
      with_reducible refine Keeps.ite ?_ ?_ | intro _ _ _ | split | dsimp only)

theorem effViCreate_keeps (h : Keeps q n m s) (c : Cmd) :
    Keeps q n m (effViCreate s c).1 := by
  unfold effViCreate
  repeat' (first | assumption | with_reducible apply State.createVi_keeps | simp only [keeps_mk] | with_reducible refine Keeps.out ?_ |
      with_reducible refine Keeps.foldl ?_ _ ?_ | with_reducible refine Keeps.ite ?_ ?_ | intro _ _ _ | split | dsimp only)

theorem execViCreate_keeps (h : Keeps q n m s) (p : Packet) :
    ∃ t, execViCreate p s = .next t ∧ Keeps q n m t := by
  unfold execViCreate
  refine ⟨_, rfl, ?_⟩
  repeat' (first | assumption | with_reducible apply State.takeAs_keeps | with_reducible apply effViCreate_keeps | simp only [keeps_mk] |
      with_reducible refine Keeps.out ?_ | with_reducible refine Keeps.foldl ?_ _ ?_ | with_reducible refine Keeps.ite ?_ ?_ |
      intro _ _ _ | split | dsimp only)

theorem State.seedCourses_keeps (h : Keeps q n m s) (p : Nat → Bool) :
    Keeps q n m (State.seedCourses s p) := by
  unfold State.seedCourses
  repeat' (first | assumption | simp only [keeps_mk] | with_reducible refine Keeps.out ?_ | with_reducible refine Keeps.foldl ?_ _ ?_ |
      with_reducible refine Keeps.ite ?_ ?_ | intro _ _ _ | split | dsimp only)

theorem State.eraseCourses_keeps (h : Keeps q n m s) (cs : List Nat) :
    Keeps q n m (State.eraseCourses s cs) := by
  unfold State.eraseCourses
  repeat' (first | assumption | with_reducible apply State.seedCourses_keeps | simp only [keeps_mk] |
      with_reducible refine Keeps.out ?_ | with_reducible refine Keeps.foldl ?_ _ ?_ | with_reducible refine Keeps.ite ?_ ?_ |
      intro _ _ _ | split | dsimp only)

theorem effYelmAlloc_keeps (h : Keeps q n m s) (c : Cmd) :
    Keeps q n m (effYelmAlloc s c).1 := by
  unfold effYelmAlloc
  repeat' (first | assumption | with_reducible apply State.eraseCourses_keeps | simp only [keeps_modVi, keeps_mk] |
      with_reducible refine Keeps.out ?_ | with_reducible refine Keeps.foldl ?_ _ ?_ | with_reducible refine Keeps.ite ?_ ?_ |
      intro _ _ _ | split | dsimp only)

theorem execYelmAlloc_keeps (h : Keeps q n m s) (p : Packet) :
    ∃ t, execYelmAlloc p s = .next t ∧ Keeps q n m t := by
  unfold execYelmAlloc
  refine ⟨_, rfl, ?_⟩
  repeat' (first | assumption | with_reducible apply State.takeAs_keeps | with_reducible apply effYelmAlloc_keeps |
      simp only [keeps_mk] | with_reducible refine Keeps.out ?_ | with_reducible refine Keeps.foldl ?_ _ ?_ |
      with_reducible refine Keeps.ite ?_ ?_ | intro _ _ _ | split | dsimp only)

theorem effPartRead_keeps (h : Keeps q n m s) (c : Cmd) :
    Keeps q n m (effPartRead s c).1 := by
  unfold effPartRead
  repeat' (first | assumption | simp only [keeps_mk] | with_reducible refine Keeps.out ?_ | with_reducible refine Keeps.foldl ?_ _ ?_ |
      with_reducible refine Keeps.ite ?_ ?_ | intro _ _ _ | split | dsimp only)

theorem execPartRead_keeps (h : Keeps q n m s) (p : Packet) :
    ∃ t, execPartRead p s = .next t ∧ Keeps q n m t := by
  unfold execPartRead
  refine ⟨_, rfl, ?_⟩
  repeat' (first | assumption | with_reducible apply State.takeAs_keeps | with_reducible apply effPartRead_keeps | simp only [keeps_mk] |
      with_reducible refine Keeps.out ?_ | with_reducible refine Keeps.foldl ?_ _ ?_ | with_reducible refine Keeps.ite ?_ ?_ |
      intro _ _ _ | split | dsimp only)

theorem State.emitQueues_keeps (h : Keeps q n m s) (v : Nat) :
    Keeps q n m (State.emitQueues s v) := by
  unfold State.emitQueues
  repeat' (first | assumption | with_reducible apply State.emit_keeps | simp only [keeps_mk] | with_reducible refine Keeps.out ?_ |
      with_reducible refine Keeps.foldl ?_ _ ?_ | with_reducible refine Keeps.ite ?_ ?_ | intro _ _ _ | split | dsimp only)

theorem State.advanceTags_keeps (h : Keeps q n m s) (v : Nat) :
    Keeps q n m (State.advanceTags s v) := by
  unfold State.advanceTags
  repeat' (first | assumption | with_reducible apply State.emitQueues_keeps | simp only [keeps_modVi, keeps_mk] |
      with_reducible refine Keeps.out ?_ | with_reducible refine Keeps.foldl ?_ _ ?_ | with_reducible refine Keeps.ite ?_ ?_ |
      intro _ _ _ | split | dsimp only)

theorem State.leavePair_keeps (h : Keeps q n m s) (v : Nat) :
    Keeps q n m (State.leavePair s v) := by
  unfold State.leavePair
  repeat' (first | assumption | with_reducible apply State.pairSend_keeps | simp only [keeps_modPair, keeps_mk] |
      with_reducible refine Keeps.out ?_ | with_reducible refine Keeps.foldl ?_ _ ?_ | with_reducible refine Keeps.ite ?_ ?_ |
      intro _ _ _ | split | dsimp only)

theorem State.startClose_keeps (h : Keeps q n m s) (v : Nat) (entry : Nat) :
    Keeps q n m (State.startClose s v entry) := by
  unfold State.startClose
  repeat' (first | assumption | with_reducible apply State.abandonSteps_keeps | with_reducible apply State.freeSeq_keeps |
      with_reducible apply State.advanceTags_keeps | with_reducible apply State.leavePair_keeps | simp only [keeps_modVi, keeps_mk] |
      with_reducible refine Keeps.out ?_ | with_reducible refine Keeps.foldl ?_ _ ?_ | with_reducible refine Keeps.ite ?_ ?_ |
      intro _ _ _ | split | dsimp only)

theorem effViClose_keeps (h : Keeps q n m s) (c : Cmd) :
    Keeps q n m (effViClose s c).1 := by
  unfold effViClose
  repeat' (first | assumption | with_reducible apply State.startClose_keeps | simp only [keeps_mk] | with_reducible refine Keeps.out ?_ |
      with_reducible refine Keeps.foldl ?_ _ ?_ | with_reducible refine Keeps.ite ?_ ?_ | intro _ _ _ | split | dsimp only)

theorem execViClose_keeps (h : Keeps q n m s) (p : Packet) :
    ∃ t, execViClose p s = .next t ∧ Keeps q n m t := by
  unfold execViClose
  refine ⟨_, rfl, ?_⟩
  repeat' (first | assumption | with_reducible apply State.takeAs_keeps | with_reducible apply effViClose_keeps | simp only [keeps_mk] |
      with_reducible refine Keeps.out ?_ | with_reducible refine Keeps.foldl ?_ _ ?_ | with_reducible refine Keeps.ite ?_ ?_ |
      intro _ _ _ | split | dsimp only)

theorem State.removeVi_keeps (h : Keeps q n m s) (v : Nat) :
    Keeps q n m (State.removeVi s v) := by
  unfold State.removeVi
  repeat' (first | assumption | with_reducible apply State.eraseCourses_keeps | simp only [keeps_mk] |
      with_reducible refine Keeps.out ?_ | exact memWf_nil | with_reducible refine Keeps.withMem ?_ ?_ |
      with_reducible apply memWf_memZero | with_reducible refine Keeps.mem (q := q) (n := n) (m := m) ?_ |
      with_reducible refine Keeps.foldl ?_ _ ?_ | with_reducible refine Keeps.ite ?_ ?_ | intro _ _ _ | split | dsimp only)

theorem execTeardownComplete_keeps (h : Keeps q n m s) (ts : Nat) (vi : Nat) :
    ∃ t, execTeardownComplete ts vi s = .next t ∧ Keeps q n m t := by
  unfold execTeardownComplete
  refine ⟨_, rfl, ?_⟩
  repeat' (first | assumption | with_reducible apply State.upto_keeps | with_reducible apply State.outcome_keeps |
      with_reducible apply State.removeVi_keeps | simp only [keeps_mk] | with_reducible refine Keeps.out ?_ |
      with_reducible refine Keeps.foldl ?_ _ ?_ | with_reducible refine Keeps.ite ?_ ?_ | intro _ _ _ | split | dsimp only)

theorem State.pairReturns_keeps (h : Keeps q n m s) (v : Nat) (rc : Nat) :
    Keeps q n m (State.pairReturns s v rc) := by
  unfold State.pairReturns
  repeat' (first | assumption | with_reducible apply State.pairSend_keeps | simp only [keeps_modPair, keeps_mk] |
      with_reducible refine Keeps.out ?_ | with_reducible refine Keeps.foldl ?_ _ ?_ | with_reducible refine Keeps.ite ?_ ?_ |
      intro _ _ _ | split | dsimp only)

theorem effRcCreate_keeps (h : Keeps q n m s) (c : Cmd) :
    Keeps q n m (effRcCreate s c).1 := by
  unfold effRcCreate
  repeat' (first | assumption | with_reducible apply State.pairReturns_keeps | simp only [keeps_modVi, keeps_mk] |
      with_reducible refine Keeps.out ?_ | with_reducible refine Keeps.foldl ?_ _ ?_ | with_reducible refine Keeps.ite ?_ ?_ |
      intro _ _ _ | split | dsimp only)

theorem execRcCreate_keeps (h : Keeps q n m s) (p : Packet) :
    ∃ t, execRcCreate p s = .next t ∧ Keeps q n m t := by
  unfold execRcCreate
  refine ⟨_, rfl, ?_⟩
  repeat' (first | assumption | with_reducible apply State.takeAs_keeps | with_reducible apply effRcCreate_keeps | simp only [keeps_mk] |
      with_reducible refine Keeps.out ?_ | with_reducible refine Keeps.foldl ?_ _ ?_ | with_reducible refine Keeps.ite ?_ ?_ |
      intro _ _ _ | split | dsimp only)

theorem effRcDestroy_keeps (h : Keeps q n m s) (c : Cmd) :
    Keeps q n m (effRcDestroy s c).1 := by
  unfold effRcDestroy
  repeat' (first | assumption | simp only [keeps_modVi, keeps_mk] | with_reducible refine Keeps.out ?_ |
      with_reducible refine Keeps.foldl ?_ _ ?_ | with_reducible refine Keeps.ite ?_ ?_ | intro _ _ _ | split | dsimp only)

theorem execRcDestroy_keeps (h : Keeps q n m s) (p : Packet) :
    ∃ t, execRcDestroy p s = .next t ∧ Keeps q n m t := by
  unfold execRcDestroy
  refine ⟨_, rfl, ?_⟩
  repeat' (first | assumption | with_reducible apply State.takeAs_keeps | with_reducible apply effRcDestroy_keeps |
      simp only [keeps_mk] | with_reducible refine Keeps.out ?_ | with_reducible refine Keeps.foldl ?_ _ ?_ |
      with_reducible refine Keeps.ite ?_ ?_ | intro _ _ _ | split | dsimp only)

theorem effRegionAdd_keeps (h : Keeps q n m s) (c : Cmd) :
    Keeps q n m (effRegionAdd s c).1 := by
  unfold effRegionAdd
  repeat' (first | assumption | simp only [keeps_modVi, keeps_mk] | with_reducible refine Keeps.out ?_ |
      with_reducible refine Keeps.foldl ?_ _ ?_ | with_reducible refine Keeps.ite ?_ ?_ | intro _ _ _ | split | dsimp only)

theorem execRegionAdd_keeps (h : Keeps q n m s) (p : Packet) :
    ∃ t, execRegionAdd p s = .next t ∧ Keeps q n m t := by
  unfold execRegionAdd
  refine ⟨_, rfl, ?_⟩
  repeat' (first | assumption | with_reducible apply State.takeAs_keeps | with_reducible apply effRegionAdd_keeps |
      simp only [keeps_mk] | with_reducible refine Keeps.out ?_ | with_reducible refine Keeps.foldl ?_ _ ?_ |
      with_reducible refine Keeps.ite ?_ ?_ | intro _ _ _ | split | dsimp only)

theorem effRegionRemove_keeps (h : Keeps q n m s) (c : Cmd) :
    Keeps q n m (effRegionRemove s c).1 := by
  unfold effRegionRemove
  repeat' (first | assumption | simp only [keeps_modVi, keeps_mk] | with_reducible refine Keeps.out ?_ |
      with_reducible refine Keeps.foldl ?_ _ ?_ | with_reducible refine Keeps.ite ?_ ?_ | intro _ _ _ | split | dsimp only)

theorem execRegionRemove_keeps (h : Keeps q n m s) (p : Packet) :
    ∃ t, execRegionRemove p s = .next t ∧ Keeps q n m t := by
  unfold execRegionRemove
  refine ⟨_, rfl, ?_⟩
  repeat' (first | assumption | with_reducible apply State.takeAs_keeps | with_reducible apply effRegionRemove_keeps |
      simp only [keeps_mk] | with_reducible refine Keeps.out ?_ | with_reducible refine Keeps.foldl ?_ _ ?_ |
      with_reducible refine Keeps.ite ?_ ?_ | intro _ _ _ | split | dsimp only)

theorem effQCreate_keeps (h : Keeps q n m s) (c : Cmd) :
    Keeps q n m (effQCreate s c).1 := by
  unfold effQCreate
  repeat' (first | assumption | with_reducible apply State.emit_keeps | simp only [keeps_modVi, keeps_mk] |
      with_reducible refine Keeps.out ?_ | with_reducible refine Keeps.foldl ?_ _ ?_ | with_reducible refine Keeps.ite ?_ ?_ |
      intro _ _ _ | split | dsimp only)

theorem execQCreate_keeps (h : Keeps q n m s) (p : Packet) :
    ∃ t, execQCreate p s = .next t ∧ Keeps q n m t := by
  unfold execQCreate
  refine ⟨_, rfl, ?_⟩
  repeat' (first | assumption | with_reducible apply State.takeAs_keeps | with_reducible apply effQCreate_keeps | simp only [keeps_mk] |
      with_reducible refine Keeps.out ?_ | with_reducible refine Keeps.foldl ?_ _ ?_ | with_reducible refine Keeps.ite ?_ ?_ |
      intro _ _ _ | split | dsimp only)

theorem effQDestroy_keeps (h : Keeps q n m s) (c : Cmd) :
    Keeps q n m (effQDestroy s c).1 := by
  unfold effQDestroy
  repeat' (first | assumption | with_reducible apply State.retire_keeps | with_reducible apply State.abandonSteps_keeps |
      with_reducible apply State.endWaits_keeps | simp only [keeps_modVi, keeps_mk] | with_reducible refine Keeps.out ?_ |
      with_reducible refine Keeps.foldl ?_ _ ?_ | with_reducible refine Keeps.ite ?_ ?_ | intro _ _ _ | split | dsimp only)

theorem execQDestroy_keeps (h : Keeps q n m s) (p : Packet) :
    ∃ t, execQDestroy p s = .next t ∧ Keeps q n m t := by
  unfold execQDestroy
  refine ⟨_, rfl, ?_⟩
  repeat' (first | assumption | with_reducible apply State.takeAs_keeps | with_reducible apply effQDestroy_keeps | simp only [keeps_mk] |
      with_reducible refine Keeps.out ?_ | with_reducible refine Keeps.foldl ?_ _ ?_ | with_reducible refine Keeps.ite ?_ ?_ |
      intro _ _ _ | split | dsimp only)

/-! ### Queues -/

theorem State.sentEffects_keeps (h : Keeps q n m s) (v : Nat) (e : Entry) :
    Keeps q n m (State.sentEffects s v e) := by
  unfold State.sentEffects
  repeat' (first | assumption | simp only [keeps_modSec, keeps_mk] | with_reducible refine Keeps.out ?_ |
      with_reducible refine Keeps.foldl ?_ _ ?_ | with_reducible refine Keeps.ite ?_ ?_ | intro _ _ _ | split | dsimp only)

theorem State.ringWrite_keeps (h : Keeps q n m s) (v : Nat) (qn : Nat) (id : Nat) (x : Vi) (q₁ : Queue) (b : List Byte) :
    Keeps q n m (State.ringWrite s v qn id x q₁ b) := by
  unfold State.ringWrite
  repeat' (first | assumption | with_reducible apply State.issue_keeps | simp only [keeps_modVi, keeps_mk] |
      with_reducible refine Keeps.out ?_ | with_reducible refine Keeps.foldl ?_ _ ?_ | with_reducible refine Keeps.ite ?_ ?_ |
      intro _ _ _ | split | dsimp only)

theorem State.holdFor_keeps (h : Keeps q n m s) (v : Nat) (qn : Nat) (id : Nat) :
    Keeps q n m (State.holdFor s v qn id) := by
  unfold State.holdFor
  repeat' (first | assumption | simp only [keeps_modVi, keeps_mk] | with_reducible refine Keeps.out ?_ |
      with_reducible refine Keeps.foldl ?_ _ ?_ | with_reducible refine Keeps.ite ?_ ?_ | intro _ _ _ | split | dsimp only)

theorem State.retireReset_keeps (h : Keeps q n m s) (v : Nat) (id : Nat) (e : Entry) :
    Keeps q n m (State.retireReset s v id e) := by
  unfold State.retireReset
  repeat' (first | assumption | with_reducible apply State.retire_keeps | simp only [keeps_mk] | with_reducible refine Keeps.out ?_ |
      with_reducible refine Keeps.foldl ?_ _ ?_ | with_reducible refine Keeps.ite ?_ ?_ | intro _ _ _ | split | dsimp only)

theorem State.sendOne_keeps (h : Keeps q n m s) (v : Nat) (qn : Nat) (id : Nat) (x : Vi) (q₁ : Queue) (e : Entry) :
    Keeps q n m (State.sendOne s v qn id x q₁ e) := by
  unfold State.sendOne
  repeat' (first | assumption | with_reducible apply State.send_keeps | with_reducible apply State.rdma_keeps |
      with_reducible apply State.sentEffects_keeps | with_reducible apply State.ringWrite_keeps |
      with_reducible apply State.holdFor_keeps | with_reducible apply State.retireReset_keeps |
      simp only [keeps_modVi, keeps_modEntry, keeps_mk] | with_reducible refine Keeps.out ?_ |
      with_reducible refine Keeps.foldl ?_ _ ?_ | with_reducible refine Keeps.ite ?_ ?_ | intro _ _ _ | split | dsimp only)

theorem execCompletionSend_keeps (h : Keeps q n m s) (ts : Nat) (vi : Nat) (queue : Nat) :
    ∃ t, execCompletionSend ts vi queue s = .next t ∧ Keeps q n m t := by
  unfold execCompletionSend
  refine ⟨_, rfl, ?_⟩
  repeat' (first | assumption | with_reducible apply State.upto_keeps | with_reducible apply State.sendOne_keeps | simp only [keeps_mk] |
      with_reducible refine Keeps.out ?_ | with_reducible refine Keeps.foldl ?_ _ ?_ | with_reducible refine Keeps.ite ?_ ?_ |
      intro _ _ _ | split | dsimp only)

theorem State.sendHeld_keeps (h : Keeps q n m s) (v qn fuel : Nat) : Keeps q n m (s.sendHeld v qn fuel) := by
  induction fuel generalizing s with
  | zero => exact h
  | succ fuel ih =>
    unfold State.sendHeld
    repeat' (first | assumption | with_reducible apply ih | with_reducible apply State.sendOne_keeps | split | dsimp only)

theorem execCplRetry_keeps (h : Keeps q n m s) (ts : Nat) (vi : Nat) (queue : Nat) (psn : Nat) :
    ∃ t, execCplRetry ts vi queue psn s = .next t ∧ Keeps q n m t := by
  unfold execCplRetry
  refine ⟨_, rfl, ?_⟩
  repeat' (first | assumption | with_reducible apply State.upto_keeps | with_reducible apply State.report_keeps |
      with_reducible apply State.send_keeps | with_reducible apply State.rdma_keeps | simp only [keeps_modVi, keeps_modEntry, keeps_mk] |
      with_reducible refine Keeps.out ?_ | with_reducible refine Keeps.foldl ?_ _ ?_ | with_reducible refine Keeps.ite ?_ ?_ |
      intro _ _ _ | split | dsimp only)

theorem effJrnlAck_keeps (h : Keeps q n m s) (c : Cmd) :
    Keeps q n m (effJrnlAck s c) := by
  unfold effJrnlAck
  repeat' (first | assumption | with_reducible apply State.emit_keeps | simp only [keeps_modVi, keeps_mk] |
      with_reducible refine Keeps.out ?_ | with_reducible refine Keeps.foldl ?_ _ ?_ | with_reducible refine Keeps.ite ?_ ?_ |
      intro _ _ _ | split | dsimp only)

theorem execJrnlAck_keeps (h : Keeps q n m s) (p : Packet) :
    ∃ t, execJrnlAck p s = .next t ∧ Keeps q n m t := by
  unfold execJrnlAck
  refine ⟨_, rfl, ?_⟩
  repeat' (first | assumption | with_reducible apply State.upto_keeps | with_reducible apply State.takeDirect_keeps |
      with_reducible apply effJrnlAck_keeps | simp only [keeps_mk] | with_reducible refine Keeps.out ?_ |
      with_reducible refine Keeps.foldl ?_ _ ?_ | with_reducible refine Keeps.ite ?_ ?_ | intro _ _ _ | split | dsimp only)

theorem State.fetchSlots_keeps (h : Keeps q n m s) (v qn : Nat) (qu : Queue) (base first cnt fuel : Nat) :
    Keeps q n m (s.fetchSlots v qn qu base first cnt fuel) := by
  induction fuel generalizing s first cnt with
  | zero => exact h
  | succ fuel ih =>
    unfold State.fetchSlots
    repeat' (first | assumption | with_reducible apply ih | with_reducible apply State.rdma_keeps | split | dsimp only)

theorem effQDoorbell_keeps (h : Keeps q n m s) (c : Cmd) :
    Keeps q n m (effQDoorbell s c) := by
  unfold effQDoorbell
  repeat' (first | assumption | with_reducible apply State.sendHeld_keeps | with_reducible apply State.fetchSlots_keeps |
      simp only [keeps_modVi, keeps_mk] | with_reducible refine Keeps.out ?_ | with_reducible refine Keeps.foldl ?_ _ ?_ |
      with_reducible refine Keeps.ite ?_ ?_ | intro _ _ _ | split | dsimp only)

theorem execQDoorbell_keeps (h : Keeps q n m s) (p : Packet) :
    ∃ t, execQDoorbell p s = .next t ∧ Keeps q n m t := by
  unfold execQDoorbell
  refine ⟨_, rfl, ?_⟩
  repeat' (first | assumption | with_reducible apply State.upto_keeps | with_reducible apply State.takeDirect_keeps |
      with_reducible apply effQDoorbell_keeps | simp only [keeps_mk] | with_reducible refine Keeps.out ?_ |
      with_reducible refine Keeps.foldl ?_ _ ?_ | with_reducible refine Keeps.ite ?_ ?_ | intro _ _ _ | split | dsimp only)

theorem State.slotBad_keeps (h : Keeps q n m s) (v : Nat) (qn : Nat) (n₁ : Nat) (head : Nat) :
    Keeps q n m (State.slotBad s v qn n₁ head) := by
  unfold State.slotBad
  repeat' (first | assumption | with_reducible apply State.report_keeps | simp only [keeps_modVi, keeps_mk] |
      with_reducible refine Keeps.out ?_ | with_reducible refine Keeps.foldl ?_ _ ?_ | with_reducible refine Keeps.ite ?_ ?_ |
      intro _ _ _ | split | dsimp only)

theorem takeSlots_keeps (h : Keeps q n m s) (v qn lport fuel : Nat) : Keeps q n m (takeSlots s v qn lport fuel) := by
  induction fuel generalizing s with
  | zero => exact h
  | succ fuel ih =>
    unfold takeSlots
    split
    · exact h
    · split
      · exact h
      · dsimp only
        have pass : ∀ (f : Vi → Vi), Keeps q n m (s.modVi v f) := fun _ => (keeps_modVi _ _).2 h
        refine Keeps.ite (ih (State.slotBad_keeps h ..)) (Keeps.ite h (Keeps.ite (ih (State.countOther_keeps (pass _)))
          (Keeps.ite (ih (State.slotBad_keeps h ..)) (ih ((keeps_modVi _ _).2 (pass _))))))

theorem State.popXfer_keeps (h : Keeps q n m s) (v : Nat) (rc : Nat) (t : Xfer) :
    Keeps q n m (State.popXfer s v rc t) := by
  unfold State.popXfer
  repeat' (first | assumption | with_reducible apply State.pumpReads_keeps | simp only [keeps_modVi, keeps_mk] |
      with_reducible refine Keeps.out ?_ | with_reducible refine Keeps.foldl ?_ _ ?_ | with_reducible refine Keeps.ite ?_ ?_ |
      intro _ _ _ | split | dsimp only)

theorem State.pullArrives_keeps (h : Keeps q n m s) (vi : Nat) (queue : Nat) (slots : List (List Byte)) :
    Keeps q n m (State.pullArrives s vi queue slots) := by
  unfold State.pullArrives
  repeat' (first | assumption | with_reducible apply takeSlots_keeps | with_reducible apply State.popXfer_keeps |
      simp only [keeps_modVi, keeps_mk] | with_reducible refine Keeps.out ?_ | with_reducible refine Keeps.foldl ?_ _ ?_ |
      with_reducible refine Keeps.ite ?_ ?_ | intro _ _ _ | split | dsimp only)

theorem execPullFetchResponse_keeps (h : Keeps q n m s) (ts : Nat) (vi : Nat) (queue : Nat) (lport : Nat) (slots : List (List Byte)) :
    ∃ t, execPullFetchResponse ts vi queue lport slots s = .next t ∧ Keeps q n m t := by
  unfold execPullFetchResponse
  refine ⟨_, rfl, ?_⟩
  repeat' (first | assumption | with_reducible apply State.upto_keeps | with_reducible apply State.pullArrives_keeps |
      simp only [keeps_mk] | with_reducible refine Keeps.out ?_ | with_reducible refine Keeps.foldl ?_ _ ?_ |
      with_reducible refine Keeps.ite ?_ ?_ | intro _ _ _ | split | dsimp only)

end Sys2Proof.Machine
end

