-- ==== Sys2Proof/Laws/KeepsSeq.lean ====
section
/-! SUPPORT. External time, ports, sequences and pages, admission, and the begin of a reset. One lemma for every operation: it keeps Keeps. -/
namespace Sys2Proof.Machine
set_option Elab.async false
set_option linter.all false
set_option linter.unusedTactic false
set_option linter.unreachableTactic false
set_option linter.unusedSimpArgs false
variable {q : List Instr} {n m : Nat} {s : State}

/-! ### Time -/

theorem State.noteTraced_keeps (h : Keeps q n m s)  :
    Keeps q n m (State.noteTraced s) := by
  unfold State.noteTraced
  repeat' (first | assumption | simp only [keeps_modTime, keeps_mk] | with_reducible refine Keeps.out ?_ |
      with_reducible refine Keeps.foldl ?_ _ ?_ | with_reducible refine Keeps.ite ?_ ?_ | intro _ _ _ | split | dsimp only)

theorem State.sourceLocks_keeps (h : Keeps q n m s) (i : Nat) :
    Keeps q n m (State.sourceLocks s i) := by
  unfold State.sourceLocks
  repeat' (first | assumption | simp only [keeps_modTime, keeps_mk] | with_reducible refine Keeps.out ?_ |
      with_reducible refine Keeps.foldl ?_ _ ?_ | with_reducible refine Keeps.ite ?_ ?_ | intro _ _ _ | split | dsimp only)

theorem State.sourceLost_keeps (h : Keeps q n m s) (i : Nat) :
    Keeps q n m (State.sourceLost s i) := by
  unfold State.sourceLost
  repeat' (first | assumption | with_reducible apply State.noteTraced_keeps | simp only [keeps_modTime, keeps_mk] |
      with_reducible refine Keeps.out ?_ | with_reducible refine Keeps.foldl ?_ _ ?_ | with_reducible refine Keeps.ite ?_ ?_ |
      intro _ _ _ | split | dsimp only)

theorem State.linksGone_keeps (h : Keeps q n m s)  :
    Keeps q n m (State.linksGone s) := by
  unfold State.linksGone
  repeat' (first | assumption | with_reducible apply State.sourceLost_keeps | simp only [keeps_mk] | with_reducible refine Keeps.out ?_ |
      with_reducible refine Keeps.foldl ?_ _ ?_ | with_reducible refine Keeps.ite ?_ ?_ | intro _ _ _ | split | dsimp only)

theorem State.ptpRequest_keeps (h : Keeps q n m s) (port : Nat) :
    Keeps q n m (State.ptpRequest s port) := by
  unfold State.ptpRequest
  repeat' (first | assumption | with_reducible apply State.xmit_keeps | simp only [keeps_mk] | with_reducible refine Keeps.out ?_ |
      with_reducible refine Keeps.foldl ?_ _ ?_ | with_reducible refine Keeps.ite ?_ ?_ | intro _ _ _ | split | dsimp only)

theorem execSync_keeps (h : Keeps q n m s) (ts : Nat) (port : Nat) (m₁ : SyncMsg) :
    ∃ t, execSync ts port m₁ s = .next t ∧ Keeps q n m t := by
  unfold execSync
  refine ⟨_, rfl, ?_⟩
  repeat' (first | assumption | with_reducible apply State.upto_keeps | with_reducible apply State.take_keeps |
      with_reducible apply State.noteTraced_keeps | with_reducible apply State.sourceLocks_keeps |
      with_reducible apply State.ptpRequest_keeps | simp only [keeps_modTime, keeps_mk] | with_reducible refine Keeps.out ?_ |
      with_reducible refine Keeps.foldl ?_ _ ?_ | with_reducible refine Keeps.ite ?_ ?_ | intro _ _ _ | split | dsimp only)

theorem execAnnounce_keeps (h : Keeps q n m s) (ts : Nat) (port : Nat) (a : AnnounceMsg) :
    ∃ t, execAnnounce ts port a s = .next t ∧ Keeps q n m t := by
  unfold execAnnounce
  refine ⟨_, rfl, ?_⟩
  repeat' (first | assumption | with_reducible apply State.upto_keeps | simp only [keeps_modTime, keeps_mk] |
      with_reducible refine Keeps.out ?_ | with_reducible refine Keeps.foldl ?_ _ ?_ | with_reducible refine Keeps.ite ?_ ?_ |
      intro _ _ _ | split | dsimp only)

theorem execAnnounceTimeout_keeps (h : Keeps q n m s) (ts : Nat) (port : Nat) :
    ∃ t, execAnnounceTimeout ts port s = .next t ∧ Keeps q n m t := by
  unfold execAnnounceTimeout
  refine ⟨_, rfl, ?_⟩
  repeat' (first | assumption | with_reducible apply State.upto_keeps | with_reducible apply State.sourceLost_keeps |
      simp only [keeps_modTime, keeps_mk] | with_reducible refine Keeps.out ?_ | with_reducible refine Keeps.foldl ?_ _ ?_ |
      with_reducible refine Keeps.ite ?_ ?_ | intro _ _ _ | split | dsimp only)

theorem execPtpDelayResponse_keeps (h : Keeps q n m s) (ts : Nat) (port : Nat) (delay : Nat) :
    ∃ t, execPtpDelayResponse ts port delay s = .next t ∧ Keeps q n m t := by
  unfold execPtpDelayResponse
  refine ⟨_, rfl, ?_⟩
  repeat' (first | assumption | with_reducible apply State.upto_keeps | simp only [keeps_modTime, keeps_mk] |
      with_reducible refine Keeps.out ?_ | with_reducible refine Keeps.foldl ?_ _ ?_ | with_reducible refine Keeps.ite ?_ ?_ |
      intro _ _ _ | split | dsimp only)

theorem execTrefPps_keeps (h : Keeps q n m s) (ts : Nat) (phase : Nat) :
    ∃ t, execTrefPps ts phase s = .next t ∧ Keeps q n m t := by
  unfold execTrefPps
  refine ⟨_, rfl, ?_⟩
  repeat' (first | assumption | with_reducible apply State.upto_keeps | with_reducible apply State.take_keeps |
      with_reducible apply State.noteTraced_keeps | with_reducible apply State.sourceLocks_keeps | simp only [keeps_modTime, keeps_mk] |
      with_reducible refine Keeps.out ?_ | with_reducible refine Keeps.foldl ?_ _ ?_ | with_reducible refine Keeps.ite ?_ ?_ |
      intro _ _ _ | split | dsimp only)

theorem execPpsTimeout_keeps (h : Keeps q n m s) (ts : Nat) :
    ∃ t, execPpsTimeout ts s = .next t ∧ Keeps q n m t := by
  unfold execPpsTimeout
  refine ⟨_, rfl, ?_⟩
  repeat' (first | assumption | with_reducible apply State.upto_keeps | with_reducible apply State.sourceLost_keeps |
      simp only [keeps_mk] | with_reducible refine Keeps.out ?_ | with_reducible refine Keeps.foldl ?_ _ ?_ |
      with_reducible refine Keeps.ite ?_ ?_ | intro _ _ _ | split | dsimp only)

theorem execTenMhzLoss_keeps (h : Keeps q n m s) (ts : Nat) :
    ∃ t, execTenMhzLoss ts s = .next t ∧ Keeps q n m t := by
  unfold execTenMhzLoss
  refine ⟨_, rfl, ?_⟩
  repeat' (first | assumption | with_reducible apply State.upto_keeps | with_reducible apply State.sourceLost_keeps |
      simp only [keeps_modTime, keeps_mk] | with_reducible refine Keeps.out ?_ | with_reducible refine Keeps.foldl ?_ _ ?_ |
      with_reducible refine Keeps.ite ?_ ?_ | intro _ _ _ | split | dsimp only)

theorem execTenMhzLock_keeps (h : Keeps q n m s) (ts : Nat) :
    ∃ t, execTenMhzLock ts s = .next t ∧ Keeps q n m t := by
  unfold execTenMhzLock
  refine ⟨_, rfl, ?_⟩
  repeat' (first | assumption | with_reducible apply State.upto_keeps | with_reducible apply State.noteTraced_keeps |
      with_reducible apply State.sourceLocks_keeps | simp only [keeps_modTime, keeps_mk] | with_reducible refine Keeps.out ?_ |
      with_reducible refine Keeps.foldl ?_ _ ?_ | with_reducible refine Keeps.ite ?_ ?_ | intro _ _ _ | split | dsimp only)

theorem execSourceReturnTimer_keeps (h : Keeps q n m s) (ts : Nat) :
    ∃ t, execSourceReturnTimer ts s = .next t ∧ Keeps q n m t := by
  unfold execSourceReturnTimer
  refine ⟨_, rfl, ?_⟩
  repeat' (first | assumption | with_reducible apply State.upto_keeps | with_reducible apply State.noteTraced_keeps |
      simp only [keeps_modTime, keeps_mk] | with_reducible refine Keeps.out ?_ | with_reducible refine Keeps.foldl ?_ _ ?_ |
      with_reducible refine Keeps.ite ?_ ?_ | intro _ _ _ | split | dsimp only)

theorem execFloorWrite_keeps (h : Keeps q n m s) (ts : Nat) :
    ∃ t, execFloorWrite ts s = .next t ∧ Keeps q n m t := by
  unfold execFloorWrite
  refine ⟨_, rfl, ?_⟩
  repeat' (first | assumption | with_reducible apply State.upto_keeps | simp only [keeps_modTime, keeps_mk] |
      with_reducible refine Keeps.out ?_ | with_reducible refine Keeps.foldl ?_ _ ?_ | with_reducible refine Keeps.ite ?_ ?_ |
      intro _ _ _ | split | dsimp only)

theorem effTimeSet_keeps (h : Keeps q n m s) (c : Cmd) :
    Keeps q n m (effTimeSet s c).1 := by
  unfold effTimeSet
  repeat' (first | assumption | simp only [keeps_modTime, keeps_mk] | with_reducible refine Keeps.out ?_ |
      with_reducible refine Keeps.foldl ?_ _ ?_ | with_reducible refine Keeps.ite ?_ ?_ | intro _ _ _ | split | dsimp only)

theorem execTimeSet_keeps (h : Keeps q n m s) (p : Packet) :
    ∃ t, execTimeSet p s = .next t ∧ Keeps q n m t := by
  unfold execTimeSet
  refine ⟨_, rfl, ?_⟩
  repeat' (first | assumption | with_reducible apply State.takeAs_keeps | with_reducible apply effTimeSet_keeps | simp only [keeps_mk] |
      with_reducible refine Keeps.out ?_ | with_reducible refine Keeps.foldl ?_ _ ?_ | with_reducible refine Keeps.ite ?_ ?_ |
      intro _ _ _ | split | dsimp only)

theorem effBeatSet_keeps (h : Keeps q n m s) (c : Cmd) :
    Keeps q n m (effBeatSet s c).1 := by
  unfold effBeatSet
  repeat' (first | assumption | simp only [keeps_modTime, keeps_mk] | with_reducible refine Keeps.out ?_ |
      with_reducible refine Keeps.foldl ?_ _ ?_ | with_reducible refine Keeps.ite ?_ ?_ | intro _ _ _ | split | dsimp only)

theorem execBeatSet_keeps (h : Keeps q n m s) (p : Packet) :
    ∃ t, execBeatSet p s = .next t ∧ Keeps q n m t := by
  unfold execBeatSet
  refine ⟨_, rfl, ?_⟩
  repeat' (first | assumption | with_reducible apply State.takeAs_keeps | with_reducible apply effBeatSet_keeps | simp only [keeps_mk] |
      with_reducible refine Keeps.out ?_ | with_reducible refine Keeps.foldl ?_ _ ?_ | with_reducible refine Keeps.ite ?_ ?_ |
      intro _ _ _ | split | dsimp only)

theorem State.readStampLo_keeps (h : Keeps q n m s) (v : Nat) :
    Keeps q n m (State.readStampLo s v) := by
  unfold State.readStampLo
  repeat' (first | assumption | simp only [keeps_modVi, keeps_mk] | with_reducible refine Keeps.out ?_ |
      with_reducible refine Keeps.foldl ?_ _ ?_ | with_reducible refine Keeps.ite ?_ ?_ | intro _ _ _ | split | dsimp only)

theorem State.readBeatLo_keeps (h : Keeps q n m s) (v : Nat) :
    Keeps q n m (State.readBeatLo s v) := by
  unfold State.readBeatLo
  repeat' (first | assumption | simp only [keeps_modVi, keeps_mk] | with_reducible refine Keeps.out ?_ |
      with_reducible refine Keeps.foldl ?_ _ ?_ | with_reducible refine Keeps.ite ?_ ?_ | intro _ _ _ | split | dsimp only)

theorem execStampLoRead_keeps (h : Keeps q n m s) (ts : Nat) (vi : Nat) :
    ∃ t, execStampLoRead ts vi s = .next t ∧ Keeps q n m t := by
  unfold execStampLoRead
  refine ⟨_, rfl, ?_⟩
  repeat' (first | assumption | with_reducible apply State.upto_keeps | with_reducible apply State.readStampLo_keeps |
      simp only [keeps_mk] | with_reducible refine Keeps.out ?_ | with_reducible refine Keeps.foldl ?_ _ ?_ |
      with_reducible refine Keeps.ite ?_ ?_ | intro _ _ _ | split | dsimp only)

theorem execBeatNumLoRead_keeps (h : Keeps q n m s) (ts : Nat) (vi : Nat) :
    ∃ t, execBeatNumLoRead ts vi s = .next t ∧ Keeps q n m t := by
  unfold execBeatNumLoRead
  refine ⟨_, rfl, ?_⟩
  repeat' (first | assumption | with_reducible apply State.upto_keeps | with_reducible apply State.readBeatLo_keeps |
      simp only [keeps_mk] | with_reducible refine Keeps.out ?_ | with_reducible refine Keeps.foldl ?_ _ ?_ |
      with_reducible refine Keeps.ite ?_ ?_ | intro _ _ _ | split | dsimp only)

/-! ### Link -/

theorem State.markCe_keeps (h : Keeps q n m s) (ce : Option (Nat × Nat)) :
    Keeps q n m (State.markCe s ce) := by
  unfold State.markCe
  repeat' (first | assumption | with_reducible apply State.rcSend_keeps | simp only [keeps_modVi, keeps_modNet, keeps_mk] |
      with_reducible refine Keeps.out ?_ | with_reducible refine Keeps.foldl ?_ _ ?_ | with_reducible refine Keeps.ite ?_ ?_ |
      intro _ _ _ | split | dsimp only)

theorem State.learn_keeps (h : Keeps q n m s) (vlan : Nat) (lport : Nat) (addr : BitVec 128) :
    Keeps q n m (State.learn s vlan lport addr) := by
  unfold State.learn
  repeat' (first | assumption | with_reducible apply State.xmit_keeps | simp only [keeps_modNet, keeps_mk] |
      with_reducible refine Keeps.out ?_ | with_reducible refine Keeps.foldl ?_ _ ?_ | with_reducible refine Keeps.ite ?_ ?_ |
      intro _ _ _ | split | dsimp only)

theorem State.rxOn_keeps (h : Keeps q n m s) (f : Frame) (v : Nat) (x : Vi) :
    Keeps q n m (State.rxOn s f v x) := by
  unfold State.rxOn
  repeat' (first | assumption | with_reducible apply State.xmit_keeps | with_reducible apply State.route_keeps |
      with_reducible apply State.rcSend_keeps | with_reducible apply State.answer_keeps | with_reducible apply State.countOther_keeps |
      with_reducible apply State.learn_keeps | simp only [keeps_modNet, keeps_mk] | with_reducible refine Keeps.out ?_ |
      with_reducible refine Keeps.foldl ?_ _ ?_ | with_reducible refine Keeps.ite ?_ ?_ | intro _ _ _ | split | dsimp only)

theorem execRxFrame_keeps (h : Keeps q n m s) (f : Frame) : ∃ t, execRxFrame f s = .next t ∧ Keeps q n m t := by
  unfold execRxFrame
  refine ⟨_, rfl, ?_⟩
  have hg := State.rxGate_keeps (State.upto_keeps h f.ts) f.lport f.rx
  split
  · rename_i e; rw [e] at hg; exact hg
  · rename_i u e; rw [e] at hg
    replace hg : Keeps q n m u := hg
    repeat' (first | assumption | with_reducible apply State.rxOn_keeps | with_reducible apply State.markCe_keeps |
        simp only [keeps_modNet] | split | dsimp only)

theorem State.resume_keeps (h : Keeps q n m s) (lp : Nat) (prio : Nat) :
    Keeps q n m (State.resume s lp prio) := by
  unfold State.resume
  repeat' (first | assumption | with_reducible apply State.xmit_keeps | simp only [keeps_modNet, keeps_mk] |
      with_reducible refine Keeps.out ?_ | with_reducible refine Keeps.foldl ?_ _ ?_ | with_reducible refine Keeps.ite ?_ ?_ |
      intro _ _ _ | split | dsimp only)

theorem execPfcFrame_keeps (h : Keeps q n m s) (ts : Nat) (lp : Nat) (prio : Nat) (xoff : Bool) :
    ∃ t, execPfcFrame ts lp prio xoff s = .next t ∧ Keeps q n m t := by
  unfold execPfcFrame
  refine ⟨_, rfl, ?_⟩
  repeat' (first | assumption | with_reducible apply State.upto_keeps | with_reducible apply State.resume_keeps |
      simp only [keeps_modNet, keeps_mk] | with_reducible refine Keeps.out ?_ | with_reducible refine Keeps.foldl ?_ _ ?_ |
      with_reducible refine Keeps.ite ?_ ?_ | intro _ _ _ | split | dsimp only)

theorem execCnp_keeps (h : Keeps q n m s) (ts : Nat) (vi : Nat) (rc : Nat) :
    ∃ t, execCnp ts vi rc s = .next t ∧ Keeps q n m t := by
  unfold execCnp
  refine ⟨_, rfl, ?_⟩
  repeat' (first | assumption | with_reducible apply State.upto_keeps | simp only [keeps_modVi, keeps_modNet, keeps_mk] |
      with_reducible refine Keeps.out ?_ | with_reducible refine Keeps.foldl ?_ _ ?_ | with_reducible refine Keeps.ite ?_ ?_ |
      intro _ _ _ | split | dsimp only)

theorem execCcRateIncrease_keeps (h : Keeps q n m s) (ts : Nat) (vi : Nat) (rc : Nat) :
    ∃ t, execCcRateIncrease ts vi rc s = .next t ∧ Keeps q n m t := by
  unfold execCcRateIncrease
  refine ⟨_, rfl, ?_⟩
  repeat' (first | assumption | with_reducible apply State.upto_keeps | simp only [keeps_modVi, keeps_mk] |
      with_reducible refine Keeps.out ?_ | with_reducible refine Keeps.foldl ?_ _ ?_ | with_reducible refine Keeps.ite ?_ ?_ |
      intro _ _ _ | split | dsimp only)

theorem execPfcWatchdog_keeps (h : Keeps q n m s) (ts : Nat) (lp : Nat) (prio : Nat) :
    ∃ t, execPfcWatchdog ts lp prio s = .next t ∧ Keeps q n m t := by
  unfold execPfcWatchdog
  refine ⟨_, rfl, ?_⟩
  repeat' (first | assumption | with_reducible apply State.upto_keeps | with_reducible apply State.report_keeps |
      simp only [keeps_modNet, keeps_mk] | with_reducible refine Keeps.out ?_ | with_reducible refine Keeps.foldl ?_ _ ?_ |
      with_reducible refine Keeps.ite ?_ ?_ | intro _ _ _ | split | dsimp only)

theorem execNeighbourExpiry_keeps (h : Keeps q n m s) (ts : Nat) (addr : BitVec 128) :
    ∃ t, execNeighbourExpiry ts addr s = .next t ∧ Keeps q n m t := by
  unfold execNeighbourExpiry
  refine ⟨_, rfl, ?_⟩
  repeat' (first | assumption | with_reducible apply State.upto_keeps | simp only [keeps_modNet, keeps_mk] |
      with_reducible refine Keeps.out ?_ | with_reducible refine Keeps.foldl ?_ _ ?_ | with_reducible refine Keeps.ite ?_ ?_ |
      intro _ _ _ | split | dsimp only)

theorem execLinkUp_keeps (h : Keeps q n m s) (ts : Nat) (lp : Nat) :
    ∃ t, execLinkUp ts lp s = .next t ∧ Keeps q n m t := by
  unfold execLinkUp
  refine ⟨_, rfl, ?_⟩
  repeat' (first | assumption | with_reducible apply State.upto_keeps | simp only [keeps_modNet, keeps_mk] |
      with_reducible refine Keeps.out ?_ | with_reducible refine Keeps.foldl ?_ _ ?_ | with_reducible refine Keeps.ite ?_ ?_ |
      intro _ _ _ | split | dsimp only)

theorem State.dropLink_keeps (h : Keeps q n m s) (lp : Nat) :
    Keeps q n m (State.dropLink s lp) := by
  unfold State.dropLink
  repeat' (first | assumption | with_reducible apply State.report_keeps | with_reducible apply State.sourceLost_keeps |
      simp only [keeps_modNet, keeps_mk] | with_reducible refine Keeps.out ?_ | with_reducible refine Keeps.foldl ?_ _ ?_ |
      with_reducible refine Keeps.ite ?_ ?_ | intro _ _ _ | split | dsimp only)

theorem execLinkDown_keeps (h : Keeps q n m s) (ts : Nat) (lp : Nat) :
    ∃ t, execLinkDown ts lp s = .next t ∧ Keeps q n m t := by
  unfold execLinkDown
  refine ⟨_, rfl, ?_⟩
  repeat' (first | assumption | with_reducible apply State.upto_keeps | with_reducible apply State.dropLink_keeps |
      simp only [keeps_mk] | with_reducible refine Keeps.out ?_ | with_reducible refine Keeps.foldl ?_ _ ?_ |
      with_reducible refine Keeps.ite ?_ ?_ | intro _ _ _ | split | dsimp only)

/-! ### Seq -/

theorem State.cancelSpill_keeps (h : Keeps q n m s) (v : Nat) (k : Nat) :
    Keeps q n m (State.cancelSpill s v k) := by
  unfold State.cancelSpill
  repeat' (first | assumption | simp only [keeps_modVi, keeps_mk] | with_reducible refine Keeps.out ?_ |
      with_reducible refine Keeps.foldl ?_ _ ?_ | with_reducible refine Keeps.ite ?_ ?_ | intro _ _ _ | split | dsimp only)

theorem State.startFetch_keeps (h : Keeps q n m s) (v : Nat) (k : Nat) :
    Keeps q n m (State.startFetch s v k) := by
  unfold State.startFetch
  repeat' (first | assumption | with_reducible apply State.rdma_keeps | simp only [keeps_modVi, keeps_mk] |
      with_reducible refine Keeps.out ?_ | with_reducible refine Keeps.foldl ?_ _ ?_ | with_reducible refine Keeps.ite ?_ ?_ |
      intro _ _ _ | split | dsimp only)

theorem State.addStep_keeps (h : Keeps q n m s) (t : Step) :
    Keeps q n m (State.addStep s t) := by
  unfold State.addStep
  repeat' (first | assumption | simp only [keeps_mk] | with_reducible refine Keeps.out ?_ | with_reducible refine Keeps.foldl ?_ _ ?_ |
      with_reducible refine Keeps.ite ?_ ?_ | intro _ _ _ | split | dsimp only)

theorem State.spawnRecompute_keeps (h : Keeps q n m s) (v : Nat) (q₁ : Nat) (place : Place5) :
    Keeps q n m (State.spawnRecompute s v q₁ place) := by
  unfold State.spawnRecompute
  repeat' (first | assumption | with_reducible apply State.addStep_keeps | simp only [keeps_mk] | with_reducible refine Keeps.out ?_ |
      with_reducible refine Keeps.foldl ?_ _ ?_ | with_reducible refine Keeps.ite ?_ ?_ | intro _ _ _ | split | dsimp only)

theorem State.cancelSpills_keeps (h : Keeps q n m s) (v : Nat) (q₁ : Nat) :
    Keeps q n m (State.cancelSpills s v q₁) := by
  unfold State.cancelSpills
  repeat' (first | assumption | with_reducible apply State.cancelSpill_keeps | simp only [keeps_mk] |
      with_reducible refine Keeps.out ?_ | with_reducible refine Keeps.foldl ?_ _ ?_ | with_reducible refine Keeps.ite ?_ ?_ |
      intro _ _ _ | split | dsimp only)

theorem State.touchSeq_keeps (h : Keeps q n m s) (v : Nat) (q₁ : Nat) (place : Place5) :
    Keeps q n m (State.touchSeq s v q₁ place) := by
  unfold State.touchSeq
  repeat' (first | assumption | with_reducible apply State.startFetch_keeps | with_reducible apply State.spawnRecompute_keeps |
      with_reducible apply State.cancelSpills_keeps | simp only [keeps_mk] | with_reducible refine Keeps.out ?_ |
      with_reducible refine Keeps.foldl ?_ _ ?_ | with_reducible refine Keeps.ite ?_ ?_ | intro _ _ _ | split | dsimp only)

theorem State.sharePages_keeps (h : Keeps q n m s) (v : Nat) (src : Nat) (child : Nat) (sq : Seq) (n₁ : Nat) :
    Keeps q n m (State.sharePages s v src child sq n₁) := by
  unfold State.sharePages
  repeat' (first | assumption | with_reducible apply State.take_keeps | simp only [keeps_modVi, keeps_mk] |
      with_reducible refine Keeps.out ?_ | with_reducible refine Keeps.foldl ?_ _ ?_ | with_reducible refine Keeps.ite ?_ ?_ |
      intro _ _ _ | split | dsimp only)

theorem doSeqOpen_keeps (h : Keeps q n m s) (c : Cmd) (x : Vi) :
    Keeps q n m (doSeqOpen s c x).1 := by
  unfold doSeqOpen
  repeat' (first | assumption | with_reducible apply State.emit_keeps | with_reducible apply State.sharePages_keeps |
      simp only [keeps_modVi, keeps_mk] | with_reducible refine Keeps.out ?_ | with_reducible refine Keeps.foldl ?_ _ ?_ |
      with_reducible refine Keeps.ite ?_ ?_ | intro _ _ _ | split | dsimp only)

theorem effSeqOpen_keeps (h : Keeps q n m s) (c : Cmd) :
    Keeps q n m (effSeqOpen s c).1 := by
  unfold effSeqOpen
  repeat' (first | assumption | with_reducible apply State.cancelSpills_keeps | with_reducible apply doSeqOpen_keeps |
      simp only [keeps_mk] | with_reducible refine Keeps.out ?_ | with_reducible refine Keeps.foldl ?_ _ ?_ |
      with_reducible refine Keeps.ite ?_ ?_ | intro _ _ _ | split | dsimp only)

theorem execSeqOpen_keeps (h : Keeps q n m s) (p : Packet) :
    ∃ t, execSeqOpen p s = .next t ∧ Keeps q n m t := by
  unfold execSeqOpen
  refine ⟨_, rfl, ?_⟩
  repeat' (first | assumption | with_reducible apply State.takeAs_keeps | with_reducible apply effSeqOpen_keeps | simp only [keeps_mk] |
      with_reducible refine Keeps.out ?_ | with_reducible refine Keeps.foldl ?_ _ ?_ | with_reducible refine Keeps.ite ?_ ?_ |
      intro _ _ _ | split | dsimp only)

theorem effSeqFork_keeps (h : Keeps q n m s) (c : Cmd) :
    Keeps q n m (effSeqFork s c).1 := by
  unfold effSeqFork
  repeat' (first | assumption | with_reducible apply State.emit_keeps | with_reducible apply State.cancelSpills_keeps |
      with_reducible apply State.sharePages_keeps | simp only [keeps_modVi, keeps_mk] | with_reducible refine Keeps.out ?_ |
      with_reducible refine Keeps.foldl ?_ _ ?_ | with_reducible refine Keeps.ite ?_ ?_ | intro _ _ _ | split | dsimp only)

theorem execSeqFork_keeps (h : Keeps q n m s) (p : Packet) :
    ∃ t, execSeqFork p s = .next t ∧ Keeps q n m t := by
  unfold execSeqFork
  refine ⟨_, rfl, ?_⟩
  repeat' (first | assumption | with_reducible apply State.takeAs_keeps | with_reducible apply effSeqFork_keeps | simp only [keeps_mk] |
      with_reducible refine Keeps.out ?_ | with_reducible refine Keeps.foldl ?_ _ ?_ | with_reducible refine Keeps.ite ?_ ?_ |
      intro _ _ _ | split | dsimp only)

theorem effSeqClose_keeps (h : Keeps q n m s) (c : Cmd) :
    Keeps q n m (effSeqClose s c).1 := by
  unfold effSeqClose
  repeat' (first | assumption | with_reducible apply State.endWaits_keeps | with_reducible apply State.closeSeq_keeps |
      simp only [keeps_modVi, keeps_mk] | with_reducible refine Keeps.out ?_ | with_reducible refine Keeps.foldl ?_ _ ?_ |
      with_reducible refine Keeps.ite ?_ ?_ | intro _ _ _ | split | dsimp only)

theorem execSeqClose_keeps (h : Keeps q n m s) (p : Packet) :
    ∃ t, execSeqClose p s = .next t ∧ Keeps q n m t := by
  unfold execSeqClose
  refine ⟨_, rfl, ?_⟩
  repeat' (first | assumption | with_reducible apply State.takeAs_keeps | with_reducible apply effSeqClose_keeps | simp only [keeps_mk] |
      with_reducible refine Keeps.out ?_ | with_reducible refine Keeps.foldl ?_ _ ?_ | with_reducible refine Keeps.ite ?_ ?_ |
      intro _ _ _ | split | dsimp only)

theorem effSeqQuery_keeps (h : Keeps q n m s) (c : Cmd) :
    Keeps q n m (effSeqQuery s c).1 := by
  unfold effSeqQuery
  repeat' (first | assumption | with_reducible apply State.cancelSpills_keeps | simp only [keeps_mk] |
      with_reducible refine Keeps.out ?_ | with_reducible refine Keeps.foldl ?_ _ ?_ | with_reducible refine Keeps.ite ?_ ?_ |
      intro _ _ _ | split | dsimp only)

theorem execSeqQuery_keeps (h : Keeps q n m s) (p : Packet) :
    ∃ t, execSeqQuery p s = .next t ∧ Keeps q n m t := by
  unfold execSeqQuery
  refine ⟨_, rfl, ?_⟩
  repeat' (first | assumption | with_reducible apply State.takeAs_keeps | with_reducible apply effSeqQuery_keeps | simp only [keeps_mk] |
      with_reducible refine Keeps.out ?_ | with_reducible refine Keeps.foldl ?_ _ ?_ | with_reducible refine Keeps.ite ?_ ?_ |
      intro _ _ _ | split | dsimp only)

theorem State.startSpill_keeps (h : Keeps q n m s) (v : Nat) (k : Nat) :
    Keeps q n m (State.startSpill s v k) := by
  unfold State.startSpill
  repeat' (first | assumption | with_reducible apply State.rdma_keeps | simp only [keeps_modVi, keeps_mk] |
      with_reducible refine Keeps.out ?_ | exact memWf_nil | with_reducible refine Keeps.withMem ?_ ?_ |
      with_reducible refine Keeps.mem (q := q) (n := n) (m := m) ?_ | with_reducible refine Keeps.foldl ?_ _ ?_ |
      with_reducible refine Keeps.ite ?_ ?_ | intro _ _ _ | split | dsimp only)

theorem State.spillDone_keeps (h : Keeps q n m s) (v : Nat) (k : Nat) (current : Bool) :
    Keeps q n m (State.spillDone s v k current) := by
  unfold State.spillDone
  repeat' (first | assumption | with_reducible apply State.freeT1_keeps | with_reducible apply State.releasePage_keeps |
      with_reducible apply State.cancelSpill_keeps | simp only [keeps_modVi, keeps_mk] | with_reducible refine Keeps.out ?_ |
      with_reducible refine Keeps.foldl ?_ _ ?_ | with_reducible refine Keeps.ite ?_ ?_ | intro _ _ _ | split | dsimp only)

theorem State.fetchBlock_keeps (h : Keeps q n m s) (v : Nat) (k : Nat) (scale : Bool) (data : List Byte) :
    Keeps q n m (State.fetchBlock s v k scale data) := by
  unfold State.fetchBlock
  repeat' (first | assumption | simp only [keeps_mk] | with_reducible refine Keeps.out ?_ | exact memWf_nil |
      with_reducible refine Keeps.withMem ?_ ?_ | with_reducible apply memWf_memWrite |
      with_reducible refine Keeps.mem (q := q) (n := n) (m := m) ?_ | with_reducible refine Keeps.foldl ?_ _ ?_ |
      with_reducible refine Keeps.ite ?_ ?_ | intro _ _ _ | split | dsimp only)

theorem State.fetchDone_keeps (h : Keeps q n m s) (v : Nat) (k : Nat) (current : Bool) :
    Keeps q n m (State.fetchDone s v k current) := by
  unfold State.fetchDone
  repeat' (first | assumption | with_reducible apply State.freeT1_keeps | with_reducible apply State.releasePage_keeps |
      simp only [keeps_modVi, keeps_mk] | with_reducible refine Keeps.out ?_ | with_reducible refine Keeps.foldl ?_ _ ?_ |
      with_reducible refine Keeps.ite ?_ ?_ | intro _ _ _ | split | dsimp only)

theorem State.spillEnds_keeps (h : Keeps q n m s) (v : Nat) (k : Nat) :
    Keeps q n m (State.spillEnds s v k) := by
  unfold State.spillEnds
  repeat' (first | assumption | with_reducible apply State.popXfer_keeps | with_reducible apply State.spillDone_keeps |
      simp only [keeps_mk] | with_reducible refine Keeps.out ?_ | with_reducible refine Keeps.foldl ?_ _ ?_ |
      with_reducible refine Keeps.ite ?_ ?_ | intro _ _ _ | split | dsimp only)

theorem State.fetchEnds_keeps (h : Keeps q n m s) (v : Nat) (k : Nat) (data : List Byte) :
    Keeps q n m (State.fetchEnds s v k data) := by
  unfold State.fetchEnds
  repeat' (first | assumption | with_reducible apply State.popXfer_keeps | with_reducible apply State.fetchBlock_keeps |
      with_reducible apply State.fetchDone_keeps | simp only [keeps_mk] | with_reducible refine Keeps.out ?_ |
      with_reducible refine Keeps.foldl ?_ _ ?_ | with_reducible refine Keeps.ite ?_ ?_ | intro _ _ _ | split | dsimp only)

theorem State.dropPage_keeps (h : Keeps q n m s) (v : Nat) (k : Nat) (p : Page) :
    Keeps q n m (State.dropPage s v k p) := by
  unfold State.dropPage
  repeat' (first | assumption | with_reducible apply State.freeT1_keeps | simp only [keeps_modVi, keeps_mk] |
      with_reducible refine Keeps.out ?_ | with_reducible refine Keeps.foldl ?_ _ ?_ | with_reducible refine Keeps.ite ?_ ?_ |
      intro _ _ _ | split | dsimp only)

theorem State.dropIndex_keeps (h : Keeps q n m s) (v : Nat) (index : Nat) (dropping : List Nat) :
    Keeps q n m (State.dropIndex s v index dropping) := by
  unfold State.dropIndex
  repeat' (first | assumption | with_reducible apply State.dropPage_keeps | simp only [keeps_modVi, keeps_mk] |
      with_reducible refine Keeps.out ?_ | with_reducible refine Keeps.foldl ?_ _ ?_ | with_reducible refine Keeps.ite ?_ ?_ |
      intro _ _ _ | split | dsimp only)

theorem State.reclaimT1_keeps (h : Keeps q n m s) (v : Nat) :
    Keeps q n m (State.reclaimT1 s v) := by
  unfold State.reclaimT1
  repeat' (first | assumption | with_reducible apply State.startSpill_keeps | with_reducible apply State.dropIndex_keeps |
      simp only [keeps_mk] | with_reducible refine Keeps.out ?_ | with_reducible refine Keeps.foldl ?_ _ ?_ |
      with_reducible refine Keeps.ite ?_ ?_ | intro _ _ _ | split | dsimp only)

theorem effKvPin_keeps (h : Keeps q n m s) (c : Cmd) :
    Keeps q n m (effKvPin s c).1 := by
  unfold effKvPin
  repeat' (first | assumption | with_reducible apply State.emit_keeps | with_reducible apply State.cancelSpills_keeps |
      with_reducible apply State.touchSeq_keeps | simp only [keeps_modVi, keeps_modEntry, keeps_mk] |
      with_reducible refine Keeps.out ?_ | with_reducible refine Keeps.foldl ?_ _ ?_ | with_reducible refine Keeps.ite ?_ ?_ |
      intro _ _ _ | split | dsimp only)

theorem execKvPin_keeps (h : Keeps q n m s) (p : Packet) :
    ∃ t, execKvPin p s = .next t ∧ Keeps q n m t := by
  unfold execKvPin
  refine ⟨_, rfl, ?_⟩
  repeat' (first | assumption | with_reducible apply State.takeAs_keeps | with_reducible apply effKvPin_keeps | simp only [keeps_mk] |
      with_reducible refine Keeps.out ?_ | with_reducible refine Keeps.foldl ?_ _ ?_ | with_reducible refine Keeps.ite ?_ ?_ |
      intro _ _ _ | split | dsimp only)

theorem effKvEvict_keeps (h : Keeps q n m s) (c : Cmd) :
    Keeps q n m (effKvEvict s c).1 := by
  unfold effKvEvict
  repeat' (first | assumption | with_reducible apply State.cancelSpills_keeps | with_reducible apply State.startSpill_keeps |
      simp only [keeps_modEntry, keeps_mk] | with_reducible refine Keeps.out ?_ | with_reducible refine Keeps.foldl ?_ _ ?_ |
      with_reducible refine Keeps.ite ?_ ?_ | intro _ _ _ | split | dsimp only)

theorem execKvEvict_keeps (h : Keeps q n m s) (p : Packet) :
    ∃ t, execKvEvict p s = .next t ∧ Keeps q n m t := by
  unfold execKvEvict
  refine ⟨_, rfl, ?_⟩
  repeat' (first | assumption | with_reducible apply State.takeAs_keeps | with_reducible apply effKvEvict_keeps | simp only [keeps_mk] |
      with_reducible refine Keeps.out ?_ | with_reducible refine Keeps.foldl ?_ _ ?_ | with_reducible refine Keeps.ite ?_ ?_ |
      intro _ _ _ | split | dsimp only)

theorem effKvPrefetch_keeps (h : Keeps q n m s) (c : Cmd) :
    Keeps q n m (effKvPrefetch s c).1 := by
  unfold effKvPrefetch
  repeat' (first | assumption | with_reducible apply State.cancelSpills_keeps | with_reducible apply State.touchSeq_keeps |
      simp only [keeps_modEntry, keeps_mk] | with_reducible refine Keeps.out ?_ | with_reducible refine Keeps.foldl ?_ _ ?_ |
      with_reducible refine Keeps.ite ?_ ?_ | intro _ _ _ | split | dsimp only)

theorem execKvPrefetch_keeps (h : Keeps q n m s) (p : Packet) :
    ∃ t, execKvPrefetch p s = .next t ∧ Keeps q n m t := by
  unfold execKvPrefetch
  refine ⟨_, rfl, ?_⟩
  repeat' (first | assumption | with_reducible apply State.takeAs_keeps | with_reducible apply effKvPrefetch_keeps |
      simp only [keeps_mk] | with_reducible refine Keeps.out ?_ | with_reducible refine Keeps.foldl ?_ _ ?_ |
      with_reducible refine Keeps.ite ?_ ?_ | intro _ _ _ | split | dsimp only)

/-! ### Admit -/

theorem effSeqStep_keeps (h : Keeps q n m s) (c : Cmd) :
    Keeps q n m (effSeqStep s c).1 := by
  unfold effSeqStep
  repeat' (first | assumption | with_reducible apply State.addStep_keeps | with_reducible apply State.touchSeq_keeps |
      simp only [keeps_mk] | with_reducible refine Keeps.out ?_ | with_reducible refine Keeps.foldl ?_ _ ?_ |
      with_reducible refine Keeps.ite ?_ ?_ | intro _ _ _ | split | dsimp only)

theorem execSeqStep_keeps (h : Keeps q n m s) (p : Packet) :
    ∃ t, execSeqStep p s = .next t ∧ Keeps q n m t := by
  unfold execSeqStep
  refine ⟨_, rfl, ?_⟩
  repeat' (first | assumption | with_reducible apply State.takeAs_keeps | with_reducible apply effSeqStep_keeps | simp only [keeps_mk] |
      with_reducible refine Keeps.out ?_ | with_reducible refine Keeps.foldl ?_ _ ?_ | with_reducible refine Keeps.ite ?_ ?_ |
      intro _ _ _ | split | dsimp only)

theorem State.admitStep_keeps (h : Keeps q n m s) (k : Nat) (t : Step) (p : Plan) :
    Keeps q n m (State.admitStep s k t p) := by
  unfold State.admitStep
  repeat' (first | assumption | with_reducible apply State.take_keeps |
      simp only [keeps_modVi, keeps_modStep, keeps_modPwr, keeps_modEntry, keeps_mk] | with_reducible refine Keeps.out ?_ |
      with_reducible refine Keeps.foldl ?_ _ ?_ | with_reducible refine Keeps.ite ?_ ?_ | intro _ _ _ | split | dsimp only)

theorem State.dropSaved_keeps (h : Keeps q n m s) (t : Step) :
    Keeps q n m (State.dropSaved s t) := by
  unfold State.dropSaved
  repeat' (first | assumption | simp only [keeps_modVi, keeps_mk] | with_reducible refine Keeps.out ?_ |
      with_reducible refine Keeps.foldl ?_ _ ?_ | with_reducible refine Keeps.ite ?_ ?_ | intro _ _ _ | split | dsimp only)

theorem State.admitNext_keeps (h : Keeps q n m s)  :
    Keeps q n m (State.admitNext s) := by
  unfold State.admitNext
  repeat' (first | assumption | with_reducible apply State.failStep_keeps | with_reducible apply State.admitStep_keeps |
      with_reducible apply State.dropSaved_keeps | simp only [keeps_mk] | with_reducible refine Keeps.out ?_ |
      with_reducible refine Keeps.foldl ?_ _ ?_ | with_reducible refine Keeps.ite ?_ ?_ | intro _ _ _ | split | dsimp only)

theorem execStepAdmit_keeps (h : Keeps q n m s) (ts : Nat) :
    ∃ t, execStepAdmit ts s = .next t ∧ Keeps q n m t := by
  unfold execStepAdmit
  refine ⟨_, rfl, ?_⟩
  repeat' (first | assumption | with_reducible apply State.upto_keeps | with_reducible apply State.admitNext_keeps |
      simp only [keeps_mk] | with_reducible refine Keeps.out ?_ | with_reducible refine Keeps.foldl ?_ _ ?_ |
      with_reducible refine Keeps.ite ?_ ?_ | intro _ _ _ | split | dsimp only)

theorem execT1Reclaim_keeps (h : Keeps q n m s) (ts : Nat) (vi : Nat) :
    ∃ t, execT1Reclaim ts vi s = .next t ∧ Keeps q n m t := by
  unfold execT1Reclaim
  refine ⟨_, rfl, ?_⟩
  repeat' (first | assumption | with_reducible apply State.upto_keeps | with_reducible apply State.reclaimT1_keeps |
      simp only [keeps_mk] | with_reducible refine Keeps.out ?_ | with_reducible refine Keeps.foldl ?_ _ ?_ |
      with_reducible refine Keeps.ite ?_ ?_ | intro _ _ _ | split | dsimp only)

/-! ### Reset -/

theorem State.requeue_keeps (h : Keeps q n m s) (k : Nat) :
    Keeps q n m (State.requeue s k) := by
  unfold State.requeue
  repeat' (first | assumption | with_reducible apply State.dropStep_keeps | with_reducible apply State.addStep_keeps |
      simp only [keeps_mk] | with_reducible refine Keeps.out ?_ | with_reducible refine Keeps.foldl ?_ _ ?_ |
      with_reducible refine Keeps.ite ?_ ?_ | intro _ _ _ | split | dsimp only)

theorem State.endForReset_keeps (h : Keeps q n m s) (vis : List Nat) (all : Bool) :
    Keeps q n m (State.endForReset s vis all).1 := by
  unfold State.endForReset
  repeat' (first | assumption | with_reducible apply State.dropStep_keeps | with_reducible apply State.requeue_keeps |
      simp only [keeps_modVi, keeps_mk] | with_reducible refine Keeps.out ?_ | with_reducible refine Keeps.foldl ?_ _ ?_ |
      with_reducible refine Keeps.ite ?_ ?_ | intro _ _ _ | split | dsimp only)

theorem State.stopOps_keeps (h : Keeps q n m s) (vis : List Nat) :
    Keeps q n m (State.stopOps s vis) := by
  unfold State.stopOps
  repeat' (first | assumption | simp only [keeps_modVi, keeps_mk] | with_reducible refine Keeps.out ?_ |
      with_reducible refine Keeps.foldl ?_ _ ?_ | with_reducible refine Keeps.ite ?_ ?_ | intro _ _ _ | split | dsimp only)

theorem State.askAgain_keeps (h : Keeps q n m s) (v : Nat) (old : Nat) :
    Keeps q n m (State.askAgain s v old) := by
  unfold State.askAgain
  repeat' (first | assumption | with_reducible apply State.issue_keeps | simp only [keeps_mk] | with_reducible refine Keeps.out ?_ |
      with_reducible refine Keeps.foldl ?_ _ ?_ | with_reducible refine Keeps.ite ?_ ?_ | intro _ _ _ | split | dsimp only)

theorem State.loseXfers_keeps (h : Keeps q n m s) (v : Nat) :
    Keeps q n m (State.loseXfers s v) := by
  unfold State.loseXfers
  repeat' (first | assumption | with_reducible apply State.freeT1_keeps | with_reducible apply State.cancelSpill_keeps |
      simp only [keeps_modVi, keeps_mk] | with_reducible refine Keeps.out ?_ | with_reducible refine Keeps.foldl ?_ _ ?_ |
      with_reducible refine Keeps.ite ?_ ?_ | intro _ _ _ | split | dsimp only)

theorem State.endDomain_keeps (h : Keeps q n m s) (domain : Nat) (target : Nat) (vis : List Nat) :
    Keeps q n m (State.endDomain s domain target vis).1 := by
  unfold State.endDomain
  repeat' (first | assumption | with_reducible apply State.endForReset_keeps | simp only [keeps_mk] |
      with_reducible refine Keeps.out ?_ | with_reducible refine Keeps.foldl ?_ _ ?_ | with_reducible refine Keeps.ite ?_ ?_ |
      intro _ _ _ | split | dsimp only)

theorem State.retagVi_keeps (h : Keeps q n m s) (domain : Nat) (v : Nat) :
    Keeps q n m (State.retagVi s domain v) := by
  unfold State.retagVi
  repeat' (first | assumption | with_reducible apply State.advanceTags_keeps | with_reducible apply State.askAgain_keeps |
      with_reducible apply State.loseXfers_keeps | simp only [keeps_mk] | with_reducible refine Keeps.out ?_ |
      with_reducible refine Keeps.foldl ?_ _ ?_ | with_reducible refine Keeps.ite ?_ ?_ | intro _ _ _ | split | dsimp only)

theorem State.resetYelms_keeps (h : Keeps q n m s) (domain : Nat) (target : Nat) :
    Keeps q n m (State.resetYelms s domain target) := by
  unfold State.resetYelms
  repeat' (first | assumption | with_reducible apply State.seedCourses_keeps | simp only [keeps_modYelm, keeps_mk] |
      with_reducible refine Keeps.out ?_ | with_reducible refine Keeps.foldl ?_ _ ?_ | with_reducible refine Keeps.ite ?_ ?_ |
      intro _ _ _ | split | dsimp only)

theorem State.dropWork_keeps (h : Keeps q n m s) (domain : Nat) (target : Nat) (vis : List Nat) :
    Keeps q n m (State.dropWork s domain target vis) := by
  unfold State.dropWork
  repeat' (first | assumption | with_reducible apply State.stopOps_keeps | simp only [keeps_modVi, keeps_mk] |
      with_reducible refine Keeps.out ?_ | with_reducible refine Keeps.foldl ?_ _ ?_ | with_reducible refine Keeps.ite ?_ ?_ |
      intro _ _ _ | split | dsimp only)

theorem State.startReset_keeps (h : Keeps q n m s) (domain : Nat) (target : Nat) (cause : Nat) (answer : List (Nat × Nat)) :
    Keeps q n m (State.startReset s domain target cause answer) := by
  unfold State.startReset
  repeat' (first | assumption | with_reducible apply State.report_keeps | with_reducible apply State.answer_keeps |
      with_reducible apply State.linksGone_keeps | with_reducible apply State.endDomain_keeps |
      with_reducible apply State.retagVi_keeps | with_reducible apply State.resetYelms_keeps |
      with_reducible apply State.dropWork_keeps | simp only [keeps_modNet, keeps_modErr, keeps_mk] | with_reducible refine Keeps.out ?_ |
      with_reducible refine Keeps.foldl ?_ _ ?_ | with_reducible refine Keeps.ite ?_ ?_ | intro _ _ _ | split | dsimp only)

theorem State.rerunStep_keeps (h : Keeps q n m s) (k : Nat) (cause : Nat) (group : Nat) (ridge : Bool) :
    Keeps q n m (State.rerunStep s k cause group ridge) := by
  unfold State.rerunStep
  repeat' (first | assumption | with_reducible apply State.report_keeps | with_reducible apply State.requeue_keeps |
      with_reducible apply State.startReset_keeps | simp only [keeps_modVi, keeps_modErr, keeps_modEntry, keeps_mk] |
      with_reducible refine Keeps.out ?_ | with_reducible refine Keeps.foldl ?_ _ ?_ | with_reducible refine Keeps.ite ?_ ?_ |
      intro _ _ _ | split | dsimp only)

end Sys2Proof.Machine
end

