-- ==== Sys2Proof/Laws/KeepsImages.lean ====
section
/-! SUPPORT. Waves, the token pipeline, images and the programming of arrays. One lemma for every operation: it keeps Keeps. -/
namespace Sys2Proof.Machine
set_option Elab.async false
set_option linter.all false
set_option linter.unusedTactic false
set_option linter.unreachableTactic false
set_option linter.unusedSimpArgs false
variable {q : List Instr} {n m : Nat} {s : State}

/-! ### Waves -/

theorem State.count_keeps (h : Keeps q n m s) (v : Nat) (unit : Nat) (i : Nat) (n₁ : Nat) :
    Keeps q n m (State.count s v unit i n₁) := by
  unfold State.count
  repeat' (first | assumption | simp only [keeps_modVi, keeps_mk] | with_reducible refine Keeps.out ?_ |
      with_reducible refine Keeps.foldl ?_ _ ?_ | with_reducible refine Keeps.ite ?_ ?_ | intro _ _ _ | split | dsimp only)

theorem State.raiseFlag_keeps (h : Keeps q n m s) (v : Nat) (unit : Nat) (cause : Nat) :
    Keeps q n m (State.raiseFlag s v unit cause) := by
  unfold State.raiseFlag
  repeat' (first | assumption | simp only [keeps_modVi, keeps_mk] | with_reducible refine Keeps.out ?_ |
      with_reducible refine Keeps.foldl ?_ _ ?_ | with_reducible refine Keeps.ite ?_ ?_ | intro _ _ _ | split | dsimp only)

theorem State.modTok_keeps (h : Keeps q n m s) (k : Nat) (i : Nat) (f : Tok → Tok) :
    Keeps q n m (State.modTok s k i f) := by
  unfold State.modTok
  repeat' (first | assumption | simp only [keeps_modStep, keeps_mk] | with_reducible refine Keeps.out ?_ |
      with_reducible refine Keeps.foldl ?_ _ ?_ | with_reducible refine Keeps.ite ?_ ?_ | intro _ _ _ | split | dsimp only)

theorem State.finishDesc_keeps (h : Keeps q n m s) (im : Image) (k : Nat) (i : Nat) (f : Tok → Tok) :
    Keeps q n m (State.finishDesc s im k i f) := by
  unfold State.finishDesc
  repeat' (first | assumption | with_reducible apply State.modTok_keeps | with_reducible apply State.settle_keeps |
      simp only [keeps_modStep, keeps_mk] | with_reducible refine Keeps.out ?_ | with_reducible refine Keeps.foldl ?_ _ ?_ |
      with_reducible refine Keeps.ite ?_ ?_ | intro _ _ _ | split | dsimp only)

theorem State.closeWave_keeps (h : Keeps q n m s) (v : Nat) (x : Vi) (im : Image) (proj : Nat) (q₁ : List (Nat × Step × Nat × Tok × Want)) :
    Keeps q n m (State.closeWave s v x im proj q₁) := by
  unfold State.closeWave
  repeat' (first | assumption | with_reducible apply State.take_keeps | with_reducible apply State.count_keeps |
      with_reducible apply State.modTok_keeps | simp only [keeps_modYelm, keeps_mk] | with_reducible refine Keeps.out ?_ |
      with_reducible refine Keeps.foldl ?_ _ ?_ | with_reducible refine Keeps.ite ?_ ?_ | intro _ _ _ | split | dsimp only)

theorem State.chainStep_keeps (h : Keeps q n m s) (im : Image) (wid : Nat) (slot : Nat) (y : Nat) (ch : Nat) :
    Keeps q n m (State.chainStep s im wid slot y ch) := by
  unfold State.chainStep
  repeat' (first | assumption | with_reducible apply State.draw_keeps | simp only [keeps_modWave, keeps_modYelm, keeps_mk] |
      with_reducible refine Keeps.out ?_ | with_reducible refine Keeps.foldl ?_ _ ?_ | with_reducible refine Keeps.ite ?_ ?_ |
      intro _ _ _ | split | dsimp only)

theorem State.opDone_keeps (h : Keeps q n m s) (im : Image) (wid : Nat) (slot : Nat) (y : Nat) :
    Keeps q n m (State.opDone s im wid slot y) := by
  unfold State.opDone
  repeat' (first | assumption | with_reducible apply State.chainStep_keeps | simp only [keeps_modWave, keeps_modYelm, keeps_mk] |
      with_reducible refine Keeps.out ?_ | with_reducible refine Keeps.foldl ?_ _ ?_ | with_reducible refine Keeps.ite ?_ ?_ |
      intro _ _ _ | split | dsimp only)

theorem execWaveClose_keeps (h : Keeps q n m s) (ts : Nat) (vi : Nat) (proj : Nat) :
    ∃ t, execWaveClose ts vi proj s = .next t ∧ Keeps q n m t := by
  unfold execWaveClose
  refine ⟨_, rfl, ?_⟩
  repeat' (first | assumption | with_reducible apply State.upto_keeps | with_reducible apply State.closeWave_keeps |
      with_reducible apply State.opDone_keeps | simp only [keeps_mk] | with_reducible refine Keeps.out ?_ |
      with_reducible refine Keeps.foldl ?_ _ ?_ | with_reducible refine Keeps.ite ?_ ?_ | intro _ _ _ | split | dsimp only)

theorem execChainHopReceive_keeps (h : Keeps q n m s) (ts : Nat) (wave : Nat) (slot : Nat) (yelm : Nat) (channel : Nat) :
    ∃ t, execChainHopReceive ts wave slot yelm channel s = .next t ∧ Keeps q n m t := by
  unfold execChainHopReceive
  refine ⟨_, rfl, ?_⟩
  repeat' (first | assumption | with_reducible apply State.upto_keeps | with_reducible apply State.chainStep_keeps |
      simp only [keeps_modWave, keeps_modYelm, keeps_mk] | with_reducible refine Keeps.out ?_ |
      with_reducible refine Keeps.foldl ?_ _ ?_ | with_reducible refine Keeps.ite ?_ ?_ | intro _ _ _ | split | dsimp only)

/-! ### Pipeline -/

theorem State.deliver_keeps (h : Keeps q n m s) (im : Image) (t : WaveTok) (p : Proj) :
    Keeps q n m (State.deliver s im t p) := by
  unfold State.deliver
  repeat' (first | assumption | with_reducible apply State.take_keeps | with_reducible apply State.modTok_keeps |
      with_reducible apply State.finishDesc_keeps | simp only [keeps_mk] | with_reducible refine Keeps.out ?_ |
      with_reducible refine Keeps.foldl ?_ _ ?_ | with_reducible refine Keeps.ite ?_ ?_ | intro _ _ _ | split | dsimp only)

theorem execLayerOperationEnd_keeps (h : Keeps q n m s) (ts : Nat) (wave : Nat) (slot : Nat) :
    ∃ t, execLayerOperationEnd ts wave slot s = .next t ∧ Keeps q n m t := by
  unfold execLayerOperationEnd
  refine ⟨_, rfl, ?_⟩
  repeat' (first | assumption | with_reducible apply State.upto_keeps | with_reducible apply State.count_keeps |
      with_reducible apply State.modTok_keeps | with_reducible apply State.deliver_keeps | simp only [keeps_mk] |
      with_reducible refine Keeps.out ?_ | with_reducible refine Keeps.foldl ?_ _ ?_ | with_reducible refine Keeps.ite ?_ ?_ |
      intro _ _ _ | split | dsimp only)

theorem State.stage_keeps (h : Keeps q n m s) (k : Nat) (i : Nat) (g : List F32) :
    Keeps q n m (State.stage s k i g) := by
  unfold State.stage
  repeat' (first | assumption | simp only [keeps_modStep, keeps_mk] | with_reducible refine Keeps.out ?_ |
      with_reducible refine Keeps.foldl ?_ _ ?_ | with_reducible refine Keeps.ite ?_ ?_ | intro _ _ _ | split | dsimp only)

theorem State.keep_keeps (h : Keeps q n m s) (k : Nat) (t : Step) (pos : Nat) (d : Nat) (v : Saved) :
    Keeps q n m (State.keep s k t pos d v) := by
  unfold State.keep
  repeat' (first | assumption | simp only [keeps_modStep, keeps_mk] | with_reducible refine Keeps.out ?_ |
      with_reducible refine Keeps.foldl ?_ _ ?_ | with_reducible refine Keeps.ite ?_ ?_ | intro _ _ _ | split | dsimp only)

theorem execEmbed_keeps (h : Keeps q n m s) (ts : Nat) (step : Nat) (tok : Nat) :
    ∃ t, execEmbed ts step tok s = .next t ∧ Keeps q n m t := by
  unfold execEmbed
  refine ⟨_, rfl, ?_⟩
  repeat' (first | assumption | with_reducible apply State.upto_keeps | with_reducible apply State.finishDesc_keeps |
      with_reducible apply step_keeps | simp only [keeps_mk] | with_reducible refine Keeps.out ?_ |
      with_reducible refine Keeps.foldl ?_ _ ?_ | with_reducible refine Keeps.ite ?_ ?_ | intro _ _ _ | split | dsimp only)

theorem execNorm_keeps (h : Keeps q n m s) (ts : Nat) (step : Nat) (tok : Nat) :
    ∃ t, execNorm ts step tok s = .next t ∧ Keeps q n m t := by
  unfold execNorm
  refine ⟨_, rfl, ?_⟩
  repeat' (first | assumption | with_reducible apply State.upto_keeps | with_reducible apply State.finishDesc_keeps |
      with_reducible apply State.stage_keeps | with_reducible apply State.keep_keeps | with_reducible apply step_keeps |
      simp only [keeps_mk] | with_reducible refine Keeps.out ?_ | with_reducible refine Keeps.foldl ?_ _ ?_ |
      with_reducible refine Keeps.ite ?_ ?_ | intro _ _ _ | split | dsimp only)

theorem State.stageRow_keeps (h : Keeps q n m s) (x : Vi) (sq : Seq) (k : Nat) (t : Step) (layer pos : Nat) (r : KvRow) :
    Keeps q n m (s.stageRow x sq k t layer pos r) := by
  unfold State.stageRow
  dsimp only
  split
  · exact (keeps_modStep _ _).2 h
  · have h2 : ∀ {w : List Host.Cell}, memWf w = true → Keeps q n m { s with hbm := w } := fun hw => ⟨h.queue, h.now, h.svn, hw⟩
    exact Keeps.ite ((keeps_modStep _ _).2 (h2 (memWf_writeRows h.mem ..))) (h2 (memWf_writeRows h.mem ..))

theorem State.putCopy_keeps (h : Keeps q n m s) (x : Vi) (sq : Seq) (k : Nat) (t : Step) (layer : Nat) (p : Nat) (g : Page) (room : Option (BlockPair × Arena)) :
    Keeps q n m (State.putCopy s x sq k t layer p g room) := by
  unfold State.putCopy
  repeat' (first | assumption | simp only [keeps_modStep, keeps_mk] | with_reducible refine Keeps.out ?_ | exact memWf_nil |
      with_reducible refine Keeps.withMem ?_ ?_ | with_reducible refine Keeps.mem (q := q) (n := n) (m := m) ?_ |
      with_reducible refine Keeps.foldl ?_ _ ?_ | with_reducible refine Keeps.ite ?_ ?_ | intro _ _ _ | split | dsimp only)

theorem State.copyPages_keeps (h : Keeps q n m s) (x : Vi) (sq : Seq) (k : Nat) (t : Step) (layer : Nat) :
    Keeps q n m (s.copyPages x sq k t layer) := by
  unfold State.copyPages
  refine Keeps.ite h (Keeps.foldl (fun s p hs => ?_) _ h)
  cases tget x.kv.pages p with
  | none => exact hs
  | some g => exact State.putCopy_keeps hs ..

theorem State.attnForward_keeps (h : Keeps q n m s) (im : Image) (x : Vi) (sq : Seq) (step tok : Nat) (t : Step) (c : Tok) (d : Desc) :
    Keeps q n m (State.attnForward s im x sq step tok t c d) := by
  unfold State.attnForward
  exact State.finishDesc_keeps (State.keep_keeps (State.stageRow_keeps (State.copyPages_keeps h ..) ..) ..) ..

theorem State.attnBackward_keeps (h : Keeps q n m s) (im : Image) (x : Vi) (sq : Seq) (step tok : Nat) (t : Step) (c : Tok) (d : Desc) :
    Keeps q n m (State.attnBackward s im x sq step tok t c d) := by
  unfold State.attnBackward
  split
  · exact State.finishDesc_keeps ((keeps_modStep _ _).2 (Keeps.foldl (fun s e hs => State.report_keeps hs _) _ (State.copyPages_keeps h ..))) ..
  · exact State.finishDesc_keeps h ..

theorem execAttn_keeps (h : Keeps q n m s) (ts : Nat) (step : Nat) (tok : Nat) :
    ∃ t, execAttn ts step tok s = .next t ∧ Keeps q n m t := by
  unfold execAttn
  refine ⟨_, rfl, ?_⟩
  repeat' (first | assumption | with_reducible apply State.upto_keeps | with_reducible apply State.take_keeps |
      with_reducible apply State.attnForward_keeps | with_reducible apply State.attnBackward_keeps | with_reducible apply step_keeps |
      simp only [keeps_mk] | with_reducible refine Keeps.out ?_ | with_reducible refine Keeps.foldl ?_ _ ?_ |
      with_reducible refine Keeps.ite ?_ ?_ | intro _ _ _ | split | dsimp only)

theorem execAct_keeps (h : Keeps q n m s) (ts : Nat) (step : Nat) (tok : Nat) :
    ∃ t, execAct ts step tok s = .next t ∧ Keeps q n m t := by
  unfold execAct
  refine ⟨_, rfl, ?_⟩
  repeat' (first | assumption | with_reducible apply State.upto_keeps | with_reducible apply State.finishDesc_keeps |
      with_reducible apply step_keeps | simp only [keeps_mk] | with_reducible refine Keeps.out ?_ |
      with_reducible refine Keeps.foldl ?_ _ ?_ | with_reducible refine Keeps.ite ?_ ?_ | intro _ _ _ | split | dsimp only)

theorem execResid_keeps (h : Keeps q n m s) (ts : Nat) (step : Nat) (tok : Nat) :
    ∃ t, execResid ts step tok s = .next t ∧ Keeps q n m t := by
  unfold execResid
  refine ⟨_, rfl, ?_⟩
  repeat' (first | assumption | with_reducible apply State.upto_keeps | with_reducible apply State.finishDesc_keeps |
      with_reducible apply step_keeps | simp only [keeps_mk] | with_reducible refine Keeps.out ?_ |
      with_reducible refine Keeps.foldl ?_ _ ?_ | with_reducible refine Keeps.ite ?_ ?_ | intro _ _ _ | split | dsimp only)

theorem execRoute_keeps (h : Keeps q n m s) (ts : Nat) (step : Nat) (tok : Nat) :
    ∃ t, execRoute ts step tok s = .next t ∧ Keeps q n m t := by
  unfold execRoute
  refine ⟨_, rfl, ?_⟩
  repeat' (first | assumption | with_reducible apply State.upto_keeps | with_reducible apply State.route_keeps |
      with_reducible apply State.finishDesc_keeps | with_reducible apply State.keep_keeps | with_reducible apply step_keeps |
      simp only [keeps_mk] | with_reducible refine Keeps.out ?_ | with_reducible refine Keeps.foldl ?_ _ ?_ |
      with_reducible refine Keeps.ite ?_ ?_ | intro _ _ _ | split | dsimp only)

theorem execExperts_keeps (h : Keeps q n m s) (ts : Nat) (step : Nat) (tok : Nat) :
    ∃ t, execExperts ts step tok s = .next t ∧ Keeps q n m t := by
  unfold execExperts
  refine ⟨_, rfl, ?_⟩
  repeat' (first | assumption | with_reducible apply State.upto_keeps | with_reducible apply State.finishDesc_keeps |
      with_reducible apply step_keeps | simp only [keeps_mk] | with_reducible refine Keeps.out ?_ |
      with_reducible refine Keeps.foldl ?_ _ ?_ | with_reducible refine Keeps.ite ?_ ?_ | intro _ _ _ | split | dsimp only)

theorem execHead_keeps (h : Keeps q n m s) (ts : Nat) (step : Nat) (tok : Nat) :
    ∃ t, execHead ts step tok s = .next t ∧ Keeps q n m t := by
  unfold execHead
  refine ⟨_, rfl, ?_⟩
  repeat' (first | assumption | with_reducible apply State.draw_keeps | with_reducible apply State.upto_keeps |
      with_reducible apply State.modTok_keeps | with_reducible apply State.finishDesc_keeps | with_reducible apply State.stage_keeps |
      with_reducible apply step_keeps | simp only [keeps_modStep, keeps_mk] | with_reducible refine Keeps.out ?_ |
      with_reducible refine Keeps.foldl ?_ _ ?_ | with_reducible refine Keeps.ite ?_ ?_ | intro _ _ _ | split | dsimp only)

/-! ### Images -/

theorem State.endOp_keeps (h : Keeps q n m s) (v : Nat) (status : Nat) (pay : List Byte) :
    Keeps q n m (State.endOp s v status pay) := by
  unfold State.endOp
  repeat' (first | assumption | with_reducible apply State.outcome_keeps | simp only [keeps_modImg, keeps_mk] |
      with_reducible refine Keeps.out ?_ | with_reducible refine Keeps.foldl ?_ _ ?_ | with_reducible refine Keeps.ite ?_ ?_ |
      intro _ _ _ | split | dsimp only)

theorem State.emitImage_keeps (h : Keeps q n m s) (v : Nat) :
    Keeps q n m (State.emitImage s v) := by
  unfold State.emitImage
  repeat' (first | assumption | with_reducible apply State.emit_keeps | simp only [keeps_mk] | with_reducible refine Keeps.out ?_ |
      with_reducible refine Keeps.foldl ?_ _ ?_ | with_reducible refine Keeps.ite ?_ ?_ | intro _ _ _ | split | dsimp only)

theorem State.finishLoad_keeps (h : Keeps q n m s) (v : Nat) (o : ImgOp) :
    Keeps q n m (State.finishLoad s v o) := by
  unfold State.finishLoad
  repeat' (first | assumption | with_reducible apply State.endOp_keeps | with_reducible apply State.emitImage_keeps |
      simp only [keeps_modImg, keeps_mk] | with_reducible refine Keeps.out ?_ | with_reducible refine Keeps.foldl ?_ _ ?_ |
      with_reducible refine Keeps.ite ?_ ?_ | intro _ _ _ | split | dsimp only)

theorem State.finishSwap_keeps (h : Keeps q n m s) (v : Nat) (x : Vi) (o : ImgOp) :
    Keeps q n m (State.finishSwap s v x o) := by
  unfold State.finishSwap
  repeat' (first | assumption | with_reducible apply State.endOp_keeps | with_reducible apply State.emitImage_keeps |
      simp only [keeps_modVi, keeps_modImg, keeps_mk] | with_reducible refine Keeps.out ?_ | with_reducible refine Keeps.foldl ?_ _ ?_ |
      with_reducible refine Keeps.ite ?_ ?_ | intro _ _ _ | split | dsimp only)

theorem State.finishErase_keeps (h : Keeps q n m s) (v : Nat) (o : ImgOp) :
    Keeps q n m (State.finishErase s v o) := by
  unfold State.finishErase
  repeat' (first | assumption | with_reducible apply State.outcome_keeps | with_reducible apply State.endOp_keeps |
      simp only [keeps_modImg, keeps_mk] | with_reducible refine Keeps.out ?_ | with_reducible refine Keeps.foldl ?_ _ ?_ |
      with_reducible refine Keeps.ite ?_ ?_ | intro _ _ _ | split | dsimp only)

theorem State.notRefreshed_keeps (h : Keeps q n m s) (v : Nat) (y : Nat) (a : Nat) :
    Keeps q n m (State.notRefreshed s v y a) := by
  unfold State.notRefreshed
  repeat' (first | assumption | with_reducible apply State.outcome_keeps | with_reducible apply State.count_keeps |
      simp only [keeps_modImg, keeps_mk] | with_reducible refine Keeps.out ?_ | with_reducible refine Keeps.foldl ?_ _ ?_ |
      with_reducible refine Keeps.ite ?_ ?_ | intro _ _ _ | split | dsimp only)

theorem State.retireTo_keeps (h : Keeps q n m s) (v : Nat) (y : Nat) (n₁ : Nat) (a : Nat) (spare : Nat) (logical : Nat) (copy : Bool) :
    Keeps q n m (State.retireTo s v y n₁ a spare logical copy) := by
  unfold State.retireTo
  repeat' (first | assumption | with_reducible apply State.report_keeps | with_reducible apply State.notRefreshed_keeps |
      simp only [keeps_modVi, keeps_modErr, keeps_modArr, keeps_mk] | with_reducible refine Keeps.out ?_ |
      with_reducible refine Keeps.foldl ?_ _ ?_ | with_reducible refine Keeps.ite ?_ ?_ | intro _ _ _ | split | dsimp only)

theorem State.readRecord_keeps (h : Keeps q n m s) (v : Nat) (y : Nat) (a : Nat) (logical : Nat) :
    Keeps q n m (State.readRecord s v y a logical) := by
  unfold State.readRecord
  repeat' (first | assumption | with_reducible apply State.rdma_keeps | simp only [keeps_mk] | with_reducible refine Keeps.out ?_ |
      with_reducible refine Keeps.foldl ?_ _ ?_ | with_reducible refine Keeps.ite ?_ ?_ | intro _ _ _ | split | dsimp only)

theorem State.dropRecords_keeps (h : Keeps q n m s) (v : Nat) (f : Nat → Nat → Bool) :
    Keeps q n m (State.dropRecords s v f) := by
  unfold State.dropRecords
  repeat' (first | assumption | simp only [keeps_modVi, keeps_mk] | with_reducible refine Keeps.out ?_ |
      with_reducible refine Keeps.foldl ?_ _ ?_ | with_reducible refine Keeps.ite ?_ ?_ | intro _ _ _ | split | dsimp only)

theorem State.startProgram_keeps (h : Keeps q n m s) (v : Nat) (y : Nat) (a : Nat) (job : Job) (logical : Nat) :
    Keeps q n m (State.startProgram s v y a job logical) := by
  unfold State.startProgram
  repeat' (first | assumption | with_reducible apply State.readRecord_keeps | simp only [keeps_modArr, keeps_mk] |
      with_reducible refine Keeps.out ?_ | with_reducible refine Keeps.foldl ?_ _ ?_ | with_reducible refine Keeps.ite ?_ ?_ |
      intro _ _ _ | split | dsimp only)

theorem State.waitRetire_keeps (h : Keeps q n m s) (y : Nat) (a : Nat) (failed : Bool) :
    Keeps q n m (State.waitRetire s y a failed) := by
  unfold State.waitRetire
  repeat' (first | assumption | simp only [keeps_modArr, keeps_mk] | with_reducible refine Keeps.out ?_ |
      with_reducible refine Keeps.foldl ?_ _ ?_ | with_reducible refine Keeps.ite ?_ ?_ | intro _ _ _ | split | dsimp only)

theorem State.noSpare_keeps (h : Keeps q n m s) (v : Nat) (y : Nat) (a : Nat) (logical : Nat) (failed : Bool) :
    Keeps q n m (State.noSpare s v y a logical failed) := by
  unfold State.noSpare
  repeat' (first | assumption | with_reducible apply State.report_keeps | with_reducible apply State.waitRetire_keeps |
      simp only [keeps_mk] | with_reducible refine Keeps.out ?_ | with_reducible refine Keeps.foldl ?_ _ ?_ |
      with_reducible refine Keeps.ite ?_ ?_ | intro _ _ _ | split | dsimp only)

theorem State.retireInSwap_keeps (h : Keeps q n m s) (v : Nat) (x : Vi) (y n₁ a logical : Nat) (t : Retire) {w₀ : State}
    (ht : s.retireInSwap v x y n₁ a logical t = some w₀) : Keeps q n m w₀ := by
  unfold State.retireInSwap at ht
  split at ht
  · cases ht
    exact State.retireTo_keeps ((keeps_modArr _ _ _).2 (State.dropRecords_keeps h _ _)) ..
  · cases e : s.pickSpare x y n₁ logical with
    | none => rw [e] at ht; cases ht
    | some sp => rw [e] at ht; cases ht; exact State.retireTo_keeps h ..

theorem State.startArray_keeps (h : Keeps q n m s) (v : Nat) (x : Vi) (n₁ : Nat) (y : Nat) (e : Nat × Nat) :
    Keeps q n m (State.startArray s v x n₁ y e) := by
  unfold State.startArray
  repeat' (first | assumption | with_reducible apply State.retire_keeps | with_reducible apply State.startProgram_keeps |
      with_reducible apply State.noSpare_keeps | with_reducible refine State.retireInSwap_keeps ?_ _ _ _ _ _ _ _ (by assumption) |
      simp only [keeps_modOp, keeps_mk] | with_reducible refine Keeps.out ?_ | with_reducible refine Keeps.foldl ?_ _ ?_ |
      with_reducible refine Keeps.ite ?_ ?_ | intro _ _ _ | split | dsimp only)

theorem State.pumpOne_keeps (h : Keeps q n m s) (v : Nat) (n₁ : Nat) (y : Nat) :
    Keeps q n m (State.pumpOne s v n₁ y) := by
  unfold State.pumpOne
  repeat' (first | assumption | with_reducible apply State.retire_keeps | with_reducible apply State.startArray_keeps |
      simp only [keeps_modArr, keeps_modOp, keeps_mk] | with_reducible refine Keeps.out ?_ | with_reducible refine Keeps.foldl ?_ _ ?_ |
      with_reducible refine Keeps.ite ?_ ?_ | intro _ _ _ | split | dsimp only)

theorem State.noteUnits_keeps (h : Keeps q n m s) (v : Nat) (x : Vi) (o : ImgOp) (im : Image) :
    Keeps q n m (State.noteUnits s v x o im) := by
  unfold State.noteUnits
  repeat' (first | assumption | simp only [keeps_modVi, keeps_modOp, keeps_mk] | with_reducible refine Keeps.out ?_ |
      with_reducible refine Keeps.foldl ?_ _ ?_ | with_reducible refine Keeps.ite ?_ ?_ | intro _ _ _ | split | dsimp only)

theorem State.imgAdvance_keeps (h : Keeps q n m s) (v : Nat) :
    Keeps q n m (State.imgAdvance s v) := by
  unfold State.imgAdvance
  repeat' (first | assumption | with_reducible apply State.finishLoad_keeps | with_reducible apply State.finishErase_keeps |
      with_reducible apply State.noteUnits_keeps | simp only [keeps_modOp, keeps_mk] | with_reducible refine Keeps.out ?_ |
      with_reducible refine Keeps.foldl ?_ _ ?_ | with_reducible refine Keeps.ite ?_ ?_ | intro _ _ _ | split | dsimp only)

theorem State.eraseBegins_keeps (h : Keeps q n m s) (v : Nat) :
    Keeps q n m (State.eraseBegins s v) := by
  unfold State.eraseBegins
  repeat' (first | assumption | simp only [keeps_modOp, keeps_mk] | with_reducible refine Keeps.out ?_ |
      with_reducible refine Keeps.foldl ?_ _ ?_ | with_reducible refine Keeps.ite ?_ ?_ | intro _ _ _ | split | dsimp only)

theorem State.imgPump_keeps (h : Keeps q n m s) (v : Nat) : Keeps q n m (s.imgPump v) := by
  unfold State.imgPump
  have h2 := State.eraseBegins_keeps h v
  dsimp only
  generalize s.eraseBegins v = t at h2
  split
  · exact h2
  · refine State.imgAdvance_keeps (Keeps.foldl (fun s a hs => Keeps.foldl (fun s b hs => ?_) _ hs) _ h2) v
    exact State.pumpOne_keeps hs ..

theorem effImg_keeps (h : Keeps q n m s) (kind : ImgKind) (c : Cmd) : Keeps q n m (effImg kind s c).1 := by
  unfold effImg
  dsimp only
  split
  · dsimp only
    exact (keeps_modImg _ _).2 h
  · dsimp only
    exact State.rdma_keeps ((keeps_modImg _ _).2 h) ..

theorem effImgLoad_keeps (h : Keeps q n m s) (c : Cmd) : Keeps q n m (effImgLoad s c).1 := effImg_keeps h .load c

theorem effImgSwap_keeps (h : Keeps q n m s) (c : Cmd) : Keeps q n m (effImgSwap s c).1 := effImg_keeps h .swap c

theorem execImgLoad_keeps (h : Keeps q n m s) (p : Packet) :
    ∃ t, execImgLoad p s = .next t ∧ Keeps q n m t := by
  unfold execImgLoad
  refine ⟨_, rfl, ?_⟩
  repeat' (first | assumption | with_reducible apply State.takeAs_keeps | with_reducible apply effImgLoad_keeps | simp only [keeps_mk] |
      with_reducible refine Keeps.out ?_ | with_reducible refine Keeps.foldl ?_ _ ?_ | with_reducible refine Keeps.ite ?_ ?_ |
      intro _ _ _ | split | dsimp only)

theorem execImgSwap_keeps (h : Keeps q n m s) (p : Packet) :
    ∃ t, execImgSwap p s = .next t ∧ Keeps q n m t := by
  unfold execImgSwap
  refine ⟨_, rfl, ?_⟩
  repeat' (first | assumption | with_reducible apply State.takeAs_keeps | with_reducible apply effImgSwap_keeps | simp only [keeps_mk] |
      with_reducible refine Keeps.out ?_ | with_reducible refine Keeps.foldl ?_ _ ?_ | with_reducible refine Keeps.ite ?_ ?_ |
      intro _ _ _ | split | dsimp only)

theorem State.stopPrograms_keeps (h : Keeps q n m s) (v : Nat) (x : Vi) :
    Keeps q n m (State.stopPrograms s v x) := by
  unfold State.stopPrograms
  repeat' (first | assumption | with_reducible apply State.dropRecords_keeps | simp only [keeps_modYelm, keeps_mk] |
      with_reducible refine Keeps.out ?_ | with_reducible refine Keeps.foldl ?_ _ ?_ | with_reducible refine Keeps.ite ?_ ?_ |
      intro _ _ _ | split | dsimp only)

theorem State.failLoad_keeps (h : Keeps q n m s) (v : Nat) (x : Vi) (status : Nat) :
    Keeps q n m (State.failLoad s v x status) := by
  unfold State.failLoad
  repeat' (first | assumption | with_reducible apply State.imgPump_keeps | with_reducible apply State.stopPrograms_keeps |
      simp only [keeps_modImg, keeps_modOp, keeps_mk] | with_reducible refine Keeps.out ?_ | with_reducible refine Keeps.foldl ?_ _ ?_ |
      with_reducible refine Keeps.ite ?_ ?_ | intro _ _ _ | split | dsimp only)

theorem State.failSwap_keeps (h : Keeps q n m s) (v : Nat) (x : Vi) (status : Nat) :
    Keeps q n m (State.failSwap s v x status) := by
  unfold State.failSwap
  repeat' (first | assumption | with_reducible apply State.imgPump_keeps | with_reducible apply State.stopPrograms_keeps |
      simp only [keeps_modImg, keeps_modOp, keeps_mk] | with_reducible refine Keeps.out ?_ | with_reducible refine Keeps.foldl ?_ _ ?_ |
      with_reducible refine Keeps.ite ?_ ?_ | intro _ _ _ | split | dsimp only)

theorem State.failBoth_keeps (h : Keeps q n m s) (v : Nat) (x : Vi) :
    Keeps q n m (State.failBoth s v x) := by
  unfold State.failBoth
  repeat' (first | assumption | with_reducible apply State.imgPump_keeps | with_reducible apply State.stopPrograms_keeps |
      simp only [keeps_modImg, keeps_modOp, keeps_mk] | with_reducible refine Keeps.out ?_ | with_reducible refine Keeps.foldl ?_ _ ?_ |
      with_reducible refine Keeps.ite ?_ ?_ | intro _ _ _ | split | dsimp only)

theorem State.rejectImg_keeps (h : Keeps q n m s) (v : Nat) (x : Vi) (o : ImgOp) (status : Nat) :
    Keeps q n m (State.rejectImg s v x o status) := by
  unfold State.rejectImg
  repeat' (first | assumption | with_reducible apply State.endOp_keeps | with_reducible apply State.failSwap_keeps |
      simp only [keeps_mk] | with_reducible refine Keeps.out ?_ | with_reducible refine Keeps.foldl ?_ _ ?_ |
      with_reducible refine Keeps.ite ?_ ?_ | intro _ _ _ | split | dsimp only)

theorem State.checkPass_keeps (h : Keeps q n m s) (v : Nat) (x : Vi) (o : ImgOp) (bs : List Byte) :
    Keeps q n m (State.checkPass s v x o bs) := by
  unfold State.checkPass
  repeat' (first | assumption | with_reducible apply State.imgPump_keeps | with_reducible apply State.rejectImg_keeps |
      simp only [keeps_modImg, keeps_modOp, keeps_mk] | with_reducible refine Keeps.out ?_ | with_reducible refine Keeps.foldl ?_ _ ?_ |
      with_reducible refine Keeps.ite ?_ ?_ | intro _ _ _ | split | dsimp only)

theorem State.imageRead_keeps (h : Keeps q n m s) (v : Nat) (data : Option (List Byte)) :
    Keeps q n m (State.imageRead s v data) := by
  unfold State.imageRead
  repeat' (first | assumption | with_reducible apply State.rejectImg_keeps | with_reducible apply State.checkPass_keeps |
      simp only [keeps_mk] | with_reducible refine Keeps.out ?_ | with_reducible refine Keeps.foldl ?_ _ ?_ |
      with_reducible refine Keeps.ite ?_ ?_ | intro _ _ _ | split | dsimp only)

theorem State.popImage_keeps (h : Keeps q n m s) (v : Nat) :
    Keeps q n m (State.popImage s v) := by
  unfold State.popImage
  repeat' (first | assumption | with_reducible apply State.popXfer_keeps | simp only [keeps_mk] | with_reducible refine Keeps.out ?_ |
      with_reducible refine Keeps.foldl ?_ _ ?_ | with_reducible refine Keeps.ite ?_ ?_ | intro _ _ _ | split | dsimp only)

theorem execImgCheckPassEnd_keeps (h : Keeps q n m s) (ts : Nat) (vi : Nat) (src : SourceRead) :
    ∃ t, execImgCheckPassEnd ts vi src s = .next t ∧ Keeps q n m t := by
  unfold execImgCheckPassEnd
  refine ⟨_, rfl, ?_⟩
  repeat' (first | assumption | with_reducible apply State.upto_keeps | with_reducible apply State.imageRead_keeps |
      with_reducible apply State.popImage_keeps | simp only [keeps_mk] | with_reducible refine Keeps.out ?_ |
      with_reducible refine Keeps.foldl ?_ _ ?_ | with_reducible refine Keeps.ite ?_ ?_ | intro _ _ _ | split | dsimp only)

theorem effImgErase_keeps (h : Keeps q n m s) (c : Cmd) :
    Keeps q n m (effImgErase s c).1 := by
  unfold effImgErase
  repeat' (first | assumption | simp only [keeps_modImg, keeps_mk] | with_reducible refine Keeps.out ?_ |
      with_reducible refine Keeps.foldl ?_ _ ?_ | with_reducible refine Keeps.ite ?_ ?_ | intro _ _ _ | split | dsimp only)

theorem execImgErase_keeps (h : Keeps q n m s) (p : Packet) :
    ∃ t, execImgErase p s = .next t ∧ Keeps q n m t := by
  unfold execImgErase
  refine ⟨_, rfl, ?_⟩
  repeat' (first | assumption | with_reducible apply State.takeAs_keeps | with_reducible apply effImgErase_keeps | simp only [keeps_mk] |
      with_reducible refine Keeps.out ?_ | with_reducible refine Keeps.foldl ?_ _ ?_ | with_reducible refine Keeps.ite ?_ ?_ |
      intro _ _ _ | split | dsimp only)

theorem effImgRefresh_keeps (h : Keeps q n m s) (c : Cmd) :
    Keeps q n m (effImgRefresh s c).1 := by
  unfold effImgRefresh
  repeat' (first | assumption | simp only [keeps_modArr, keeps_modImg, keeps_mk] | with_reducible refine Keeps.out ?_ |
      with_reducible refine Keeps.foldl ?_ _ ?_ | with_reducible refine Keeps.ite ?_ ?_ | intro _ _ _ | split | dsimp only)

theorem execImgRefresh_keeps (h : Keeps q n m s) (p : Packet) :
    ∃ t, execImgRefresh p s = .next t ∧ Keeps q n m t := by
  unfold execImgRefresh
  refine ⟨_, rfl, ?_⟩
  repeat' (first | assumption | with_reducible apply State.takeAs_keeps | with_reducible apply effImgRefresh_keeps |
      simp only [keeps_mk] | with_reducible refine Keeps.out ?_ | with_reducible refine Keeps.foldl ?_ _ ?_ |
      with_reducible refine Keeps.ite ?_ ?_ | intro _ _ _ | split | dsimp only)

theorem State.copyRetiring_keeps (h : Keeps q n m s) (v : Nat) (y : Nat) (spare : Nat) (old : Nat) (i : ArrayIdx) :
    Keeps q n m (State.copyRetiring s v y spare old i) := by
  unfold State.copyRetiring
  repeat' (first | assumption | with_reducible apply State.report_keeps | with_reducible apply State.retire_keeps |
      with_reducible apply State.waitRetire_keeps | simp only [keeps_modArr, keeps_mk] | with_reducible refine Keeps.out ?_ |
      with_reducible refine Keeps.foldl ?_ _ ?_ | with_reducible refine Keeps.ite ?_ ?_ | intro _ _ _ | split | dsimp only)

theorem State.recordArrives_keeps (h : Keeps q n m s) (v : Nat) (y : Nat) (a : Nat) (data : Option (List Byte)) :
    Keeps q n m (State.recordArrives s v y a data) := by
  unfold State.recordArrives
  repeat' (first | assumption | with_reducible apply State.failLoad_keeps | with_reducible apply State.failSwap_keeps |
      with_reducible apply State.failBoth_keeps | with_reducible apply State.copyRetiring_keeps | simp only [keeps_modArr, keeps_mk] |
      with_reducible refine Keeps.out ?_ | with_reducible refine Keeps.foldl ?_ _ ?_ | with_reducible refine Keeps.ite ?_ ?_ |
      intro _ _ _ | split | dsimp only)

theorem State.startRetire_keeps (h : Keeps q n m s) (y : Nat) (a : Nat) :
    Keeps q n m (State.startRetire s y a) := by
  unfold State.startRetire
  repeat' (first | assumption | with_reducible apply State.startProgram_keeps | with_reducible apply State.noSpare_keeps |
      simp only [keeps_modErr, keeps_modArr, keeps_mk] | with_reducible refine Keeps.out ?_ | with_reducible refine Keeps.foldl ?_ _ ?_ |
      with_reducible refine Keeps.ite ?_ ?_ | intro _ _ _ | split | dsimp only)

theorem State.pumpSpares_keeps (h : Keeps q n m s)  :
    Keeps q n m (State.pumpSpares s) := by
  unfold State.pumpSpares
  repeat' (first | assumption | with_reducible apply State.retire_keeps | with_reducible apply State.startProgram_keeps |
      simp only [keeps_mk] | with_reducible refine Keeps.out ?_ | with_reducible refine Keeps.foldl ?_ _ ?_ |
      with_reducible refine Keeps.ite ?_ ?_ | intro _ _ _ | split | dsimp only)

theorem State.giveMark_keeps (h : Keeps q n m s) (y : Nat) (a : Nat) :
    Keeps q n m (State.giveMark s y a) := by
  unfold State.giveMark
  repeat' (first | assumption | with_reducible apply State.retire_keeps | with_reducible apply State.take_keeps |
      with_reducible apply State.startRetire_keeps | simp only [keeps_modArr, keeps_mk] | with_reducible refine Keeps.out ?_ |
      with_reducible refine Keeps.foldl ?_ _ ?_ | with_reducible refine Keeps.ite ?_ ?_ | intro _ _ _ | split | dsimp only)

theorem State.suspect_keeps (h : Keeps q n m s) (y : Nat) (a : Nat) (reason : Nat) (row : Nat) :
    Keeps q n m (State.suspect s y a reason row) := by
  unfold State.suspect
  repeat' (first | assumption | with_reducible apply State.report_keeps | with_reducible apply State.giveMark_keeps |
      simp only [keeps_mk] | with_reducible refine Keeps.out ?_ | with_reducible refine Keeps.foldl ?_ _ ?_ |
      with_reducible refine Keeps.ite ?_ ?_ | intro _ _ _ | split | dsimp only)

theorem execSpareSwitch_keeps (h : Keeps q n m s) (ts : Nat) (yelm : Nat) (array : Nat) :
    ∃ t, execSpareSwitch ts yelm array s = .next t ∧ Keeps q n m t := by
  unfold execSpareSwitch
  refine ⟨_, rfl, ?_⟩
  repeat' (first | assumption | with_reducible apply State.upto_keeps | with_reducible apply State.retire_keeps |
      with_reducible apply State.retireTo_keeps | with_reducible apply State.imgPump_keeps | simp only [keeps_modOp, keeps_mk] |
      with_reducible refine Keeps.out ?_ | with_reducible refine Keeps.foldl ?_ _ ?_ | with_reducible refine Keeps.ite ?_ ?_ |
      intro _ _ _ | split | dsimp only)

theorem State.retryFailed_keeps (h : Keeps q n m s) (y : Nat) (a : Nat) :
    Keeps q n m (State.retryFailed s y a) := by
  unfold State.retryFailed
  repeat' (first | assumption | with_reducible apply State.retireTo_keeps | with_reducible apply State.noSpare_keeps |
      with_reducible apply State.imgPump_keeps | with_reducible apply State.startRetire_keeps | simp only [keeps_mk] |
      with_reducible refine Keeps.out ?_ | with_reducible refine Keeps.foldl ?_ _ ?_ | with_reducible refine Keeps.ite ?_ ?_ |
      intro _ _ _ | split | dsimp only)

theorem execRetireRetry_keeps (h : Keeps q n m s) (ts : Nat) (yelm : Nat) (array : Nat) :
    ∃ t, execRetireRetry ts yelm array s = .next t ∧ Keeps q n m t := by
  unfold execRetireRetry
  refine ⟨_, rfl, ?_⟩
  repeat' (first | assumption | with_reducible apply State.upto_keeps | with_reducible apply State.retire_keeps |
      with_reducible apply State.startRetire_keeps | with_reducible apply State.retryFailed_keeps | simp only [keeps_mk] |
      with_reducible refine Keeps.out ?_ | with_reducible refine Keeps.foldl ?_ _ ?_ | with_reducible refine Keeps.ite ?_ ?_ |
      intro _ _ _ | split | dsimp only)

theorem execSuspectMarkExpiry_keeps (h : Keeps q n m s) (ts : Nat) (yelm : Nat) (array : Nat) :
    ∃ t, execSuspectMarkExpiry ts yelm array s = .next t ∧ Keeps q n m t := by
  unfold execSuspectMarkExpiry
  refine ⟨_, rfl, ?_⟩
  repeat' (first | assumption | with_reducible apply State.upto_keeps | simp only [keeps_modArr, keeps_mk] |
      with_reducible refine Keeps.out ?_ | with_reducible refine Keeps.foldl ?_ _ ?_ | with_reducible refine Keeps.ite ?_ ?_ |
      intro _ _ _ | split | dsimp only)

theorem State.rowFails_keeps (h : Keeps q n m s) (v : Nat) (n₁ : Nat) (y : Nat) (a : Nat) (g : Prog) (attempts : Nat) :
    Keeps q n m (State.rowFails s v n₁ y a g attempts) := by
  unfold State.rowFails
  repeat' (first | assumption | with_reducible apply State.report_keeps | with_reducible apply State.retireTo_keeps |
      with_reducible apply State.dropRecords_keeps | with_reducible apply State.noSpare_keeps |
      with_reducible apply State.imgPump_keeps | with_reducible apply State.startRetire_keeps |
      simp only [keeps_modErr, keeps_modArr, keeps_modOp, keeps_mk] | with_reducible refine Keeps.out ?_ |
      with_reducible refine Keeps.foldl ?_ _ ?_ | with_reducible refine Keeps.ite ?_ ?_ | intro _ _ _ | split | dsimp only)

theorem execRowProgram_keeps (h : Keeps q n m s) (ts : Nat) (yelm : Nat) (array : Nat) (attempts : Nat) (ok : Bool) :
    ∃ t, execRowProgram ts yelm array attempts ok s = .next t ∧ Keeps q n m t := by
  unfold execRowProgram
  refine ⟨_, rfl, ?_⟩
  repeat' (first | assumption | with_reducible apply State.upto_keeps | with_reducible apply State.rowFails_keeps |
      simp only [keeps_modArr, keeps_mk] | with_reducible refine Keeps.out ?_ | with_reducible refine Keeps.foldl ?_ _ ?_ |
      with_reducible refine Keeps.ite ?_ ?_ | intro _ _ _ | split | dsimp only)

theorem State.arrayProgrammed_keeps (h : Keeps q n m s) (yelm : Nat) (array : Nat) :
    Keeps q n m (State.arrayProgrammed s yelm array) := by
  unfold State.arrayProgrammed
  repeat' (first | assumption | with_reducible apply State.retire_keeps | with_reducible apply State.notRefreshed_keeps |
      with_reducible apply State.imgPump_keeps | simp only [keeps_modArr, keeps_modOp, keeps_mk] | with_reducible refine Keeps.out ?_ |
      with_reducible refine Keeps.foldl ?_ _ ?_ | with_reducible refine Keeps.ite ?_ ?_ | intro _ _ _ | split | dsimp only)

theorem State.arrayEraseDone_keeps (h : Keeps q n m s) (yelm : Nat) (array : Nat) :
    Keeps q n m (State.arrayEraseDone s yelm array) := by
  unfold State.arrayEraseDone
  repeat' (first | assumption | with_reducible apply State.notRefreshed_keeps | with_reducible apply State.imgPump_keeps |
      simp only [keeps_modArr, keeps_modOp, keeps_mk] | with_reducible refine Keeps.out ?_ | with_reducible refine Keeps.foldl ?_ _ ?_ |
      with_reducible refine Keeps.ite ?_ ?_ | intro _ _ _ | split | dsimp only)

theorem execSwapUnitStart_keeps (h : Keeps q n m s) (ts : Nat) (vi : Nat) (unit : Nat) :
    ∃ t, execSwapUnitStart ts vi unit s = .next t ∧ Keeps q n m t := by
  unfold execSwapUnitStart
  refine ⟨_, rfl, ?_⟩
  repeat' (first | assumption | with_reducible apply State.upto_keeps | with_reducible apply State.imgPump_keeps |
      simp only [keeps_modImg, keeps_modOp, keeps_mk] | with_reducible refine Keeps.out ?_ | with_reducible refine Keeps.foldl ?_ _ ?_ |
      with_reducible refine Keeps.ite ?_ ?_ | intro _ _ _ | split | dsimp only)

theorem State.refreshed_keeps (h : Keeps q n m s) (v : Nat) (y : Nat) (a : Nat) :
    Keeps q n m (State.refreshed s v y a) := by
  unfold State.refreshed
  repeat' (first | assumption | with_reducible apply State.outcome_keeps | with_reducible apply State.count_keeps |
      simp only [keeps_modImg, keeps_mk] | with_reducible refine Keeps.out ?_ | with_reducible refine Keeps.foldl ?_ _ ?_ |
      with_reducible refine Keeps.ite ?_ ?_ | intro _ _ _ | split | dsimp only)

theorem State.refreshSliceEnd_keeps (h : Keeps q n m s) (yelm : Nat) (array : Nat) (bad : List Nat) :
    Keeps q n m (State.refreshSliceEnd s yelm array bad) := by
  unfold State.refreshSliceEnd
  repeat' (first | assumption | with_reducible apply State.imgPump_keeps | with_reducible apply State.suspect_keeps |
      with_reducible apply State.refreshed_keeps | simp only [keeps_modArr, keeps_mk] | with_reducible refine Keeps.out ?_ |
      with_reducible refine Keeps.foldl ?_ _ ?_ | with_reducible refine Keeps.ite ?_ ?_ | intro _ _ _ | split | dsimp only)

theorem State.startSlices_keeps (h : Keeps q n m s) (y : Nat) :
    Keeps q n m (State.startSlices s y) := by
  unfold State.startSlices
  repeat' (first | assumption | simp only [keeps_modArr, keeps_mk] | with_reducible refine Keeps.out ?_ |
      with_reducible refine Keeps.foldl ?_ _ ?_ | with_reducible refine Keeps.ite ?_ ?_ | intro _ _ _ | split | dsimp only)

theorem State.markDue_keeps (h : Keeps q n m s)  :
    Keeps q n m (State.markDue s) := by
  unfold State.markDue
  repeat' (first | assumption | simp only [keeps_mk] | with_reducible refine Keeps.out ?_ | with_reducible refine Keeps.foldl ?_ _ ?_ |
      with_reducible refine Keeps.ite ?_ ?_ | intro _ _ _ | split | dsimp only)

theorem State.refreshBoundary_keeps (h : Keeps q n m s)  :
    Keeps q n m (State.refreshBoundary s) := by
  unfold State.refreshBoundary
  repeat' (first | assumption | with_reducible apply State.startSlices_keeps | with_reducible apply State.markDue_keeps |
      simp only [keeps_mk] | with_reducible refine Keeps.out ?_ | with_reducible refine Keeps.foldl ?_ _ ?_ |
      with_reducible refine Keeps.ite ?_ ?_ | intro _ _ _ | split | dsimp only)

theorem State.barrierBoundary_keeps (h : Keeps q n m s) (v : Nat) :
    Keeps q n m (State.barrierBoundary s v) := by
  unfold State.barrierBoundary
  repeat' (first | assumption | with_reducible apply State.finishSwap_keeps | with_reducible apply State.imgPump_keeps |
      simp only [keeps_modOp, keeps_mk] | with_reducible refine Keeps.out ?_ | with_reducible refine Keeps.foldl ?_ _ ?_ |
      with_reducible refine Keeps.ite ?_ ?_ | intro _ _ _ | split | dsimp only)

theorem State.retireBoundary_keeps (h : Keeps q n m s)  :
    Keeps q n m (State.retireBoundary s) := by
  unfold State.retireBoundary
  repeat' (first | assumption | with_reducible apply State.retire_keeps | with_reducible apply State.pumpSpares_keeps |
      simp only [keeps_mk] | with_reducible refine Keeps.out ?_ | with_reducible refine Keeps.foldl ?_ _ ?_ |
      with_reducible refine Keeps.ite ?_ ?_ | intro _ _ _ | split | dsimp only)

end Sys2Proof.Machine
end

