-- ==== Sys2Proof/Laws/KeepsTraining.lean ====
section
/-! SUPPORT. Band reads, transpose reads, adapters, commits, precision and calibration. One lemma for every operation: it keeps Keeps. -/
namespace Sys2Proof.Machine
set_option Elab.async false
set_option linter.all false
set_option linter.unusedTactic false
set_option linter.unreachableTactic false
set_option linter.unusedSimpArgs false
variable {q : List Instr} {n m : Nat} {s : State}

/-! ### Reads -/

theorem State.restartToken_keeps (h : Keeps q n m s) (im : Image) (x : Vi) (wid : Nat) (slot : Nat) (w : Wave) (t : WaveTok) :
    Keeps q n m (State.restartToken s im x wid slot w t) := by
  unfold State.restartToken
  repeat' (first | assumption | with_reducible apply State.opDone_keeps | simp only [keeps_modWave, keeps_mk] |
      with_reducible refine Keeps.out ?_ | with_reducible refine Keeps.foldl ?_ _ ?_ | with_reducible refine Keeps.ite ?_ ?_ |
      intro _ _ _ | split | dsimp only)

theorem State.operandFails_keeps (h : Keeps q n m s) (im : Image) (x : Vi) (wid : Nat) (slot : Nat) (y : Nat) (a : Nat) (row0 : Nat) (w : Wave) (t : WaveTok) :
    Keeps q n m (State.operandFails s im x wid slot y a row0 w t) := by
  unfold State.operandFails
  repeat' (first | assumption | with_reducible apply State.report_keeps | with_reducible apply State.rerunStep_keeps |
      with_reducible apply State.restartToken_keeps | simp only [keeps_modErr, keeps_mk] | with_reducible refine Keeps.out ?_ |
      with_reducible refine Keeps.foldl ?_ _ ?_ | with_reducible refine Keeps.ite ?_ ?_ | intro _ _ _ | split | dsimp only)

theorem execBandReadStart_keeps (h : Keeps q n m s) (ts : Nat) (yelm : Nat) (array : Nat) (d1 : Int) (d2 : Int) (crcOk : Bool) :
    ∃ t, execBandReadStart ts yelm array d1 d2 crcOk s = .next t ∧ Keeps q n m t := by
  unfold execBandReadStart
  refine ⟨_, rfl, ?_⟩
  repeat' (first | assumption | with_reducible apply State.upto_keeps | with_reducible apply State.operandFails_keeps |
      simp only [keeps_modWave, keeps_modYelm, keeps_mk] | with_reducible refine Keeps.out ?_ |
      with_reducible refine Keeps.foldl ?_ _ ?_ | with_reducible refine Keeps.ite ?_ ?_ | intro _ _ _ | split | dsimp only)

theorem State.chargeSplit_keeps (h : Keeps q n m s) (y : Nat) (r : Read) (todo : List (Nat × Nat)) :
    Keeps q n m (State.chargeSplit s y r todo) := by
  unfold State.chargeSplit
  repeat' (first | assumption | simp only [keeps_modWave, keeps_mk] | with_reducible refine Keeps.out ?_ |
      with_reducible refine Keeps.foldl ?_ _ ?_ | with_reducible refine Keeps.ite ?_ ?_ | intro _ _ _ | split | dsimp only)

theorem State.convertHeld_keeps (h : Keeps q n m s) (y : Nat) (a : Nat) (r : Read) (p : Nat) (half : Nat) (charges : List Int) :
    Keeps q n m (State.convertHeld s y a r p half charges).1 := by
  unfold State.convertHeld
  repeat' (first | assumption | with_reducible apply State.report_keeps | with_reducible apply State.chargeSplit_keeps |
      simp only [keeps_modYelm, keeps_mk] | with_reducible refine Keeps.out ?_ | with_reducible refine Keeps.foldl ?_ _ ?_ |
      with_reducible refine Keeps.ite ?_ ?_ | intro _ _ _ | split | dsimp only)

theorem State.integrate_keeps (h : Keeps q n m s) (y : Nat) (a : Nat) (r : Read) :
    Keeps q n m (State.integrate s y a r).1 := by
  unfold State.integrate
  repeat' (first | assumption | simp only [keeps_mk] | with_reducible refine Keeps.out ?_ | with_reducible refine Keeps.foldl ?_ _ ?_ |
      with_reducible refine Keeps.ite ?_ ?_ | intro _ _ _ | split | dsimp only)

theorem State.cycleRead_keeps (h : Keeps q n m s) (y : Nat) (k : Nat) :
    Keeps q n m (State.cycleRead s y k) := by
  unfold State.cycleRead
  repeat' (first | assumption | with_reducible apply State.convertHeld_keeps | with_reducible apply State.integrate_keeps |
      simp only [keeps_modYelm, keeps_mk] | with_reducible refine Keeps.out ?_ | with_reducible refine Keeps.foldl ?_ _ ?_ |
      with_reducible refine Keeps.ite ?_ ?_ | intro _ _ _ | split | dsimp only)

theorem execTritCycle_keeps (h : Keeps q n m s) (ts : Nat) (yelm : Nat) :
    ∃ t, execTritCycle ts yelm s = .next t ∧ Keeps q n m t := by
  unfold execTritCycle
  refine ⟨_, rfl, ?_⟩
  repeat' (first | assumption | with_reducible apply State.upto_keeps | with_reducible apply State.cycleRead_keeps |
      simp only [keeps_modYelm, keeps_mk] | with_reducible refine Keeps.out ?_ | with_reducible refine Keeps.foldl ?_ _ ?_ |
      with_reducible refine Keeps.ite ?_ ?_ | intro _ _ _ | split | dsimp only)

theorem State.acceptRead_keeps (h : Keeps q n m s) (y : Nat) (k : Nat) (im : Image) (w : Wave) (i : ArrayIdx) (pr : Profile) (r : Read) (soft : Bool) :
    Keeps q n m (State.acceptRead s y k im w i pr r soft) := by
  unfold State.acceptRead
  repeat' (first | assumption | with_reducible apply State.reportN_keeps | with_reducible apply State.count_keeps |
      with_reducible apply State.opDone_keeps | with_reducible apply State.endRead_keeps |
      simp only [keeps_modWave, keeps_modYelm, keeps_mk] | with_reducible refine Keeps.out ?_ |
      with_reducible refine Keeps.foldl ?_ _ ?_ | with_reducible refine Keeps.ite ?_ ?_ | intro _ _ _ | split | dsimp only)

theorem State.setRead_keeps (h : Keeps q n m s) (y : Nat) (k : Nat) (r : Read) :
    Keeps q n m (State.setRead s y k r) := by
  unfold State.setRead
  repeat' (first | assumption | simp only [keeps_modYelm, keeps_mk] | with_reducible refine Keeps.out ?_ |
      with_reducible refine Keeps.foldl ?_ _ ?_ | with_reducible refine Keeps.ite ?_ ?_ | intro _ _ _ | split | dsimp only)

theorem State.runsOut_keeps (h : Keeps q n m s) (k : Nat) :
    Keeps q n m (State.runsOut s k) := by
  unfold State.runsOut
  repeat' (first | assumption | simp only [keeps_modStep, keeps_modEntry, keeps_mk] | with_reducible refine Keeps.out ?_ |
      with_reducible refine Keeps.foldl ?_ _ ?_ | with_reducible refine Keeps.ite ?_ ?_ | intro _ _ _ | split | dsimp only)

theorem State.settleRead_keeps (h : Keeps q n m s) (y : Nat) (k : Nat) (im : Image) (w : Wave) (t : WaveTok) (i : ArrayIdx) (pr : Profile) (r : Read) (rs : List Residual) (declined : Bool) :
    Keeps q n m (State.settleRead s y k im w t i pr r rs declined) := by
  unfold State.settleRead
  repeat' (first | assumption | with_reducible apply State.report_keeps | with_reducible apply State.uncorrected_keeps |
      with_reducible apply State.count_keeps | with_reducible apply State.giveMark_keeps | with_reducible apply State.acceptRead_keeps |
      with_reducible apply State.setRead_keeps | simp only [keeps_modErr, keeps_mk] | with_reducible refine Keeps.out ?_ |
      with_reducible refine Keeps.foldl ?_ _ ?_ | with_reducible refine Keeps.ite ?_ ?_ | intro _ _ _ | split | dsimp only)

theorem State.endRead_keeps (h : Keeps q n m s) (y : Nat) (k : Nat) (r0 : Read) :
    Keeps q n m (State.endRead s y k r0) := by
  unfold State.endRead
  repeat' (first | assumption | with_reducible apply State.count_keeps | with_reducible apply State.raiseFlag_keeps |
      with_reducible apply State.setRead_keeps | with_reducible apply State.runsOut_keeps | with_reducible apply State.settleRead_keeps |
      simp only [keeps_modWave, keeps_modYelm, keeps_mk] | with_reducible refine Keeps.out ?_ |
      with_reducible refine Keeps.foldl ?_ _ ?_ | with_reducible refine Keeps.ite ?_ ?_ | intro _ _ _ | split | dsimp only)

theorem State.bandReadEnd_keeps (h : Keeps q n m s) (yelm : Nat) (array : Nat) :
    Keeps q n m (State.bandReadEnd s yelm array) := by
  unfold State.bandReadEnd
  repeat' (first | assumption | with_reducible apply State.endRead_keeps | simp only [keeps_mk] | with_reducible refine Keeps.out ?_ |
      with_reducible refine Keeps.foldl ?_ _ ?_ | with_reducible refine Keeps.ite ?_ ?_ | intro _ _ _ | split | dsimp only)

/-! ### Transpose -/

theorem State.transposeDone_keeps (h : Keeps q n m s) (im : Image) (x : Vi) (k : Nat) (i : Nat) (t : Step) (c : Tok) (w : TWant) :
    Keeps q n m (State.transposeDone s im x k i t c w) := by
  unfold State.transposeDone
  repeat' (first | assumption | with_reducible apply State.modTok_keeps | with_reducible apply State.finishDesc_keeps |
      with_reducible apply State.stage_keeps | with_reducible apply State.keep_keeps | simp only [keeps_mk] |
      with_reducible refine Keeps.out ?_ | with_reducible refine Keeps.foldl ?_ _ ?_ | with_reducible refine Keeps.ite ?_ ?_ |
      intro _ _ _ | split | dsimp only)

theorem State.transposeStep_keeps (h : Keeps q n m s) (im : Image) (p : Proj) (pl : Place) (i : ArrayIdx) (pr : Profile) (v : Nat) (yelm : Nat) (array : Nat) (part : TPart) (dy : List F32) :
    Keeps q n m (State.transposeStep s im p pl i pr v yelm array part dy).2 := by
  unfold State.transposeStep
  repeat' (first | assumption | with_reducible apply State.count_keeps | simp only [keeps_modYelm, keeps_mk] |
      with_reducible refine Keeps.out ?_ | with_reducible refine Keeps.foldl ?_ _ ?_ | with_reducible refine Keeps.ite ?_ ?_ |
      intro _ _ _ | split | dsimp only)

theorem execTransposeRead_keeps (h : Keeps q n m s) (ts : Nat) (yelm : Nat) (array : Nat) (step : Nat) (tok : Nat) :
    ∃ t, execTransposeRead ts yelm array step tok s = .next t ∧ Keeps q n m t := by
  unfold execTransposeRead
  refine ⟨_, rfl, ?_⟩
  repeat' (first | assumption | with_reducible apply State.upto_keeps | with_reducible apply State.modTok_keeps |
      with_reducible apply State.transposeDone_keeps | with_reducible apply State.transposeStep_keeps | with_reducible apply step_keeps |
      simp only [keeps_mk] | with_reducible refine Keeps.out ?_ | with_reducible refine Keeps.foldl ?_ _ ?_ |
      with_reducible refine Keeps.ite ?_ ?_ | intro _ _ _ | split | dsimp only)

theorem State.doTile_keeps (h : Keeps q n m s) (v : Nat) (e : Nat) (y : Nat) (pay : List Byte) (write : Bool) :
    Keeps q n m (State.doTile s v e y pay write) := by
  unfold State.doTile
  repeat' (first | assumption | with_reducible apply State.reportN_keeps | with_reducible apply State.outcome_keeps |
      simp only [keeps_setYelm, keeps_mk] | with_reducible refine Keeps.out ?_ | with_reducible refine Keeps.foldl ?_ _ ?_ |
      with_reducible refine Keeps.ite ?_ ?_ | intro _ _ _ | split | dsimp only)

theorem State.pumpTiles_keeps (h : Keeps q n m s) (y : Nat) :
    Keeps q n m (State.pumpTiles s y) := by
  unfold State.pumpTiles
  repeat' (first | assumption | with_reducible apply State.doTile_keeps | simp only [keeps_modYelm, keeps_mk] |
      with_reducible refine Keeps.out ?_ | with_reducible refine Keeps.foldl ?_ _ ?_ | with_reducible refine Keeps.ite ?_ ?_ |
      intro _ _ _ | split | dsimp only)

theorem effTile_keeps (h : Keeps q n m s) (write : Bool) (c : Cmd) : Keeps q n m (effTile write s c).1 := by
  unfold effTile
  repeat' (first | assumption | with_reducible apply State.pumpTiles_keeps | simp only [keeps_modYelm] | split | dsimp only)

theorem effTileRead_keeps (h : Keeps q n m s) (c : Cmd) :
    Keeps q n m (effTileRead s c).1 := by
  unfold effTileRead
  repeat' (first | assumption | with_reducible apply effTile_keeps | simp only [keeps_mk] | with_reducible refine Keeps.out ?_ |
      with_reducible refine Keeps.foldl ?_ _ ?_ | with_reducible refine Keeps.ite ?_ ?_ | intro _ _ _ | split | dsimp only)

theorem effTileWrite_keeps (h : Keeps q n m s) (c : Cmd) :
    Keeps q n m (effTileWrite s c).1 := by
  unfold effTileWrite
  repeat' (first | assumption | with_reducible apply effTile_keeps | simp only [keeps_mk] | with_reducible refine Keeps.out ?_ |
      with_reducible refine Keeps.foldl ?_ _ ?_ | with_reducible refine Keeps.ite ?_ ?_ | intro _ _ _ | split | dsimp only)

theorem execTileRead_keeps (h : Keeps q n m s) (p : Packet) :
    ∃ t, execTileRead p s = .next t ∧ Keeps q n m t := by
  unfold execTileRead
  refine ⟨_, rfl, ?_⟩
  repeat' (first | assumption | with_reducible apply State.takeAs_keeps | with_reducible apply effTileRead_keeps | simp only [keeps_mk] |
      with_reducible refine Keeps.out ?_ | with_reducible refine Keeps.foldl ?_ _ ?_ | with_reducible refine Keeps.ite ?_ ?_ |
      intro _ _ _ | split | dsimp only)

theorem execTileWrite_keeps (h : Keeps q n m s) (p : Packet) :
    ∃ t, execTileWrite p s = .next t ∧ Keeps q n m t := by
  unfold execTileWrite
  refine ⟨_, rfl, ?_⟩
  repeat' (first | assumption | with_reducible apply State.takeAs_keeps | with_reducible apply effTileWrite_keeps |
      simp only [keeps_mk] | with_reducible refine Keeps.out ?_ | with_reducible refine Keeps.foldl ?_ _ ?_ |
      with_reducible refine Keeps.ite ?_ ?_ | intro _ _ _ | split | dsimp only)

theorem State.pumpAllTiles_keeps (h : Keeps q n m s)  :
    Keeps q n m (State.pumpAllTiles s) := by
  unfold State.pumpAllTiles
  repeat' (first | assumption | with_reducible apply State.pumpTiles_keeps | simp only [keeps_mk] | with_reducible refine Keeps.out ?_ |
      with_reducible refine Keeps.foldl ?_ _ ?_ | with_reducible refine Keeps.ite ?_ ?_ | intro _ _ _ | split | dsimp only)

theorem execBandReadEnd_keeps (h : Keeps q n m s) (ts : Nat) (yelm : Nat) (array : Nat) :
    ∃ t, execBandReadEnd ts yelm array s = .next t ∧ Keeps q n m t := by
  unfold execBandReadEnd
  refine ⟨_, rfl, ?_⟩
  repeat' (first | assumption | with_reducible apply State.upto_keeps | with_reducible apply State.bandReadEnd_keeps |
      with_reducible apply State.pumpTiles_keeps | simp only [keeps_mk] | with_reducible refine Keeps.out ?_ |
      with_reducible refine Keeps.foldl ?_ _ ?_ | with_reducible refine Keeps.ite ?_ ?_ | intro _ _ _ | split | dsimp only)

theorem execArrayProgrammed_keeps (h : Keeps q n m s) (ts : Nat) (yelm : Nat) (array : Nat) :
    ∃ t, execArrayProgrammed ts yelm array s = .next t ∧ Keeps q n m t := by
  unfold execArrayProgrammed
  refine ⟨_, rfl, ?_⟩
  repeat' (first | assumption | with_reducible apply State.upto_keeps | with_reducible apply State.arrayProgrammed_keeps |
      with_reducible apply State.pumpTiles_keeps | simp only [keeps_mk] | with_reducible refine Keeps.out ?_ |
      with_reducible refine Keeps.foldl ?_ _ ?_ | with_reducible refine Keeps.ite ?_ ?_ | intro _ _ _ | split | dsimp only)

theorem execArrayEraseDone_keeps (h : Keeps q n m s) (ts : Nat) (yelm : Nat) (array : Nat) :
    ∃ t, execArrayEraseDone ts yelm array s = .next t ∧ Keeps q n m t := by
  unfold execArrayEraseDone
  refine ⟨_, rfl, ?_⟩
  repeat' (first | assumption | with_reducible apply State.upto_keeps | with_reducible apply State.arrayEraseDone_keeps |
      with_reducible apply State.pumpTiles_keeps | simp only [keeps_mk] | with_reducible refine Keeps.out ?_ |
      with_reducible refine Keeps.foldl ?_ _ ?_ | with_reducible refine Keeps.ite ?_ ?_ | intro _ _ _ | split | dsimp only)

theorem execRefreshSliceEnd_keeps (h : Keeps q n m s) (ts : Nat) (yelm : Nat) (array : Nat) (bad : List Nat) :
    ∃ t, execRefreshSliceEnd ts yelm array bad s = .next t ∧ Keeps q n m t := by
  unfold execRefreshSliceEnd
  refine ⟨_, rfl, ?_⟩
  repeat' (first | assumption | with_reducible apply State.upto_keeps | with_reducible apply State.refreshSliceEnd_keeps |
      with_reducible apply State.pumpTiles_keeps | simp only [keeps_mk] | with_reducible refine Keeps.out ?_ |
      with_reducible refine Keeps.foldl ?_ _ ?_ | with_reducible refine Keeps.ite ?_ ?_ | intro _ _ _ | split | dsimp only)

/-! ### Training -/

theorem State.emitSet_keeps (h : Keeps q n m s) (v : Nat) (n₁ : Nat) (a : AdpSet) :
    Keeps q n m (State.emitSet s v n₁ a) := by
  unfold State.emitSet
  repeat' (first | assumption | with_reducible apply State.emit_keeps | simp only [keeps_mk] | with_reducible refine Keeps.out ?_ |
      with_reducible refine Keeps.foldl ?_ _ ?_ | with_reducible refine Keeps.ite ?_ ?_ | intro _ _ _ | split | dsimp only)

theorem effAdpSetCreate_keeps (h : Keeps q n m s) (c : Cmd) :
    Keeps q n m (effAdpSetCreate s c).1 := by
  unfold effAdpSetCreate
  dsimp only
  split
  · exact h
  · generalize newSet _ _ _ = a
    split
    · exact h
    · split
      · exact h
      · split
        · exact h
        · have h1 : Keeps q n m { s with draws := a.2 } := ⟨h.queue, h.now, h.svn, h.mem⟩
          split
          · exact h
          · exact State.emitSet_keeps ((keeps_modVi _ _).2 h1) ..

theorem execAdpSetCreate_keeps (h : Keeps q n m s) (p : Packet) :
    ∃ t, execAdpSetCreate p s = .next t ∧ Keeps q n m t := by
  unfold execAdpSetCreate
  refine ⟨_, rfl, ?_⟩
  repeat' (first | assumption | with_reducible apply State.takeAs_keeps | with_reducible apply effAdpSetCreate_keeps |
      simp only [keeps_mk] | with_reducible refine Keeps.out ?_ | with_reducible refine Keeps.foldl ?_ _ ?_ |
      with_reducible refine Keeps.ite ?_ ?_ | intro _ _ _ | split | dsimp only)

theorem effAdpSetClose_keeps (h : Keeps q n m s) (c : Cmd) :
    Keeps q n m (effAdpSetClose s c).1 := by
  unfold effAdpSetClose
  repeat' (first | assumption | with_reducible apply State.emit_keeps | simp only [keeps_modVi, keeps_mk] |
      with_reducible refine Keeps.out ?_ | with_reducible refine Keeps.foldl ?_ _ ?_ | with_reducible refine Keeps.ite ?_ ?_ |
      intro _ _ _ | split | dsimp only)

theorem execAdpSetClose_keeps (h : Keeps q n m s) (p : Packet) :
    ∃ t, execAdpSetClose p s = .next t ∧ Keeps q n m t := by
  unfold execAdpSetClose
  refine ⟨_, rfl, ?_⟩
  repeat' (first | assumption | with_reducible apply State.takeAs_keeps | with_reducible apply effAdpSetClose_keeps |
      simp only [keeps_mk] | with_reducible refine Keeps.out ?_ | with_reducible refine Keeps.foldl ?_ _ ?_ |
      with_reducible refine Keeps.ite ?_ ?_ | intro _ _ _ | split | dsimp only)

theorem effAdpSetXfer_keeps (h : Keeps q n m s) (c : Cmd) :
    Keeps q n m (effAdpSetXfer s c).1 := by
  unfold effAdpSetXfer
  repeat' (first | assumption | with_reducible apply State.rdma_keeps | simp only [keeps_modEntry, keeps_mk] |
      with_reducible refine Keeps.out ?_ | with_reducible refine Keeps.foldl ?_ _ ?_ | with_reducible refine Keeps.ite ?_ ?_ |
      intro _ _ _ | split | dsimp only)

theorem execAdpSetXfer_keeps (h : Keeps q n m s) (p : Packet) :
    ∃ t, execAdpSetXfer p s = .next t ∧ Keeps q n m t := by
  unfold execAdpSetXfer
  refine ⟨_, rfl, ?_⟩
  repeat' (first | assumption | with_reducible apply State.takeAs_keeps | with_reducible apply effAdpSetXfer_keeps |
      simp only [keeps_mk] | with_reducible refine Keeps.out ?_ | with_reducible refine Keeps.foldl ?_ _ ?_ |
      with_reducible refine Keeps.ite ?_ ?_ | intro _ _ _ | split | dsimp only)

theorem State.xferDone_keeps (h : Keeps q n m s) (v : Nat) (e : Nat) (pay : List Byte) (data : Option (List Byte)) :
    Keeps q n m (State.xferDone s v e pay data) := by
  unfold State.xferDone
  repeat' (first | assumption | with_reducible apply State.reportN_keeps | with_reducible apply State.emit_keeps |
      with_reducible apply State.outcome_keeps | with_reducible apply State.emitSet_keeps | simp only [keeps_modVi, keeps_mk] |
      with_reducible refine Keeps.out ?_ | with_reducible refine Keeps.foldl ?_ _ ?_ | with_reducible refine Keeps.ite ?_ ?_ |
      intro _ _ _ | split | dsimp only)

theorem effAdpFwdSave_keeps (h : Keeps q n m s) (c : Cmd) :
    Keeps q n m (effAdpFwdSave s c).1 := by
  unfold effAdpFwdSave
  repeat' (first | assumption | with_reducible apply State.addStep_keeps | with_reducible apply State.touchSeq_keeps |
      simp only [keeps_mk] | with_reducible refine Keeps.out ?_ | with_reducible refine Keeps.foldl ?_ _ ?_ |
      with_reducible refine Keeps.ite ?_ ?_ | intro _ _ _ | split | dsimp only)

theorem execAdpFwdSave_keeps (h : Keeps q n m s) (p : Packet) :
    ∃ t, execAdpFwdSave p s = .next t ∧ Keeps q n m t := by
  unfold execAdpFwdSave
  refine ⟨_, rfl, ?_⟩
  repeat' (first | assumption | with_reducible apply State.takeAs_keeps | with_reducible apply effAdpFwdSave_keeps |
      simp only [keeps_mk] | with_reducible refine Keeps.out ?_ | with_reducible refine Keeps.foldl ?_ _ ?_ |
      with_reducible refine Keeps.ite ?_ ?_ | intro _ _ _ | split | dsimp only)

theorem effAdpBwd_keeps (h : Keeps q n m s) (c : Cmd) :
    Keeps q n m (effAdpBwd s c).1 := by
  unfold effAdpBwd
  repeat' (first | assumption | with_reducible apply State.addStep_keeps | with_reducible apply State.touchSeq_keeps |
      simp only [keeps_modVi, keeps_mk] | with_reducible refine Keeps.out ?_ | with_reducible refine Keeps.foldl ?_ _ ?_ |
      with_reducible refine Keeps.ite ?_ ?_ | intro _ _ _ | split | dsimp only)

theorem execAdpBwd_keeps (h : Keeps q n m s) (p : Packet) :
    ∃ t, execAdpBwd p s = .next t ∧ Keeps q n m t := by
  unfold execAdpBwd
  refine ⟨_, rfl, ?_⟩
  repeat' (first | assumption | with_reducible apply State.takeAs_keeps | with_reducible apply effAdpBwd_keeps | simp only [keeps_mk] |
      with_reducible refine Keeps.out ?_ | with_reducible refine Keeps.foldl ?_ _ ?_ | with_reducible refine Keeps.ite ?_ ?_ |
      intro _ _ _ | split | dsimp only)

theorem effAdpUpdate_keeps (h : Keeps q n m s) (c : Cmd) :
    Keeps q n m (effAdpUpdate s c).1 := by
  unfold effAdpUpdate
  repeat' (first | assumption | with_reducible apply State.emitSet_keeps | simp only [keeps_modVi, keeps_mk] |
      with_reducible refine Keeps.out ?_ | with_reducible refine Keeps.foldl ?_ _ ?_ | with_reducible refine Keeps.ite ?_ ?_ |
      intro _ _ _ | split | dsimp only)

theorem execAdpUpdate_keeps (h : Keeps q n m s) (p : Packet) :
    ∃ t, execAdpUpdate p s = .next t ∧ Keeps q n m t := by
  unfold execAdpUpdate
  refine ⟨_, rfl, ?_⟩
  repeat' (first | assumption | with_reducible apply State.takeAs_keeps | with_reducible apply effAdpUpdate_keeps |
      simp only [keeps_mk] | with_reducible refine Keeps.out ?_ | with_reducible refine Keeps.foldl ?_ _ ?_ |
      with_reducible refine Keeps.ite ?_ ?_ | intro _ _ _ | split | dsimp only)

/-! ### Commit -/

theorem waitingEffect_keeps (h : Keeps q n m s) (op : Nat) (c : Cmd) : Keeps q n m (waitingEffect op s c).1 := by
  unfold waitingEffect
  split <;> first
    | exact effSeqOpen_keeps h c
    | exact effSeqFork_keeps h c
    | exact effKvEvict_keeps h c
    | exact effAdpSetXfer_keeps h c
    | exact effAdpSetClose_keeps h c
    | exact effAdpBwd_keeps h c
    | exact effAdpUpdate_keeps h c
    | exact effKvPin_keeps h c
    | exact effKvPrefetch_keeps h c
    | exact effAdpSetCreate_keeps h c

theorem State.retryWait_keeps (h : Keeps q n m s) (w : Nat × Nat) :
    Keeps q n m (State.retryWait s w) := by
  unfold State.retryWait
  repeat' (first | assumption | with_reducible apply State.runEffect_keeps | with_reducible apply waitingEffect_keeps |
      simp only [keeps_mk] | with_reducible refine Keeps.out ?_ | with_reducible refine Keeps.foldl ?_ _ ?_ |
      with_reducible refine Keeps.ite ?_ ?_ | intro _ _ _ | split | dsimp only)

theorem State.kvWakeVi_keeps (h : Keeps q n m s) (v : Nat) :
    Keeps q n m (State.kvWakeVi s v) := by
  unfold State.kvWakeVi
  repeat' (first | assumption | with_reducible apply State.outcome_keeps | simp only [keeps_mk] | with_reducible refine Keeps.out ?_ |
      with_reducible refine Keeps.foldl ?_ _ ?_ | with_reducible refine Keeps.ite ?_ ?_ | intro _ _ _ | split | dsimp only)

theorem State.nudge_keeps (h : Keeps q n m s)  :
    Keeps q n m (State.nudge s) := by
  unfold State.nudge
  repeat' (first | assumption | with_reducible apply State.touchSeq_keeps | simp only [keeps_mk] | with_reducible refine Keeps.out ?_ |
      with_reducible refine Keeps.foldl ?_ _ ?_ | with_reducible refine Keeps.ite ?_ ?_ | intro _ _ _ | split | dsimp only)

theorem State.wake_keeps (h : Keeps q n m s)  :
    Keeps q n m (State.wake s) := by
  unfold State.wake
  repeat' (first | assumption | with_reducible apply State.retryWait_keeps | with_reducible apply State.kvWakeVi_keeps |
      with_reducible apply State.nudge_keeps | simp only [keeps_mk] | with_reducible refine Keeps.out ?_ |
      with_reducible refine Keeps.foldl ?_ _ ?_ | with_reducible refine Keeps.ite ?_ ?_ | intro _ _ _ | split | dsimp only)

theorem State.afterStep_keeps (h : Keeps q n m s) (v : Nat) :
    Keeps q n m (State.afterStep s v) := by
  unfold State.afterStep
  repeat' (first | assumption | with_reducible apply State.endWaits_keeps | with_reducible apply State.imgPump_keeps |
      with_reducible apply State.wake_keeps | simp only [keeps_mk] | with_reducible refine Keeps.out ?_ |
      with_reducible refine Keeps.foldl ?_ _ ?_ | with_reducible refine Keeps.ite ?_ ?_ | intro _ _ _ | split | dsimp only)

theorem execSpillComplete_keeps (h : Keeps q n m s) (ts : Nat) (vi : Nat) (page : Nat) :
    ∃ t, execSpillComplete ts vi page s = .next t ∧ Keeps q n m t := by
  unfold execSpillComplete
  refine ⟨_, rfl, ?_⟩
  repeat' (first | assumption | with_reducible apply State.upto_keeps | with_reducible apply State.spillEnds_keeps |
      with_reducible apply State.wake_keeps | simp only [keeps_mk] | with_reducible refine Keeps.out ?_ |
      with_reducible refine Keeps.foldl ?_ _ ?_ | with_reducible refine Keeps.ite ?_ ?_ | intro _ _ _ | split | dsimp only)

theorem execFetchComplete_keeps (h : Keeps q n m s) (ts : Nat) (vi : Nat) (page : Nat) (data : List Byte) :
    ∃ t, execFetchComplete ts vi page data s = .next t ∧ Keeps q n m t := by
  unfold execFetchComplete
  refine ⟨_, rfl, ?_⟩
  repeat' (first | assumption | with_reducible apply State.upto_keeps | with_reducible apply State.fetchEnds_keeps |
      with_reducible apply State.wake_keeps | simp only [keeps_mk] | with_reducible refine Keeps.out ?_ |
      with_reducible refine Keeps.foldl ?_ _ ?_ | with_reducible refine Keeps.ite ?_ ?_ | intro _ _ _ | split | dsimp only)

theorem State.linkPage_keeps (h : Keeps q n m s) (v : Nat) (q₁ : Nat) (layer : Nat) (idx : Nat) (pg : Page) :
    Keeps q n m (State.linkPage s v q₁ layer idx pg) := by
  unfold State.linkPage
  repeat' (first | assumption | simp only [keeps_modVi, keeps_mk] | with_reducible refine Keeps.out ?_ |
      with_reducible refine Keeps.foldl ?_ _ ?_ | with_reducible refine Keeps.ite ?_ ?_ | intro _ _ _ | split | dsimp only)

theorem State.unlinkPage_keeps (h : Keeps q n m s) (v : Nat) (q₁ : Nat) (layer : Nat) (idx : Nat) :
    Keeps q n m (State.unlinkPage s v q₁ layer idx) := by
  unfold State.unlinkPage
  repeat' (first | assumption | simp only [keeps_modVi, keeps_mk] | with_reducible refine Keeps.out ?_ |
      with_reducible refine Keeps.foldl ?_ _ ?_ | with_reducible refine Keeps.ite ?_ ?_ | intro _ _ _ | split | dsimp only)

theorem State.copyBlock_keeps (h : Keeps q n m s) (t : Step) (layer : Nat) (l : KvLayer) (sq : Seq) {r : Nat × Nat × BlockPair × State}
    (hr : s.copyBlock t layer l sq = some r) : Keeps q n m r.2.2.2 := by
  unfold State.copyBlock at hr
  split at hr
  · cases hr; exact h
  · dsimp only at hr
    split at hr
    · cases hr
    · cases hr; exact (keeps_modVi _ _).2 h

theorem State.commitTail_keeps (h : Keeps q n m s) (k layer : Nat) (l : KvLayer) (t : Step) (sq : Seq) (p p2 : Nat) {w : State}
    (hw : s.commitTail k layer l t sq p p2 = some w) : Keeps q n m w := by
  unfold State.commitTail at hw
  dsimp only at hw
  split at hw
  · cases hw; exact h
  · split at hw
    · cases hw; exact h
    · split at hw
      · split at hw
        · rename_i e _
          have hc := State.copyBlock_keeps h _ _ _ _ e
          cases hw
          refine State.unref_keeps (State.linkPage_keeps ?_ ..) ..
          simp only [keeps_modStep, keeps_mk]
          refine Keeps.withMem hc (memWf_writeStaged (memWf_foldl (fun _ _ hm => memWf_writeRows hm ..) _ hc.mem) ..)
        · cases hw
      · split at hw
        · cases hw; exact h
        · cases hw
          simp only [keeps_modVi, keeps_mk]
          exact Keeps.withMem h (memWf_writeStaged h.mem ..)

theorem State.releaseRing_keeps (h : Keeps q n m s) (v : Nat) (q₁ : Nat) (layer : Nat) (l : KvLayer) (sq : Seq) (p2 : Nat) :
    Keeps q n m (State.releaseRing s v q₁ layer l sq p2) := by
  unfold State.releaseRing
  repeat' (first | assumption | with_reducible apply State.unref_keeps | with_reducible apply State.unlinkPage_keeps |
      simp only [keeps_mk] | with_reducible refine Keeps.out ?_ | with_reducible refine Keeps.foldl ?_ _ ?_ |
      with_reducible refine Keeps.ite ?_ ?_ | intro _ _ _ | split | dsimp only)

theorem State.linkReserved_keeps (h : Keeps q n m s) (k : Nat) (layer : Nat) (l : KvLayer) (t : Step) (sq : Seq) (p2 : Nat) :
    Keeps q n m (State.linkReserved s k layer l t sq p2) := by
  unfold State.linkReserved
  repeat' (first | assumption | with_reducible apply State.linkPage_keeps | simp only [keeps_modStep, keeps_mk] |
      with_reducible refine Keeps.out ?_ | exact memWf_nil | with_reducible refine Keeps.withMem ?_ ?_ |
      with_reducible apply memWf_clearSlots | with_reducible refine memWf_foldl ?_ _ ?_ |
      with_reducible refine Keeps.mem (q := q) (n := n) (m := m) ?_ | with_reducible refine Keeps.foldl ?_ _ ?_ |
      with_reducible refine Keeps.ite ?_ ?_ | intro _ _ _ | split | dsimp only)

theorem State.commitPages_keeps (h : Keeps q n m s) (k : Nat) (t : Step) (sq : Seq) (ls : List KvLayer) (p p2 : Nat) {w : State}
    (hw : s.commitPages k t sq ls p p2 = some w) : Keeps q n m w := by
  unfold State.commitPages at hw
  have none_fold : ∀ (es : List (Nat × KvLayer)) (g : State → Nat × KvLayer → Option State),
      es.foldl (fun acc e => acc.bind (fun s => g s e)) (none : Option State) = none := by
    intro es g; induction es with
    | nil => rfl
    | cons e es ih => exact ih
  generalize (List.range ls.length).zip ls = es at hw
  induction es generalizing s with
  | nil => cases hw; exact h
  | cons e es ih =>
    rw [List.foldl_cons, Option.bind_some] at hw
    cases hc : s.commitTail k e.1 e.2 t sq p p2 with
    | none => rw [hc, Option.map_none, none_fold] at hw; cases hw
    | some u =>
      rw [hc, Option.map_some] at hw
      exact ih (State.linkReserved_keeps (State.releaseRing_keeps (State.commitTail_keeps h _ _ _ _ _ _ _ hc) ..) ..) hw

theorem State.advanceSeq_keeps (h : Keeps q n m s) (t : Step) (p2 : Nat) (kept : Nat) :
    Keeps q n m (State.advanceSeq s t p2 kept) := by
  unfold State.advanceSeq
  repeat' (first | assumption | with_reducible apply State.take_keeps | simp only [keeps_modVi, keeps_mk] |
      with_reducible refine Keeps.out ?_ | with_reducible refine Keeps.foldl ?_ _ ?_ | with_reducible refine Keeps.ite ?_ ?_ |
      intro _ _ _ | split | dsimp only)

theorem State.commitSaved_keeps (h : Keeps q n m s) (t : Step) (p : Nat) :
    Keeps q n m (State.commitSaved s t p) := by
  unfold State.commitSaved
  repeat' (first | assumption | with_reducible apply State.emit_keeps | simp only [keeps_modVi, keeps_mk] |
      with_reducible refine Keeps.out ?_ | with_reducible refine Keeps.foldl ?_ _ ?_ | with_reducible refine Keeps.ite ?_ ?_ |
      intro _ _ _ | split | dsimp only)

theorem State.commitForward_keeps (h : Keeps q n m s) (k : Nat) (t : Step) (x : Vi) (sq : Seq) :
    Keeps q n m (State.commitForward s k t x sq) := by
  unfold State.commitForward
  repeat' (first | assumption | with_reducible apply State.emit_keeps | with_reducible apply State.outcome_keeps |
      with_reducible apply State.take_keeps | with_reducible apply State.dropStep_keeps | with_reducible apply State.reclaimT1_keeps |
      with_reducible refine State.commitPages_keeps ?_ _ _ _ _ _ _ (by assumption) | with_reducible apply State.advanceSeq_keeps |
      with_reducible apply State.commitSaved_keeps | simp only [keeps_mk] | with_reducible refine Keeps.out ?_ |
      with_reducible refine Keeps.foldl ?_ _ ?_ | with_reducible refine Keeps.ite ?_ ?_ | intro _ _ _ | split | dsimp only)

theorem State.relink_keeps (h : Keeps q n m s) (k : Nat) (layer : Nat) (t : Step) (d : Drop) (upto : Nat) (lo : Nat) :
    Keeps q n m (State.relink s k layer t d upto lo) := by
  unfold State.relink
  repeat' (first | assumption | simp only [keeps_modVi, keeps_modStep, keeps_mk] | with_reducible refine Keeps.out ?_ |
      with_reducible refine Keeps.foldl ?_ _ ?_ | with_reducible refine Keeps.ite ?_ ?_ | intro _ _ _ | split | dsimp only)

theorem State.commitRecompute_keeps (h : Keeps q n m s) (k : Nat) (t : Step) (x : Vi) (sq : Seq) :
    Keeps q n m (State.commitRecompute s k t x sq) := by
  unfold State.commitRecompute
  repeat' (first | assumption | with_reducible apply State.emit_keeps | with_reducible apply State.dropStep_keeps |
      with_reducible apply State.addStep_keeps | with_reducible apply State.relink_keeps | simp only [keeps_modVi, keeps_mk] |
      with_reducible refine Keeps.out ?_ | with_reducible refine Keeps.foldl ?_ _ ?_ | with_reducible refine Keeps.ite ?_ ?_ |
      intro _ _ _ | split | dsimp only)

theorem State.commitBackward_keeps (h : Keeps q n m s) (k : Nat) (t : Step) (x : Vi) (sq : Seq) :
    Keeps q n m (State.commitBackward s k t x sq) := by
  unfold State.commitBackward
  repeat' (first | assumption | with_reducible apply State.emit_keeps | with_reducible apply State.outcome_keeps |
      with_reducible apply State.dropStep_keeps | with_reducible apply State.addStep_keeps | simp only [keeps_modVi, keeps_mk] |
      with_reducible refine Keeps.out ?_ | with_reducible refine Keeps.foldl ?_ _ ?_ | with_reducible refine Keeps.ite ?_ ?_ |
      intro _ _ _ | split | dsimp only)

theorem execStepCommit_keeps (h : Keeps q n m s) (ts : Nat) (step : Nat) :
    ∃ t, execStepCommit ts step s = .next t ∧ Keeps q n m t := by
  unfold execStepCommit
  refine ⟨_, rfl, ?_⟩
  have h1 := State.upto_keeps h ts
  dsimp only
  generalize s.upto ts = u at h1
  split
  · exact h1
  · split
    · exact h1
    · split
      · exact h1
      · refine Keeps.ite h1 (State.afterStep_keeps ?_ _)
        split
        · exact State.commitRecompute_keeps h1 ..
        · exact State.commitBackward_keeps h1 ..
        · exact State.commitForward_keeps h1 ..

theorem execStepEnd_keeps (h : Keeps q n m s) (ts step : Nat) : ∃ t, execStepEnd ts step s = .next t ∧ Keeps q n m t := by
  unfold execStepEnd
  refine ⟨_, rfl, ?_⟩
  have h2 := State.upto_keeps h ts
  generalize s.upto ts = u at h2
  split
  · exact h2
  · split
    · exact h2
    · refine State.afterStep_keeps ?_ _
      split
      · exact State.failStep_keeps h2 ..
      · split
        · exact State.requeue_keeps h2 ..
        · exact State.dropStep_keeps h2 ..

/-! ### Precision -/

theorem effRecipeSet_keeps (h : Keeps q n m s) (c : Cmd) :
    Keeps q n m (effRecipeSet s c).1 := by
  unfold effRecipeSet
  repeat' (first | assumption | with_reducible apply State.emit_keeps | simp only [keeps_modImg, keeps_mk] |
      with_reducible refine Keeps.out ?_ | with_reducible refine Keeps.foldl ?_ _ ?_ | with_reducible refine Keeps.ite ?_ ?_ |
      intro _ _ _ | split | dsimp only)

theorem execRecipeSet_keeps (h : Keeps q n m s) (p : Packet) :
    ∃ t, execRecipeSet p s = .next t ∧ Keeps q n m t := by
  unfold execRecipeSet
  refine ⟨_, rfl, ?_⟩
  repeat' (first | assumption | with_reducible apply State.takeAs_keeps | with_reducible apply effRecipeSet_keeps |
      simp only [keeps_mk] | with_reducible refine Keeps.out ?_ | with_reducible refine Keeps.foldl ?_ _ ?_ |
      with_reducible refine Keeps.ite ?_ ?_ | intro _ _ _ | split | dsimp only)

theorem State.recipeBoundary_keeps (h : Keeps q n m s)  :
    Keeps q n m (State.recipeBoundary s) := by
  unfold State.recipeBoundary
  repeat' (first | assumption | simp only [keeps_mk] | with_reducible refine Keeps.out ?_ | with_reducible refine Keeps.foldl ?_ _ ?_ |
      with_reducible refine Keeps.ite ?_ ?_ | intro _ _ _ | split | dsimp only)

theorem State.evalWindow_keeps (h : Keeps q n m s) (v : Nat) :
    Keeps q n m (State.evalWindow s v) := by
  unfold State.evalWindow
  repeat' (first | assumption | with_reducible apply State.raiseFlag_keeps | simp only [keeps_modVi, keeps_mk] |
      with_reducible refine Keeps.out ?_ | with_reducible refine Keeps.foldl ?_ _ ?_ | with_reducible refine Keeps.ite ?_ ?_ |
      intro _ _ _ | split | dsimp only)

theorem State.windowEnds_keeps (h : Keeps q n m s) (v : Nat) :
    Keeps q n m (State.windowEnds s v) := by
  unfold State.windowEnds
  repeat' (first | assumption | with_reducible apply State.evalWindow_keeps | with_reducible apply State.beat_keeps |
      simp only [keeps_modVi, keeps_mk] | with_reducible refine Keeps.out ?_ | with_reducible refine Keeps.foldl ?_ _ ?_ |
      with_reducible refine Keeps.ite ?_ ?_ | intro _ _ _ | split | dsimp only)

theorem execFlagWindowEnd_keeps (h : Keeps q n m s) (ts : Nat) (vi : Nat) :
    ∃ t, execFlagWindowEnd ts vi s = .next t ∧ Keeps q n m t := by
  unfold execFlagWindowEnd
  refine ⟨_, rfl, ?_⟩
  repeat' (first | assumption | with_reducible apply State.upto_keeps | with_reducible apply State.windowEnds_keeps |
      simp only [keeps_mk] | with_reducible refine Keeps.out ?_ | with_reducible refine Keeps.foldl ?_ _ ?_ |
      with_reducible refine Keeps.ite ?_ ?_ | intro _ _ _ | split | dsimp only)

theorem State.windowBoundary_keeps (h : Keeps q n m s)  :
    Keeps q n m (State.windowBoundary s) := by
  unfold State.windowBoundary
  repeat' (first | assumption | with_reducible apply State.windowEnds_keeps | with_reducible apply State.beat_keeps |
      simp only [keeps_modTime, keeps_mk] | with_reducible refine Keeps.out ?_ | with_reducible refine Keeps.foldl ?_ _ ?_ |
      with_reducible refine Keeps.ite ?_ ?_ | intro _ _ _ | split | dsimp only)

theorem State.clearUnit_keeps (h : Keeps q n m s) (v : Nat) :
    Keeps q n m (State.clearUnit s v) := by
  unfold State.clearUnit
  repeat' (first | assumption | simp only [keeps_modVi, keeps_mk] | with_reducible refine Keeps.out ?_ |
      with_reducible refine Keeps.foldl ?_ _ ?_ | with_reducible refine Keeps.ite ?_ ?_ | intro _ _ _ | split | dsimp only)

theorem State.clearUnits_keeps (h : Keeps q n m s) (v : Nat) :
    Keeps q n m (State.clearUnits s v) := by
  unfold State.clearUnits
  repeat' (first | assumption | simp only [keeps_modVi, keeps_mk] | with_reducible refine Keeps.out ?_ |
      with_reducible refine Keeps.foldl ?_ _ ?_ | with_reducible refine Keeps.ite ?_ ?_ | intro _ _ _ | split | dsimp only)

theorem execClrUnit_keeps (h : Keeps q n m s) (ts : Nat) (vi : Nat) (value : Reg) :
    ∃ t, execClrUnit ts vi value s = .next t ∧ Keeps q n m t := by
  unfold execClrUnit
  refine ⟨_, rfl, ?_⟩
  repeat' (first | assumption | with_reducible apply State.upto_keeps | with_reducible apply State.clearUnit_keeps |
      simp only [keeps_mk] | with_reducible refine Keeps.out ?_ | with_reducible refine Keeps.foldl ?_ _ ?_ |
      with_reducible refine Keeps.ite ?_ ?_ | intro _ _ _ | split | dsimp only)

theorem execClrAll_keeps (h : Keeps q n m s) (ts : Nat) (vi : Nat) (value : Reg) :
    ∃ t, execClrAll ts vi value s = .next t ∧ Keeps q n m t := by
  unfold execClrAll
  refine ⟨_, rfl, ?_⟩
  repeat' (first | assumption | with_reducible apply State.upto_keeps | with_reducible apply State.clearUnits_keeps |
      simp only [keeps_mk] | with_reducible refine Keeps.out ?_ | with_reducible refine Keeps.foldl ?_ _ ?_ |
      with_reducible refine Keeps.ite ?_ ?_ | intro _ _ _ | split | dsimp only)

theorem State.setWindow_keeps (h : Keeps q n m s) (v : Nat) (n₁ : Nat) :
    Keeps q n m (State.setWindow s v n₁) := by
  unfold State.setWindow
  repeat' (first | assumption | simp only [keeps_modView, keeps_mk] | with_reducible refine Keeps.out ?_ |
      with_reducible refine Keeps.foldl ?_ _ ?_ | with_reducible refine Keeps.ite ?_ ?_ | intro _ _ _ | split | dsimp only)

theorem execFlagWindowWrite_keeps (h : Keeps q n m s) (ts : Nat) (vi : Nat) (value : Reg) :
    ∃ t, execFlagWindowWrite ts vi value s = .next t ∧ Keeps q n m t := by
  unfold execFlagWindowWrite
  refine ⟨_, rfl, ?_⟩
  repeat' (first | assumption | with_reducible apply State.upto_keeps | with_reducible apply State.setWindow_keeps |
      simp only [keeps_mk] | with_reducible refine Keeps.out ?_ | with_reducible refine Keeps.foldl ?_ _ ?_ |
      with_reducible refine Keeps.ite ?_ ?_ | intro _ _ _ | split | dsimp only)

/-! ### Calibration -/

theorem State.trimBoundary_keeps (h : Keeps q n m s) : Keeps q n m s.trimBoundary := by
  unfold State.trimBoundary
  dsimp only
  refine Keeps.foldl (fun t d ht => ?_) _ ((keeps_mk ..).2 h.out)
  split
  · exact ht
  · split
    · exact (keeps_modCal _).2 ht
    · exact ht

theorem State.reloadTrims_keeps (h : Keeps q n m s) (y : Nat) :
    Keeps q n m (State.reloadTrims s y) := by
  unfold State.reloadTrims
  repeat' (first | assumption | simp only [keeps_modYelm, keeps_mk] | with_reducible refine Keeps.out ?_ |
      with_reducible refine Keeps.foldl ?_ _ ?_ | with_reducible refine Keeps.ite ?_ ?_ | intro _ _ _ | split | dsimp only)

theorem State.requestCal_keeps (h : Keeps q n m s) (y : Nat) :
    Keeps q n m (State.requestCal s y) := by
  unfold State.requestCal
  repeat' (first | assumption | simp only [keeps_modCal, keeps_modYelm, keeps_mk] | with_reducible refine Keeps.out ?_ |
      with_reducible refine Keeps.foldl ?_ _ ?_ | with_reducible refine Keeps.ite ?_ ?_ | intro _ _ _ | split | dsimp only)

theorem State.calReqWrite_keeps (h : Keeps q n m s) (vi : Nat) (value : Nat) :
    Keeps q n m (State.calReqWrite s vi value) := by
  unfold State.calReqWrite
  repeat' (first | assumption | with_reducible apply State.requestCal_keeps | simp only [keeps_mk] | with_reducible refine Keeps.out ?_ |
      with_reducible refine Keeps.foldl ?_ _ ?_ | with_reducible refine Keeps.ite ?_ ?_ | intro _ _ _ | split | dsimp only)

theorem execCalReq_keeps (h : Keeps q n m s) (ts : Nat) (vi : Nat) (value : Reg) :
    ∃ t, execCalReq ts vi value s = .next t ∧ Keeps q n m t := by
  unfold execCalReq
  refine ⟨_, rfl, ?_⟩
  repeat' (first | assumption | with_reducible apply State.upto_keeps | with_reducible apply State.calReqWrite_keeps |
      simp only [keeps_mk] | with_reducible refine Keeps.out ?_ | with_reducible refine Keeps.foldl ?_ _ ?_ |
      with_reducible refine Keeps.ite ?_ ?_ | intro _ _ _ | split | dsimp only)

theorem effCalRun_keeps (h : Keeps q n m s) (c : Cmd) :
    Keeps q n m (effCalRun s c).1 := by
  unfold effCalRun
  repeat' (first | assumption | simp only [keeps_modCal, keeps_modEntry, keeps_modYelm, keeps_mk] | with_reducible refine Keeps.out ?_ |
      with_reducible refine Keeps.foldl ?_ _ ?_ | with_reducible refine Keeps.ite ?_ ?_ | intro _ _ _ | split | dsimp only)

theorem execCalRun_keeps (h : Keeps q n m s) (p : Packet) :
    ∃ t, execCalRun p s = .next t ∧ Keeps q n m t := by
  unfold execCalRun
  refine ⟨_, rfl, ?_⟩
  repeat' (first | assumption | with_reducible apply State.takeAs_keeps | with_reducible apply effCalRun_keeps | simp only [keeps_mk] |
      with_reducible refine Keeps.out ?_ | with_reducible refine Keeps.foldl ?_ _ ?_ | with_reducible refine Keeps.ite ?_ ?_ |
      intro _ _ _ | split | dsimp only)

theorem State.serveRequests_keeps (h : Keeps q n m s) (y : Nat) (start : Nat) (changed : Bool) :
    Keeps q n m (State.serveRequests s y start changed) := by
  unfold State.serveRequests
  repeat' (first | assumption | with_reducible apply State.outcome_keeps | simp only [keeps_modCal, keeps_mk] |
      with_reducible refine Keeps.out ?_ | with_reducible refine Keeps.foldl ?_ _ ?_ | with_reducible refine Keeps.ite ?_ ?_ |
      intro _ _ _ | split | dsimp only)

theorem State.startPass_keeps (h : Keeps q n m s)  :
    Keeps q n m (State.startPass s) := by
  unfold State.startPass
  repeat' (first | assumption | simp only [keeps_modCal, keeps_mk] | with_reducible refine Keeps.out ?_ |
      with_reducible refine Keeps.foldl ?_ _ ?_ | with_reducible refine Keeps.ite ?_ ?_ | intro _ _ _ | split | dsimp only)

theorem execRotationPass_keeps (h : Keeps q n m s) (ts : Nat) :
    ∃ t, execRotationPass ts s = .next t ∧ Keeps q n m t := by
  unfold execRotationPass
  refine ⟨_, rfl, ?_⟩
  repeat' (first | assumption | with_reducible apply State.upto_keeps | with_reducible apply State.startPass_keeps |
      simp only [keeps_mk] | with_reducible refine Keeps.out ?_ | with_reducible refine Keeps.foldl ?_ _ ?_ |
      with_reducible refine Keeps.ite ?_ ?_ | intro _ _ _ | split | dsimp only)

theorem State.endPass_keeps (h : Keeps q n m s)  :
    Keeps q n m (State.endPass s) := by
  unfold State.endPass
  repeat' (first | assumption | simp only [keeps_modCal, keeps_mk] | with_reducible refine Keeps.out ?_ |
      with_reducible refine Keeps.foldl ?_ _ ?_ | with_reducible refine Keeps.ite ?_ ?_ | intro _ _ _ | split | dsimp only)

theorem execYelmCalibrationStart_keeps (h : Keeps q n m s) (ts : Nat) (yelm : Nat) :
    ∃ t, execYelmCalibrationStart ts yelm s = .next t ∧ Keeps q n m t := by
  unfold execYelmCalibrationStart
  refine ⟨_, rfl, ?_⟩
  repeat' (first | assumption | with_reducible apply State.upto_keeps | simp only [keeps_modCal, keeps_modYelm, keeps_mk] |
      with_reducible refine Keeps.out ?_ | with_reducible refine Keeps.foldl ?_ _ ?_ | with_reducible refine Keeps.ite ?_ ?_ |
      intro _ _ _ | split | dsimp only)

theorem execYelmCalibrationEnd_keeps (h : Keeps q n m s) (ts : Nat) (yelm : Nat) (found : List TapFound) :
    ∃ t, execYelmCalibrationEnd ts yelm found s = .next t ∧ Keeps q n m t := by
  unfold execYelmCalibrationEnd
  refine ⟨_, rfl, ?_⟩
  repeat' (first | assumption | with_reducible apply State.upto_keeps | with_reducible apply State.pumpAllTiles_keeps |
      with_reducible apply State.serveRequests_keeps | with_reducible apply State.endPass_keeps |
      simp only [keeps_modCal, keeps_modYelm, keeps_mk] | with_reducible refine Keeps.out ?_ |
      with_reducible refine Keeps.foldl ?_ _ ?_ | with_reducible refine Keeps.ite ?_ ?_ | intro _ _ _ | split | dsimp only)

theorem execCalStoreWriteDone_keeps (h : Keeps q n m s) (ts : Nat) (yelm : Nat) :
    ∃ t, execCalStoreWriteDone ts yelm s = .next t ∧ Keeps q n m t := by
  unfold execCalStoreWriteDone
  refine ⟨_, rfl, ?_⟩
  repeat' (first | assumption | with_reducible apply State.upto_keeps | with_reducible apply State.serveRequests_keeps |
      with_reducible apply State.endPass_keeps | simp only [keeps_modCal, keeps_modYelm, keeps_mk] | with_reducible refine Keeps.out ?_ |
      with_reducible refine Keeps.foldl ?_ _ ?_ | with_reducible refine Keeps.ite ?_ ?_ | intro _ _ _ | split | dsimp only)

theorem effCalTableRead_keeps (h : Keeps q n m s) (c : Cmd) :
    Keeps q n m (effCalTableRead s c).1 := by
  unfold effCalTableRead
  repeat' (first | assumption | simp only [keeps_mk] | with_reducible refine Keeps.out ?_ | with_reducible refine Keeps.foldl ?_ _ ?_ |
      with_reducible refine Keeps.ite ?_ ?_ | intro _ _ _ | split | dsimp only)

theorem execCalTableRead_keeps (h : Keeps q n m s) (p : Packet) :
    ∃ t, execCalTableRead p s = .next t ∧ Keeps q n m t := by
  unfold execCalTableRead
  refine ⟨_, rfl, ?_⟩
  repeat' (first | assumption | with_reducible apply State.takeAs_keeps | with_reducible apply effCalTableRead_keeps |
      simp only [keeps_mk] | with_reducible refine Keeps.out ?_ | with_reducible refine Keeps.foldl ?_ _ ?_ |
      with_reducible refine Keeps.ite ?_ ?_ | intro _ _ _ | split | dsimp only)

end Sys2Proof.Machine
end

