-- ==== Sys2Proof/Laws/KeepsPower.lean ====
section
/-! SUPPORT. Power, temperature, the sentinel, keys and attestation, records and test packs. One lemma for every operation: it keeps Keeps. -/
namespace Sys2Proof.Machine
set_option Elab.async false
set_option linter.all false
set_option linter.unusedTactic false
set_option linter.unreachableTactic false
set_option linter.unusedSimpArgs false
variable {q : List Instr} {n m : Nat} {s : State}

/-! ### Power -/

theorem State.noticeAll_keeps (h : Keeps q n m s) (op : Nat) (pay : List Byte) :
    Keeps q n m (State.noticeAll s op pay) := by
  unfold State.noticeAll
  repeat' (first | assumption | with_reducible apply State.notice_keeps | simp only [keeps_mk] | with_reducible refine Keeps.out ?_ |
      with_reducible refine Keeps.foldl ?_ _ ?_ | with_reducible refine Keeps.ite ?_ ?_ | intro _ _ _ | split | dsimp only)

theorem State.syncPins_keeps (h : Keeps q n m s)  :
    Keeps q n m (State.syncPins s) := by
  unfold State.syncPins
  repeat' (first | assumption | simp only [keeps_mk] | with_reducible refine Keeps.out ?_ | with_reducible refine Keeps.foldl ?_ _ ?_ |
      with_reducible refine Keeps.ite ?_ ?_ | intro _ _ _ | split | dsimp only)

theorem effPwrCapSet_keeps (h : Keeps q n m s) (c : Cmd) :
    Keeps q n m (effPwrCapSet s c).1 := by
  unfold effPwrCapSet
  repeat' (first | assumption | with_reducible apply State.noticeAll_keeps | simp only [keeps_modPwr, keeps_mk] |
      with_reducible refine Keeps.out ?_ | with_reducible refine Keeps.foldl ?_ _ ?_ | with_reducible refine Keeps.ite ?_ ?_ |
      intro _ _ _ | split | dsimp only)

theorem execPwrCapSet_keeps (h : Keeps q n m s) (p : Packet) :
    ∃ t, execPwrCapSet p s = .next t ∧ Keeps q n m t := by
  unfold execPwrCapSet
  refine ⟨_, rfl, ?_⟩
  repeat' (first | assumption | with_reducible apply State.takeAs_keeps | with_reducible apply effPwrCapSet_keeps |
      simp only [keeps_mk] | with_reducible refine Keeps.out ?_ | with_reducible refine Keeps.foldl ?_ _ ?_ |
      with_reducible refine Keeps.ite ?_ ?_ | intro _ _ _ | split | dsimp only)

theorem State.powerSample_keeps (h : Keeps q n m s) (rails : List RailSample) :
    Keeps q n m (State.powerSample s rails) := by
  unfold State.powerSample
  repeat' (first | assumption | simp only [keeps_modPwr, keeps_mk] | with_reducible refine Keeps.out ?_ |
      with_reducible refine Keeps.foldl ?_ _ ?_ | with_reducible refine Keeps.ite ?_ ?_ | intro _ _ _ | split | dsimp only)

theorem execGovernorTick_keeps (h : Keeps q n m s) (ts : Nat) (rails : List RailSample) :
    ∃ t, execGovernorTick ts rails s = .next t ∧ Keeps q n m t := by
  unfold execGovernorTick
  refine ⟨_, rfl, ?_⟩
  repeat' (first | assumption | with_reducible apply State.upto_keeps | with_reducible apply State.powerSample_keeps |
      simp only [keeps_modPwr, keeps_mk] | with_reducible refine Keeps.out ?_ | with_reducible refine Keeps.foldl ?_ _ ?_ |
      with_reducible refine Keeps.ite ?_ ?_ | intro _ _ _ | split | dsimp only)

theorem effThermSet_keeps (h : Keeps q n m s) (c : Cmd) :
    Keeps q n m (effThermSet s c).1 := by
  unfold effThermSet
  repeat' (first | assumption | simp only [keeps_modPwr, keeps_mk] | with_reducible refine Keeps.out ?_ |
      with_reducible refine Keeps.foldl ?_ _ ?_ | with_reducible refine Keeps.ite ?_ ?_ | intro _ _ _ | split | dsimp only)

theorem execThermSet_keeps (h : Keeps q n m s) (p : Packet) :
    ∃ t, execThermSet p s = .next t ∧ Keeps q n m t := by
  unfold execThermSet
  refine ⟨_, rfl, ?_⟩
  repeat' (first | assumption | with_reducible apply State.takeAs_keeps | with_reducible apply effThermSet_keeps | simp only [keeps_mk] |
      with_reducible refine Keeps.out ?_ | with_reducible refine Keeps.foldl ?_ _ ?_ | with_reducible refine Keeps.ite ?_ ?_ |
      intro _ _ _ | split | dsimp only)

theorem State.thermalNotice_keeps (h : Keeps q n m s) (die : Nat) (level : Nat) (temp : Int) (deadline : Nat) :
    Keeps q n m (State.thermalNotice s die level temp deadline) := by
  unfold State.thermalNotice
  repeat' (first | assumption | with_reducible apply State.noticeAll_keeps | simp only [keeps_mk] | with_reducible refine Keeps.out ?_ |
      with_reducible refine Keeps.foldl ?_ _ ?_ | with_reducible refine Keeps.ite ?_ ?_ | intro _ _ _ | split | dsimp only)

theorem State.warnSample_keeps (h : Keeps q n m s) (die : Nat) (temp : Int) :
    Keeps q n m (State.warnSample s die temp) := by
  unfold State.warnSample
  repeat' (first | assumption | with_reducible apply State.thermalNotice_keeps | simp only [keeps_modPwr, keeps_mk] |
      with_reducible refine Keeps.out ?_ | with_reducible refine Keeps.foldl ?_ _ ?_ | with_reducible refine Keeps.ite ?_ ?_ |
      intro _ _ _ | split | dsimp only)

theorem State.throttleSample_keeps (h : Keeps q n m s) (die : Nat) (temp : Int) :
    Keeps q n m (State.throttleSample s die temp) := by
  unfold State.throttleSample
  repeat' (first | assumption | with_reducible apply State.thermalNotice_keeps | simp only [keeps_modPwr, keeps_mk] |
      with_reducible refine Keeps.out ?_ | with_reducible refine Keeps.foldl ?_ _ ?_ | with_reducible refine Keeps.ite ?_ ?_ |
      intro _ _ _ | split | dsimp only)

theorem State.powerBoundary_keeps (h : Keeps q n m s)  :
    Keeps q n m (State.powerBoundary s) := by
  unfold State.powerBoundary
  repeat' (first | assumption | simp only [keeps_modPwr, keeps_mk] | with_reducible refine Keeps.out ?_ |
      with_reducible refine Keeps.foldl ?_ _ ?_ | with_reducible refine Keeps.ite ?_ ?_ | intro _ _ _ | split | dsimp only)

theorem State.rebornVis_keeps (h : Keeps q n m s)  :
    Keeps q n m (State.rebornVis s) := by
  unfold State.rebornVis
  repeat' (first | assumption | simp only [keeps_mk] | with_reducible refine Keeps.out ?_ | with_reducible refine Keeps.foldl ?_ _ ?_ |
      with_reducible refine Keeps.ite ?_ ?_ | intro _ _ _ | split | dsimp only)

theorem State.darken_keeps (h : Keeps q n m s)  :
    Keeps q n m (State.darken s) := by
  unfold State.darken
  repeat' (first | assumption | with_reducible apply State.linksGone_keeps | with_reducible apply State.rebornVis_keeps |
      simp only [keeps_mk] | with_reducible refine Keeps.out ?_ | exact memWf_nil | with_reducible refine Keeps.withMem ?_ ?_ |
      with_reducible refine Keeps.mem (q := q) (n := n) (m := m) ?_ | with_reducible refine Keeps.foldl ?_ _ ?_ |
      with_reducible refine Keeps.ite ?_ ?_ | intro _ _ _ | split | dsimp only)

theorem State.recordMargins_keeps (h : Keeps q n m s)  :
    Keeps q n m (State.recordMargins s) := by
  unfold State.recordMargins
  repeat' (first | assumption | simp only [keeps_modMon, keeps_mk] | with_reducible refine Keeps.out ?_ |
      with_reducible refine Keeps.foldl ?_ _ ?_ | with_reducible refine Keeps.ite ?_ ?_ | intro _ _ _ | split | dsimp only)

theorem State.checkpoint_keeps (h : Keeps q n m s)  :
    Keeps q n m (State.checkpoint s) := by
  unfold State.checkpoint
  repeat' (first | assumption | simp only [keeps_mk] | with_reducible refine Keeps.out ?_ | with_reducible refine Keeps.foldl ?_ _ ?_ |
      with_reducible refine Keeps.ite ?_ ?_ | intro _ _ _ | split | dsimp only)

theorem State.enterDoze_keeps (h : Keeps q n m s)  :
    Keeps q n m (State.enterDoze s) := by
  unfold State.enterDoze
  repeat' (first | assumption | with_reducible apply State.sourceLost_keeps | with_reducible apply State.recordMargins_keeps |
      simp only [keeps_modPwr, keeps_mk] | with_reducible refine Keeps.out ?_ | with_reducible refine Keeps.foldl ?_ _ ?_ |
      with_reducible refine Keeps.ite ?_ ?_ | intro _ _ _ | split | dsimp only)

theorem State.enterDeep_keeps (h : Keeps q n m s) : Keeps q n m s.enterDeep := by
  unfold State.enterDeep
  have h1 : Keeps q n m ((List.range 2).foldl (fun s p => s.sourceLost p) s) := Keeps.foldl (fun s p hs => State.sourceLost_keeps hs p) _ h
  generalize (List.range 2).foldl (fun s p => s.sourceLost p) s = u at h1
  have h2 := State.darken_keeps ((keeps_modPwr (fun b => b.asleep 3)).2 (State.recordMargins_keeps h1))
  dsimp only
  generalize State.darken _ = w at h2
  exact ⟨h2.queue, h2.now, h2.svn, h2.mem⟩

theorem State.wakeBy_keeps (h : Keeps q n m s) (cause : Nat) : Keeps q n m (s.wakeBy cause) := by
  unfold State.wakeBy
  dsimp only
  generalize hu : s.modPwr _ = u
  have h2 : Keeps q n m u := hu ▸ (keeps_modPwr _).2 h
  refine Keeps.ite h (Keeps.ite (Keeps.ite ((keeps_modPwr _).2 h2) h2) (Keeps.ite h2 ?_))
  exact (keeps_mk ..).2 ((keeps_modMon _).2 ((keeps_modPwr _).2 h2)).out

theorem State.shutdown_keeps (h : Keeps q n m s) (die : Nat) (t16 : Int) :
    Keeps q n m (State.shutdown s die t16) := by
  unfold State.shutdown
  repeat' (first | assumption | with_reducible apply State.syncPins_keeps | with_reducible apply State.enterDeep_keeps |
      simp only [keeps_modPwr, keeps_modMon, keeps_mk] | with_reducible refine Keeps.out ?_ | with_reducible refine Keeps.foldl ?_ _ ?_ |
      with_reducible refine Keeps.ite ?_ ?_ | intro _ _ _ | split | dsimp only)

theorem execThermalSample_keeps (h : Keeps q n m s) (ts : Nat) (die : Nat) (temp : Int) :
    ∃ t, execThermalSample ts die temp s = .next t ∧ Keeps q n m t := by
  unfold execThermalSample
  refine ⟨_, rfl, ?_⟩
  repeat' (first | assumption | with_reducible apply State.upto_keeps | with_reducible apply State.syncPins_keeps |
      with_reducible apply State.warnSample_keeps | with_reducible apply State.throttleSample_keeps |
      with_reducible apply State.shutdown_keeps | simp only [keeps_modPwr, keeps_mk] | with_reducible refine Keeps.out ?_ |
      with_reducible refine Keeps.foldl ?_ _ ?_ | with_reducible refine Keeps.ite ?_ ?_ | intro _ _ _ | split | dsimp only)

theorem effPwrStateSet_keeps (h : Keeps q n m s) (c : Cmd) :
    Keeps q n m (effPwrStateSet s c).1 := by
  unfold effPwrStateSet
  repeat' (first | assumption | simp only [keeps_modPwr, keeps_mk] | with_reducible refine Keeps.out ?_ |
      with_reducible refine Keeps.foldl ?_ _ ?_ | with_reducible refine Keeps.ite ?_ ?_ | intro _ _ _ | split | dsimp only)

theorem execPwrStateSet_keeps (h : Keeps q n m s) (p : Packet) :
    ∃ t, execPwrStateSet p s = .next t ∧ Keeps q n m t := by
  unfold execPwrStateSet
  refine ⟨_, rfl, ?_⟩
  repeat' (first | assumption | with_reducible apply State.takeAs_keeps | with_reducible apply effPwrStateSet_keeps |
      simp only [keeps_mk] | with_reducible refine Keeps.out ?_ | with_reducible refine Keeps.foldl ?_ _ ?_ |
      with_reducible refine Keeps.ite ?_ ?_ | intro _ _ _ | split | dsimp only)

theorem State.replyEntry_keeps (h : Keeps q n m s) (st : Nat) (e : Nat) :
    Keeps q n m (State.replyEntry s st e) := by
  unfold State.replyEntry
  repeat' (first | assumption | with_reducible apply State.outcome_keeps | with_reducible apply State.sendOne_keeps |
      simp only [keeps_mk] | with_reducible refine Keeps.out ?_ | with_reducible refine Keeps.foldl ?_ _ ?_ |
      with_reducible refine Keeps.ite ?_ ?_ | intro _ _ _ | split | dsimp only)

theorem execPowerStateEntry_keeps (h : Keeps q n m s) (ts : Nat) :
    ∃ t, execPowerStateEntry ts s = .next t ∧ Keeps q n m t := by
  unfold execPowerStateEntry
  refine ⟨_, rfl, ?_⟩
  repeat' (first | assumption | with_reducible apply State.upto_keeps | with_reducible apply State.syncPins_keeps |
      with_reducible apply State.checkpoint_keeps | with_reducible apply State.enterDoze_keeps |
      with_reducible apply State.enterDeep_keeps | with_reducible apply State.wakeBy_keeps |
      with_reducible apply State.replyEntry_keeps | simp only [keeps_modPwr, keeps_mk] | with_reducible refine Keeps.out ?_ |
      with_reducible refine Keeps.foldl ?_ _ ?_ | with_reducible refine Keeps.ite ?_ ?_ | intro _ _ _ | split | dsimp only)

theorem execPbrakeAssert_keeps (h : Keeps q n m s) (ts : Nat) :
    ∃ t, execPbrakeAssert ts s = .next t ∧ Keeps q n m t := by
  unfold execPbrakeAssert
  refine ⟨_, rfl, ?_⟩
  repeat' (first | assumption | with_reducible apply State.upto_keeps | simp only [keeps_modPwr, keeps_mk] |
      with_reducible refine Keeps.out ?_ | with_reducible refine Keeps.foldl ?_ _ ?_ | with_reducible refine Keeps.ite ?_ ?_ |
      intro _ _ _ | split | dsimp only)

theorem execPbrakeRelease_keeps (h : Keeps q n m s) (ts : Nat) :
    ∃ t, execPbrakeRelease ts s = .next t ∧ Keeps q n m t := by
  unfold execPbrakeRelease
  refine ⟨_, rfl, ?_⟩
  repeat' (first | assumption | with_reducible apply State.upto_keeps | with_reducible apply State.pumpAllTiles_keeps |
      simp only [keeps_modPwr, keeps_mk] | with_reducible refine Keeps.out ?_ | with_reducible refine Keeps.foldl ?_ _ ?_ |
      with_reducible refine Keeps.ite ?_ ?_ | intro _ _ _ | split | dsimp only)

theorem execBrakeRampTick_keeps (h : Keeps q n m s) (ts : Nat) :
    ∃ t, execBrakeRampTick ts s = .next t ∧ Keeps q n m t := by
  unfold execBrakeRampTick
  refine ⟨_, rfl, ?_⟩
  repeat' (first | assumption | with_reducible apply State.upto_keeps | simp only [keeps_modPwr, keeps_mk] |
      with_reducible refine Keeps.out ?_ | with_reducible refine Keeps.foldl ?_ _ ?_ | with_reducible refine Keeps.ite ?_ ?_ |
      intro _ _ _ | split | dsimp only)

theorem execRefLoss_keeps (h : Keeps q n m s) (ts : Nat) (ref : Nat) :
    ∃ t, execRefLoss ts ref s = .next t ∧ Keeps q n m t := by
  unfold execRefLoss
  refine ⟨_, rfl, ?_⟩
  repeat' (first | assumption | with_reducible apply State.upto_keeps | with_reducible apply State.dropLink_keeps |
      simp only [keeps_mk] | with_reducible refine Keeps.out ?_ | with_reducible refine Keeps.foldl ?_ _ ?_ |
      with_reducible refine Keeps.ite ?_ ?_ | intro _ _ _ | split | dsimp only)

theorem execRefReturn_keeps (h : Keeps q n m s) (ts : Nat) (ref : Nat) :
    ∃ t, execRefReturn ts ref s = .next t ∧ Keeps q n m t := by
  unfold execRefReturn
  refine ⟨_, rfl, ?_⟩
  repeat' (first | assumption | with_reducible apply State.upto_keeps | simp only [keeps_mk] | with_reducible refine Keeps.out ?_ |
      with_reducible refine Keeps.foldl ?_ _ ?_ | with_reducible refine Keeps.ite ?_ ?_ | intro _ _ _ | split | dsimp only)

theorem State.clockBoundary_keeps (h : Keeps q n m s)  :
    Keeps q n m (State.clockBoundary s) := by
  unfold State.clockBoundary
  repeat' (first | assumption | simp only [keeps_mk] | with_reducible refine Keeps.out ?_ | with_reducible refine Keeps.foldl ?_ _ ?_ |
      with_reducible refine Keeps.ite ?_ ?_ | intro _ _ _ | split | dsimp only)

/-! ### Sentinel -/

theorem State.seqCfgSet_keeps (h : Keeps q n m s) (vi : Nat) (e : Nat) (value : Nat) :
    Keeps q n m (State.seqCfgSet s vi e value) := by
  unfold State.seqCfgSet
  repeat' (first | assumption | simp only [keeps_modMon, keeps_mk] | with_reducible refine Keeps.out ?_ |
      with_reducible refine Keeps.foldl ?_ _ ?_ | with_reducible refine Keeps.ite ?_ ?_ | intro _ _ _ | split | dsimp only)

theorem execSeqCfgWrite_keeps (h : Keeps q n m s) (ts : Nat) (vi : Nat) (entry : Nat) (value : Reg) :
    ∃ t, execSeqCfgWrite ts vi entry value s = .next t ∧ Keeps q n m t := by
  unfold execSeqCfgWrite
  refine ⟨_, rfl, ?_⟩
  repeat' (first | assumption | with_reducible apply State.upto_keeps | with_reducible apply State.seqCfgSet_keeps |
      simp only [keeps_mk] | with_reducible refine Keeps.out ?_ | with_reducible refine Keeps.foldl ?_ _ ?_ |
      with_reducible refine Keeps.ite ?_ ?_ | intro _ _ _ | split | dsimp only)

theorem State.filterSample_keeps (h : Keeps q n m s) (i : Nat) (tau : Nat) (x : Rat) :
    Keeps q n m (State.filterSample s i tau x) := by
  unfold State.filterSample
  repeat' (first | assumption | simp only [keeps_modMon, keeps_mk] | with_reducible refine Keeps.out ?_ |
      with_reducible refine Keeps.foldl ?_ _ ?_ | with_reducible refine Keeps.ite ?_ ?_ | intro _ _ _ | split | dsimp only)

theorem State.dieDecides_keeps (h : Keeps q n m s) (die : Nat) :
    Keeps q n m (State.dieDecides s die) := by
  unfold State.dieDecides
  repeat' (first | assumption | with_reducible apply State.syncPins_keeps | with_reducible apply State.shutdown_keeps |
      simp only [keeps_modMon, keeps_mk] | with_reducible refine Keeps.out ?_ | with_reducible refine Keeps.foldl ?_ _ ?_ |
      with_reducible refine Keeps.ite ?_ ?_ | intro _ _ _ | split | dsimp only)

theorem State.refDecides_keeps (h : Keeps q n m s) (bad : Bool) :
    Keeps q n m (State.refDecides s bad) := by
  unfold State.refDecides
  repeat' (first | assumption | simp only [keeps_modCal, keeps_mk] | with_reducible refine Keeps.out ?_ |
      with_reducible refine Keeps.foldl ?_ _ ?_ | with_reducible refine Keeps.ite ?_ ?_ | intro _ _ _ | split | dsimp only)

theorem State.rdacDecides_keeps (h : Keeps q n m s) (course : Nat) (uv : Int) :
    Keeps q n m (State.rdacDecides s course uv) := by
  unfold State.rdacDecides
  repeat' (first | assumption | simp only [keeps_modCal, keeps_mk] | with_reducible refine Keeps.out ?_ |
      with_reducible refine Keeps.foldl ?_ _ ?_ | with_reducible refine Keeps.ite ?_ ?_ | intro _ _ _ | split | dsimp only)

theorem State.railDecides_keeps (h : Keeps q n m s) (i : Nat) (before : Option F32) :
    Keeps q n m (State.railDecides s i before) := by
  unfold State.railDecides
  repeat' (first | assumption | simp only [keeps_modMon, keeps_mk] | with_reducible refine Keeps.out ?_ |
      with_reducible refine Keeps.foldl ?_ _ ?_ | with_reducible refine Keeps.ite ?_ ?_ | intro _ _ _ | split | dsimp only)

theorem State.dose_keeps (h : Keeps q n m s)  :
    Keeps q n m (State.dose s) := by
  unfold State.dose
  repeat' (first | assumption | simp only [keeps_modMon, keeps_mk] | with_reducible refine Keeps.out ?_ |
      with_reducible refine Keeps.foldl ?_ _ ?_ | with_reducible refine Keeps.ite ?_ ?_ | intro _ _ _ | split | dsimp only)

theorem State.maintain_keeps (h : Keeps q n m s)  :
    Keeps q n m (State.maintain s) := by
  unfold State.maintain
  repeat' (first | assumption | with_reducible apply State.wakeBy_keeps | simp only [keeps_modPwr, keeps_modMon, keeps_mk] |
      with_reducible refine Keeps.out ?_ | with_reducible refine Keeps.foldl ?_ _ ?_ | with_reducible refine Keeps.ite ?_ ?_ |
      intro _ _ _ | split | dsimp only)

theorem State.maintBoundary_keeps (h : Keeps q n m s)  :
    Keeps q n m (State.maintBoundary s) := by
  unfold State.maintBoundary
  repeat' (first | assumption | simp only [keeps_modPwr, keeps_modMon, keeps_mk] | with_reducible refine Keeps.out ?_ |
      with_reducible refine Keeps.foldl ?_ _ ?_ | with_reducible refine Keeps.ite ?_ ?_ | intro _ _ _ | split | dsimp only)

theorem State.endRound_keeps (h : Keeps q n m s)  :
    Keeps q n m (State.endRound s) := by
  unfold State.endRound
  repeat' (first | assumption | with_reducible apply State.dose_keeps | with_reducible apply State.maintain_keeps |
      simp only [keeps_modMon, keeps_mk] | with_reducible refine Keeps.out ?_ | with_reducible refine Keeps.foldl ?_ _ ?_ |
      with_reducible refine Keeps.ite ?_ ?_ | intro _ _ _ | split | dsimp only)

theorem execMonitorConversion_keeps (h : Keeps q n m s) (ts : Nat) (entry : Nat) (sub : Nat) (ratios : List Int) (settled : Bool) :
    ∃ t, execMonitorConversion ts entry sub ratios settled s = .next t ∧ Keeps q n m t := by
  unfold execMonitorConversion
  refine ⟨_, rfl, ?_⟩
  repeat' (first | assumption | with_reducible apply State.upto_keeps | with_reducible apply State.filterSample_keeps |
      with_reducible apply State.dieDecides_keeps | with_reducible apply State.refDecides_keeps |
      with_reducible apply State.rdacDecides_keeps | with_reducible apply State.railDecides_keeps |
      with_reducible apply State.endRound_keeps | simp only [keeps_modMon, keeps_modCal, keeps_mk] | with_reducible refine Keeps.out ?_ |
      with_reducible refine Keeps.foldl ?_ _ ?_ | with_reducible refine Keeps.ite ?_ ?_ | intro _ _ _ | split | dsimp only)

theorem execRefSettleTimeout_keeps (h : Keeps q n m s) (ts : Nat) :
    ∃ t, execRefSettleTimeout ts s = .next t ∧ Keeps q n m t := by
  unfold execRefSettleTimeout
  refine ⟨_, rfl, ?_⟩
  repeat' (first | assumption | with_reducible apply State.upto_keeps | simp only [keeps_modMon, keeps_mk] |
      with_reducible refine Keeps.out ?_ | with_reducible refine Keeps.foldl ?_ _ ?_ | with_reducible refine Keeps.ite ?_ ?_ |
      intro _ _ _ | split | dsimp only)

theorem execWakeL_keeps (h : Keeps q n m s) (ts : Nat) :
    ∃ t, execWakeL ts s = .next t ∧ Keeps q n m t := by
  unfold execWakeL
  refine ⟨_, rfl, ?_⟩
  repeat' (first | assumption | with_reducible apply State.upto_keeps | with_reducible apply State.wakeBy_keeps | simp only [keeps_mk] |
      with_reducible refine Keeps.out ?_ | with_reducible refine Keeps.foldl ?_ _ ?_ | with_reducible refine Keeps.ite ?_ ?_ |
      intro _ _ _ | split | dsimp only)

theorem execWakeAt_keeps (h : Keeps q n m s) (ts : Nat) :
    ∃ t, execWakeAt ts s = .next t ∧ Keeps q n m t := by
  unfold execWakeAt
  refine ⟨_, rfl, ?_⟩
  repeat' (first | assumption | with_reducible apply State.upto_keeps | with_reducible apply State.wakeBy_keeps |
      simp only [keeps_modMon, keeps_mk] | with_reducible refine Keeps.out ?_ | with_reducible refine Keeps.foldl ?_ _ ?_ |
      with_reducible refine Keeps.ite ?_ ?_ | intro _ _ _ | split | dsimp only)

theorem State.armWake_keeps (h : Keeps q n m s) (vi : Nat) (hi : Nat) :
    Keeps q n m (State.armWake s vi hi) := by
  unfold State.armWake
  repeat' (first | assumption | with_reducible apply State.wakeBy_keeps | simp only [keeps_modMon, keeps_mk] |
      with_reducible refine Keeps.out ?_ | with_reducible refine Keeps.foldl ?_ _ ?_ | with_reducible refine Keeps.ite ?_ ?_ |
      intro _ _ _ | split | dsimp only)

theorem execWakeAtHiWrite_keeps (h : Keeps q n m s) (ts : Nat) (vi : Nat) (value : Reg) :
    ∃ t, execWakeAtHiWrite ts vi value s = .next t ∧ Keeps q n m t := by
  unfold execWakeAtHiWrite
  refine ⟨_, rfl, ?_⟩
  repeat' (first | assumption | with_reducible apply State.upto_keeps | with_reducible apply State.armWake_keeps | simp only [keeps_mk] |
      with_reducible refine Keeps.out ?_ | with_reducible refine Keeps.foldl ?_ _ ?_ | with_reducible refine Keeps.ite ?_ ?_ |
      intro _ _ _ | split | dsimp only)

theorem execWakePacket_keeps (h : Keeps q n m s) (f : Frame) : ∃ t, execWakePacket f s = .next t ∧ Keeps q n m t := by
  unfold execWakePacket
  refine ⟨_, rfl, ?_⟩
  have h2 := State.upto_keeps h f.ts
  have hg := State.rxPort_keeps h2 f.lport f.rx
  revert h2 hg
  generalize s.upto f.ts = u
  intro h2 hg
  refine Keeps.ite h2 ?_
  generalize u.rxPort f.lport f.rx = r at hg
  obtain ⟨b, w⟩ := r
  replace hg : Keeps q n m w := hg
  cases b with
  | false => exact hg
  | true =>
    dsimp only
    generalize f.sloson = fs
    cases fs with
    | some p =>
      with_reducible refine Keeps.ite hg (Keeps.ite ?_ ?_)
      · exact State.wakeBy_keeps ((keeps_modMon _).2 hg) _
      · exact State.wakeBy_keeps ((keeps_modMon _).2 hg) _
    | none =>
      generalize f.body = fb
      cases fb with
      | resolveRequest t =>
        dsimp only
        split
        · exact hg
        · exact State.rxOn_keeps hg ..
      | echo =>
        dsimp only
        split
        · exact hg
        · split
          · exact hg
          · exact State.rxOn_keeps hg ..
      | resolveReply _ => exact hg
      | roceRequest _ => exact hg
      | other _ => exact hg

/-! ### Security -/

theorem SecBlk.boot_minSvn (b : SecBlk) : b.boot.minSvn = b.minSvn := by
  unfold SecBlk.boot
  dsimp only
  split
  · rfl
  · split <;> rfl

theorem SecBlk.trialFails_minSvn (b : SecBlk) : b.trialFails.minSvn = b.minSvn := by
  unfold SecBlk.trialFails
  split
  · rfl
  · split <;> rfl

theorem State.restoreMac_keeps (h : Keeps q n m s)  :
    Keeps q n m (State.restoreMac s) := by
  unfold State.restoreMac
  repeat' (first | assumption | simp only [keeps_modSec, keeps_mk] | with_reducible refine Keeps.out ?_ |
      with_reducible refine Keeps.foldl ?_ _ ?_ | with_reducible refine Keeps.ite ?_ ?_ | intro _ _ _ | split | dsimp only)

theorem State.svnCommit_keeps (h : Keeps q n m s) (vi value : Nat) : Keeps q n m (s.svnCommit vi value) := by
  unfold State.svnCommit
  split
  · exact h
  · exact (keeps_modSec _).2 ⟨h.queue, h.now, le_trans h.svn (le_max_left _ _), h.mem⟩

theorem execSvnCommit_keeps (h : Keeps q n m s) (ts : Nat) (vi : Nat) (value : Reg) :
    ∃ t, execSvnCommit ts vi value s = .next t ∧ Keeps q n m t := by
  unfold execSvnCommit
  refine ⟨_, rfl, ?_⟩
  repeat' (first | assumption | with_reducible apply State.upto_keeps | with_reducible apply State.svnCommit_keeps |
      simp only [keeps_mk] | with_reducible refine Keeps.out ?_ | with_reducible refine Keeps.foldl ?_ _ ?_ |
      with_reducible refine Keeps.ite ?_ ?_ | intro _ _ _ | split | dsimp only)

theorem effFwUpdate_keeps (h : Keeps q n m s) (c : Cmd) :
    Keeps q n m (effFwUpdate s c).1 := by
  unfold effFwUpdate
  repeat' (first | assumption | with_reducible apply State.rdma_keeps | simp only [keeps_modEntry, keeps_mk] |
      with_reducible refine Keeps.out ?_ | with_reducible refine Keeps.foldl ?_ _ ?_ | with_reducible refine Keeps.ite ?_ ?_ |
      intro _ _ _ | split | dsimp only)

theorem execFwUpdate_keeps (h : Keeps q n m s) (p : Packet) :
    ∃ t, execFwUpdate p s = .next t ∧ Keeps q n m t := by
  unfold execFwUpdate
  refine ⟨_, rfl, ?_⟩
  repeat' (first | assumption | with_reducible apply State.takeAs_keeps | with_reducible apply effFwUpdate_keeps | simp only [keeps_mk] |
      with_reducible refine Keeps.out ?_ | with_reducible refine Keeps.foldl ?_ _ ?_ | with_reducible refine Keeps.ite ?_ ?_ |
      intro _ _ _ | split | dsimp only)

theorem State.fwNext_keeps (h : Keeps q n m s)  :
    Keeps q n m (State.fwNext s) := by
  unfold State.fwNext
  repeat' (first | assumption | with_reducible apply State.runEffect_keeps | with_reducible apply effFwUpdate_keeps |
      simp only [keeps_mk] | with_reducible refine Keeps.out ?_ | with_reducible refine Keeps.foldl ?_ _ ?_ |
      with_reducible refine Keeps.ite ?_ ?_ | intro _ _ _ | split | dsimp only)

theorem State.fwArrives_keeps (h : Keeps q n m s) (e : Nat) (data : Option (List Byte)) :
    Keeps q n m (State.fwArrives s e data) := by
  unfold State.fwArrives
  repeat' (first | assumption | with_reducible apply State.outcome_keeps | with_reducible apply State.fwNext_keeps |
      simp only [keeps_modSec, keeps_mk] | simp only [SecBlk.boot_minSvn] | with_reducible refine Keeps.out ?_ |
      with_reducible refine Keeps.foldl ?_ _ ?_ | with_reducible refine Keeps.ite ?_ ?_ | intro _ _ _ | split | dsimp only)

theorem execFwSlotWritten_keeps (h : Keeps q n m s) (ts : Nat) (verified : Bool) :
    ∃ t, execFwSlotWritten ts verified s = .next t ∧ Keeps q n m t := by
  unfold execFwSlotWritten
  refine ⟨_, rfl, ?_⟩
  repeat' (first | assumption | with_reducible apply State.upto_keeps | with_reducible apply State.outcome_keeps |
      with_reducible apply State.fwNext_keeps | simp only [keeps_modSec, keeps_mk] | with_reducible refine Keeps.out ?_ |
      with_reducible refine Keeps.foldl ?_ _ ?_ | with_reducible refine Keeps.ite ?_ ?_ | intro _ _ _ | split | dsimp only)

theorem State.opkeyCommit_keeps (h : Keeps q n m s) (vi : Nat) (value : Nat) :
    Keeps q n m (State.opkeyCommit s vi value) := by
  unfold State.opkeyCommit
  repeat' (first | assumption | simp only [keeps_modSec, keeps_mk] | with_reducible refine Keeps.out ?_ |
      with_reducible refine Keeps.foldl ?_ _ ?_ | with_reducible refine Keeps.ite ?_ ?_ | intro _ _ _ | split | dsimp only)

theorem State.opkeyRevoke_keeps (h : Keeps q n m s) (vi : Nat) (value : Nat) :
    Keeps q n m (State.opkeyRevoke s vi value) := by
  unfold State.opkeyRevoke
  repeat' (first | assumption | simp only [keeps_modErr, keeps_modSec, keeps_mk] | with_reducible refine Keeps.out ?_ |
      with_reducible refine Keeps.foldl ?_ _ ?_ | with_reducible refine Keeps.ite ?_ ?_ | intro _ _ _ | split | dsimp only)

theorem execOpkeyCommit_keeps (h : Keeps q n m s) (ts : Nat) (vi : Nat) (value : Reg) :
    ∃ t, execOpkeyCommit ts vi value s = .next t ∧ Keeps q n m t := by
  unfold execOpkeyCommit
  refine ⟨_, rfl, ?_⟩
  repeat' (first | assumption | with_reducible apply State.upto_keeps | with_reducible apply State.opkeyCommit_keeps |
      simp only [keeps_mk] | with_reducible refine Keeps.out ?_ | with_reducible refine Keeps.foldl ?_ _ ?_ |
      with_reducible refine Keeps.ite ?_ ?_ | intro _ _ _ | split | dsimp only)

theorem execOpkeyRevoke_keeps (h : Keeps q n m s) (ts : Nat) (vi : Nat) (value : Reg) :
    ∃ t, execOpkeyRevoke ts vi value s = .next t ∧ Keeps q n m t := by
  unfold execOpkeyRevoke
  refine ⟨_, rfl, ?_⟩
  repeat' (first | assumption | with_reducible apply State.upto_keeps | with_reducible apply State.opkeyRevoke_keeps |
      simp only [keeps_mk] | with_reducible refine Keeps.out ?_ | with_reducible refine Keeps.foldl ?_ _ ?_ |
      with_reducible refine Keeps.ite ?_ ?_ | intro _ _ _ | split | dsimp only)

theorem State.signBatch_keeps (h : Keeps q n m s) (stamp : Nat) (b0 : List (Nat × Nat × List Byte)) :
    Keeps q n m (State.signBatch s stamp b0) := by
  unfold State.signBatch
  repeat' (first | assumption | with_reducible apply State.outcome_keeps | simp only [keeps_modSec, keeps_mk] |
      with_reducible refine Keeps.out ?_ | with_reducible refine Keeps.foldl ?_ _ ?_ | with_reducible refine Keeps.ite ?_ ?_ |
      intro _ _ _ | split | dsimp only)

theorem State.closeBatch_keeps (h : Keeps q n m s)  :
    Keeps q n m (State.closeBatch s) := by
  unfold State.closeBatch
  repeat' (first | assumption | with_reducible apply State.signBatch_keeps | simp only [keeps_modSec, keeps_mk] |
      with_reducible refine Keeps.out ?_ | with_reducible refine Keeps.foldl ?_ _ ?_ | with_reducible refine Keeps.ite ?_ ?_ |
      intro _ _ _ | split | dsimp only)

theorem effAttestGet_keeps (h : Keeps q n m s) (c : Cmd) :
    Keeps q n m (effAttestGet s c).1 := by
  unfold effAttestGet
  repeat' (first | assumption | with_reducible apply State.closeBatch_keeps | simp only [keeps_modEntry, keeps_modSec, keeps_mk] |
      with_reducible refine Keeps.out ?_ | with_reducible refine Keeps.foldl ?_ _ ?_ | with_reducible refine Keeps.ite ?_ ?_ |
      intro _ _ _ | split | dsimp only)

theorem execAttestGet_keeps (h : Keeps q n m s) (p : Packet) :
    ∃ t, execAttestGet p s = .next t ∧ Keeps q n m t := by
  unfold execAttestGet
  refine ⟨_, rfl, ?_⟩
  repeat' (first | assumption | with_reducible apply State.takeAs_keeps | with_reducible apply effAttestGet_keeps |
      simp only [keeps_mk] | with_reducible refine Keeps.out ?_ | with_reducible refine Keeps.foldl ?_ _ ?_ |
      with_reducible refine Keeps.ite ?_ ?_ | intro _ _ _ | split | dsimp only)

theorem execAttestBatchClose_keeps (h : Keeps q n m s) (ts : Nat) :
    ∃ t, execAttestBatchClose ts s = .next t ∧ Keeps q n m t := by
  unfold execAttestBatchClose
  refine ⟨_, rfl, ?_⟩
  repeat' (first | assumption | with_reducible apply State.upto_keeps | with_reducible apply State.closeBatch_keeps |
      simp only [keeps_mk] | with_reducible refine Keeps.out ?_ | with_reducible refine Keeps.foldl ?_ _ ?_ |
      with_reducible refine Keeps.ite ?_ ?_ | intro _ _ _ | split | dsimp only)

theorem execLmsTreeDerived_keeps (h : Keeps q n m s) (ts : Nat) :
    ∃ t, execLmsTreeDerived ts s = .next t ∧ Keeps q n m t := by
  unfold execLmsTreeDerived
  refine ⟨_, rfl, ?_⟩
  repeat' (first | assumption | with_reducible apply State.upto_keeps | with_reducible apply State.signBatch_keeps |
      simp only [keeps_modSec, keeps_mk] | with_reducible refine Keeps.out ?_ | with_reducible refine Keeps.foldl ?_ _ ?_ |
      with_reducible refine Keeps.ite ?_ ?_ | intro _ _ _ | split | dsimp only)

theorem State.dropBatches_keeps (h : Keeps q n m s) (vis : List Nat) :
    Keeps q n m (State.dropBatches s vis) := by
  unfold State.dropBatches
  repeat' (first | assumption | simp only [keeps_modSec, keeps_mk] | with_reducible refine Keeps.out ?_ |
      with_reducible refine Keeps.foldl ?_ _ ?_ | with_reducible refine Keeps.ite ?_ ?_ | intro _ _ _ | split | dsimp only)

theorem effMacsecKey_keeps (h : Keeps q n m s) (c : Cmd) :
    Keeps q n m (effMacsecKey s c).1 := by
  unfold effMacsecKey
  repeat' (first | assumption | simp only [keeps_modSec, keeps_mk] | with_reducible refine Keeps.out ?_ |
      with_reducible refine Keeps.foldl ?_ _ ?_ | with_reducible refine Keeps.ite ?_ ?_ | intro _ _ _ | split | dsimp only)

theorem execMacsecKey_keeps (h : Keeps q n m s) (p : Packet) :
    ∃ t, execMacsecKey p s = .next t ∧ Keeps q n m t := by
  unfold execMacsecKey
  refine ⟨_, rfl, ?_⟩
  repeat' (first | assumption | with_reducible apply State.takeAs_keeps | with_reducible apply effMacsecKey_keeps |
      simp only [keeps_mk] | with_reducible refine Keeps.out ?_ | with_reducible refine Keeps.foldl ?_ _ ?_ |
      with_reducible refine Keeps.ite ?_ ?_ | intro _ _ _ | split | dsimp only)

theorem State.macClear_keeps (h : Keeps q n m s) (lp : Nat) :
    Keeps q n m (State.macClear s lp) := by
  unfold State.macClear
  repeat' (first | assumption | simp only [keeps_modSec, keeps_mk] | with_reducible refine Keeps.out ?_ |
      with_reducible refine Keeps.foldl ?_ _ ?_ | with_reducible refine Keeps.ite ?_ ?_ | intro _ _ _ | split | dsimp only)

theorem State.msOff_keeps (h : Keeps q n m s) (vi : Nat) (value : Nat) :
    Keeps q n m (State.msOff s vi value) := by
  unfold State.msOff
  repeat' (first | assumption | with_reducible apply State.macClear_keeps | simp only [keeps_mk] | with_reducible refine Keeps.out ?_ |
      with_reducible refine Keeps.foldl ?_ _ ?_ | with_reducible refine Keeps.ite ?_ ?_ | intro _ _ _ | split | dsimp only)

theorem execMsOff_keeps (h : Keeps q n m s) (ts : Nat) (vi : Nat) (value : Reg) :
    ∃ t, execMsOff ts vi value s = .next t ∧ Keeps q n m t := by
  unfold execMsOff
  refine ⟨_, rfl, ?_⟩
  repeat' (first | assumption | with_reducible apply State.upto_keeps | with_reducible apply State.msOff_keeps | simp only [keeps_mk] |
      with_reducible refine Keeps.out ?_ | with_reducible refine Keeps.foldl ?_ _ ?_ | with_reducible refine Keeps.ite ?_ ?_ |
      intro _ _ _ | split | dsimp only)

/-! ### Recovery -/

theorem State.modRing_keeps (h : Keeps q n m s) (v : Nat) (f : Ring → Ring) :
    Keeps q n m (State.modRing s v f) := by
  unfold State.modRing
  repeat' (first | assumption | simp only [keeps_modVi, keeps_modErr, keeps_mk] | with_reducible refine Keeps.out ?_ |
      with_reducible refine Keeps.foldl ?_ _ ?_ | with_reducible refine Keeps.ite ?_ ?_ | intro _ _ _ | split | dsimp only)

theorem effErrDrain_keeps (h : Keeps q n m s) (c : Cmd) :
    Keeps q n m (effErrDrain s c).1 := by
  unfold effErrDrain
  repeat' (first | assumption | with_reducible apply State.take_keeps | with_reducible apply State.modRing_keeps | simp only [keeps_mk] |
      with_reducible refine Keeps.out ?_ | with_reducible refine Keeps.foldl ?_ _ ?_ | with_reducible refine Keeps.ite ?_ ?_ |
      intro _ _ _ | split | dsimp only)

theorem execErrDrain_keeps (h : Keeps q n m s) (p : Packet) :
    ∃ t, execErrDrain p s = .next t ∧ Keeps q n m t := by
  unfold execErrDrain
  refine ⟨_, rfl, ?_⟩
  repeat' (first | assumption | with_reducible apply State.takeAs_keeps | with_reducible apply effErrDrain_keeps | simp only [keeps_mk] |
      with_reducible refine Keeps.out ?_ | with_reducible refine Keeps.foldl ?_ _ ?_ | with_reducible refine Keeps.ite ?_ ?_ |
      intro _ _ _ | split | dsimp only)

theorem effCperExport_keeps (h : Keeps q n m s) (c : Cmd) :
    Keeps q n m (effCperExport s c).1 := by
  unfold effCperExport
  repeat' (first | assumption | with_reducible apply State.rdma_keeps | simp only [keeps_modEntry, keeps_mk] |
      with_reducible refine Keeps.out ?_ | with_reducible refine Keeps.foldl ?_ _ ?_ | with_reducible refine Keeps.ite ?_ ?_ |
      intro _ _ _ | split | dsimp only)

theorem execCperExport_keeps (h : Keeps q n m s) (p : Packet) :
    ∃ t, execCperExport p s = .next t ∧ Keeps q n m t := by
  unfold execCperExport
  refine ⟨_, rfl, ?_⟩
  repeat' (first | assumption | with_reducible apply State.takeAs_keeps | with_reducible apply effCperExport_keeps |
      simp only [keeps_mk] | with_reducible refine Keeps.out ?_ | with_reducible refine Keeps.foldl ?_ _ ?_ |
      with_reducible refine Keeps.ite ?_ ?_ | intro _ _ _ | split | dsimp only)

theorem State.cperEnds_keeps (h : Keeps q n m s) (v : Nat) (e : Nat) (ok : Bool) :
    Keeps q n m (State.cperEnds s v e ok) := by
  unfold State.cperEnds
  repeat' (first | assumption | with_reducible apply State.outcome_keeps | simp only [keeps_mk] | with_reducible refine Keeps.out ?_ |
      with_reducible refine Keeps.foldl ?_ _ ?_ | with_reducible refine Keeps.ite ?_ ?_ | intro _ _ _ | split | dsimp only)

theorem effTestPackLoad_keeps (h : Keeps q n m s) (c : Cmd) : Keeps q n m (effTestPackLoad s c).1 := by
  unfold effTestPackLoad
  split
  · exact h
  · dsimp only
    split
    · exact h
    · split
      · exact h
      · split
        · exact h
        · exact State.rdma_keeps ((keeps_modEntry ..).2 h) ..

theorem execTestPackLoad_keeps (h : Keeps q n m s) (p : Packet) :
    ∃ t, execTestPackLoad p s = .next t ∧ Keeps q n m t := by
  unfold execTestPackLoad
  refine ⟨_, rfl, ?_⟩
  repeat' (first | assumption | with_reducible apply State.takeAs_keeps | with_reducible apply effTestPackLoad_keeps |
      simp only [keeps_mk] | with_reducible refine Keeps.out ?_ | with_reducible refine Keeps.foldl ?_ _ ?_ |
      with_reducible refine Keeps.ite ?_ ?_ | intro _ _ _ | split | dsimp only)

theorem State.packArrives_keeps (h : Keeps q n m s) (v : Nat) (e : Nat) (data : Option (List Byte)) :
    Keeps q n m (State.packArrives s v e data) := by
  unfold State.packArrives
  repeat' (first | assumption | with_reducible apply State.outcome_keeps | simp only [keeps_modErr, keeps_mk] |
      with_reducible refine Keeps.out ?_ | with_reducible refine Keeps.foldl ?_ _ ?_ | with_reducible refine Keeps.ite ?_ ?_ |
      intro _ _ _ | split | dsimp only)

theorem State.endRuns_keeps (h : Keeps q n m s)  :
    Keeps q n m (State.endRuns s) := by
  unfold State.endRuns
  repeat' (first | assumption | with_reducible apply State.outcome_keeps | simp only [keeps_modErr, keeps_mk] |
      with_reducible refine Keeps.out ?_ | with_reducible refine Keeps.foldl ?_ _ ?_ | with_reducible refine Keeps.ite ?_ ?_ |
      intro _ _ _ | split | dsimp only)

theorem effTestPackRun_keeps (h : Keeps q n m s) (c : Cmd) :
    Keeps q n m (effTestPackRun s c).1 := by
  unfold effTestPackRun
  repeat' (first | assumption | with_reducible apply State.endRuns_keeps | simp only [keeps_modErr, keeps_modEntry, keeps_mk] |
      with_reducible refine Keeps.out ?_ | with_reducible refine Keeps.foldl ?_ _ ?_ | with_reducible refine Keeps.ite ?_ ?_ |
      intro _ _ _ | split | dsimp only)

theorem execTestPackRun_keeps (h : Keeps q n m s) (p : Packet) :
    ∃ t, execTestPackRun p s = .next t ∧ Keeps q n m t := by
  unfold execTestPackRun
  refine ⟨_, rfl, ?_⟩
  repeat' (first | assumption | with_reducible apply State.takeAs_keeps | with_reducible apply effTestPackRun_keeps |
      simp only [keeps_mk] | with_reducible refine Keeps.out ?_ | with_reducible refine Keeps.foldl ?_ _ ?_ |
      with_reducible refine Keeps.ite ?_ ?_ | intro _ _ _ | split | dsimp only)

theorem State.testFails_keeps (h : Keeps q n m s) (pack : Nat) (y : Nat) (a : Nat) (r : TestResult) :
    Keeps q n m (State.testFails s pack y a r) := by
  unfold State.testFails
  repeat' (first | assumption | with_reducible apply State.report_keeps | with_reducible apply State.suspect_keeps |
      with_reducible apply State.requestCal_keeps | simp only [keeps_mk] | with_reducible refine Keeps.out ?_ |
      with_reducible refine Keeps.foldl ?_ _ ?_ | with_reducible refine Keeps.ite ?_ ?_ | intro _ _ _ | split | dsimp only)

theorem execTestEnd_keeps (h : Keeps q n m s) (ts : Nat) (pack : Nat) (yelm : Nat) (array : Nat) (result : TestResult) :
    ∃ t, execTestEnd ts pack yelm array result s = .next t ∧ Keeps q n m t := by
  unfold execTestEnd
  refine ⟨_, rfl, ?_⟩
  repeat' (first | assumption | with_reducible apply State.upto_keeps | with_reducible apply State.endRuns_keeps |
      with_reducible apply State.testFails_keeps | simp only [keeps_modErr, keeps_mk] | with_reducible refine Keeps.out ?_ |
      with_reducible refine Keeps.foldl ?_ _ ?_ | with_reducible refine Keeps.ite ?_ ?_ | intro _ _ _ | split | dsimp only)

end Sys2Proof.Machine
end

