-- ==== Sys2Proof/Laws/KeepsPairs.lean ====
section
/-! SUPPORT. Pairs, RDMA, and the registers. One lemma for every operation: it keeps Keeps. -/
namespace Sys2Proof.Machine
set_option Elab.async false
set_option linter.all false
set_option linter.unusedTactic false
set_option linter.unreachableTactic false
set_option linter.unusedSimpArgs false
variable {q : List Instr} {n m : Nat} {s : State}

/-! ### Pairs -/

theorem State.mirrorDrop_keeps (h : Keeps q n m s) (v : Nat) {w : State} (hw : s.mirrorDrop v = some w) : Keeps q n m w := by
  unfold State.mirrorDrop at hw
  split at hw
  · cases hw
  · dsimp only at hw
    split at hw
    · cases hw
    · cases hw
      exact (keeps_modPair ..).2 (State.dropIndex_keeps h ..)

theorem State.mirrorPair_keeps (h : Keeps q n m s) (v mE mS fuel : Nat) {b : BlockPair} {w : State}
    (hr : s.mirrorPair v mE mS fuel = some (b, w)) : Keeps q n m w := by
  induction fuel generalizing s with
  | zero => cases hr
  | succ fuel ih =>
    unfold State.mirrorPair at hr
    split at hr
    · cases hr; exact (keeps_modVi ..).2 h
    · split at hr
      · cases hr
      · rename_i e; exact ih (State.mirrorDrop_keeps h v e) hr

theorem State.noteDrop_keeps (h : Keeps q n m s) (v : Nat) (q₁ : Nat) (index : Nat) (first : Nat) (last : Nat) :
    Keeps q n m (State.noteDrop s v q₁ index first last) := by
  unfold State.noteDrop
  repeat' (first | assumption | simp only [keeps_modVi, keeps_mk] | with_reducible refine Keeps.out ?_ |
      with_reducible refine Keeps.foldl ?_ _ ?_ | with_reducible refine Keeps.ite ?_ ?_ | intro _ _ _ | split | dsimp only)

theorem State.putRows_keeps (h : Keeps q n m s) (v : Nat) (l : KvLayer) (sq : Seq) (b : BlockPair) (rows : List (Nat × KvRow)) :
    Keeps q n m (s.putRows v l sq b rows) :=
  (keeps_mk ..).2 (h.withMem (memWf_foldl (fun _ _ hm => memWf_writeRows hm ..) _ h.mem))

theorem State.linkDropped_keeps (h : Keeps q n m s) (v : Nat) (q₁ : Nat) (layer : Nat) (idx : Nat) (fill : Nat) (mE : Nat) (mS : Nat) (sq : Seq) :
    Keeps q n m (State.linkDropped s v q₁ layer idx fill mE mS sq) := by
  unfold State.linkDropped
  repeat' (first | assumption | with_reducible apply State.linkPage_keeps | with_reducible apply State.noteDrop_keeps |
      simp only [keeps_modPair, keeps_mk] | with_reducible refine Keeps.out ?_ | with_reducible refine Keeps.foldl ?_ _ ?_ |
      with_reducible refine Keeps.ite ?_ ?_ | intro _ _ _ | split | dsimp only)

theorem State.mirrorPage_keeps (h : Keeps q n m s) (v : Nat) (q₁ : Nat) (layer : Nat) (l : KvLayer) (sq : Seq) (p : Nat) (p2 : Nat) (idx : Nat) (kv : List (Nat × Nat × List (List Byte) × List (List Byte))) :
    Keeps q n m (State.mirrorPage s v q₁ layer l sq p p2 idx kv) := by
  unfold State.mirrorPage
  repeat' (first | assumption | with_reducible apply State.unref_keeps | with_reducible apply State.linkPage_keeps |
      with_reducible apply State.unlinkPage_keeps | with_reducible apply State.noteDrop_keeps |
      with_reducible apply State.putRows_keeps | with_reducible apply State.linkDropped_keeps |
      with_reducible refine State.mirrorPair_keeps ?_ _ _ _ _ (by assumption) | simp only [keeps_modVi, keeps_mk] |
      with_reducible refine Keeps.out ?_ | exact memWf_nil | with_reducible refine Keeps.withMem ?_ ?_ |
      with_reducible apply memWf_writeRows | with_reducible refine memWf_foldl ?_ _ ?_ |
      with_reducible refine Keeps.mem (q := q) (n := n) (m := m) ?_ | with_reducible refine Keeps.foldl ?_ _ ?_ |
      with_reducible refine Keeps.ite ?_ ?_ | intro _ _ _ | split | dsimp only)

theorem State.mirrorCommit_keeps (h : Keeps q n m s) (v : Nat) (q₁ : Nat) (stamp : Nat) (p : Nat) (kept : Nat) (tokens : List Nat) (kv : List (Nat × Nat × List (List Byte) × List (List Byte))) :
    Keeps q n m (State.mirrorCommit s v q₁ stamp p kept tokens kv) := by
  unfold State.mirrorCommit
  repeat' (first | assumption | with_reducible apply State.releaseRing_keeps | with_reducible apply State.mirrorPage_keeps |
      simp only [keeps_modVi, keeps_mk] | with_reducible refine Keeps.out ?_ | with_reducible refine Keeps.foldl ?_ _ ?_ |
      with_reducible refine Keeps.ite ?_ ?_ | intro _ _ _ | split | dsimp only)

theorem State.mirrorApply_keeps (h : Keeps q n m s) (v : Nat) (r : MirrorRecord) :
    Keeps q n m (State.mirrorApply s v r) := by
  unfold State.mirrorApply
  repeat' (first | assumption | with_reducible apply State.outcome_keeps | with_reducible apply State.freeSeq_keeps |
      with_reducible apply State.sharePages_keeps | with_reducible apply State.mirrorCommit_keeps |
      simp only [keeps_modVi, keeps_modPair, keeps_modImg, keeps_mk] | with_reducible refine Keeps.out ?_ |
      with_reducible refine Keeps.foldl ?_ _ ?_ | with_reducible refine Keeps.ite ?_ ?_ | intro _ _ _ | split | dsimp only)

theorem State.sendAck_keeps (h : Keeps q n m s) (v : Nat) :
    Keeps q n m (State.sendAck s v) := by
  unfold State.sendAck
  repeat' (first | assumption | with_reducible apply State.pairSend_keeps | simp only [keeps_mk] | with_reducible refine Keeps.out ?_ |
      with_reducible refine Keeps.foldl ?_ _ ?_ | with_reducible refine Keeps.ite ?_ ?_ | intro _ _ _ | split | dsimp only)

theorem State.clearMirror_keeps (h : Keeps q n m s) (v : Nat) :
    Keeps q n m (State.clearMirror s v) := by
  unfold State.clearMirror
  repeat' (first | assumption | with_reducible apply State.freeSeq_keeps | simp only [keeps_modVi, keeps_modPair, keeps_mk] |
      with_reducible refine Keeps.out ?_ | with_reducible refine Keeps.foldl ?_ _ ?_ | with_reducible refine Keeps.ite ?_ ?_ |
      intro _ _ _ | split | dsimp only)

theorem State.mirrorGroup_keeps (h : Keeps q n m s) (v : Nat) (g : List MirrorRecord) (seqno : Nat) (stamp : Nat) :
    Keeps q n m (State.mirrorGroup s v g seqno stamp) := by
  unfold State.mirrorGroup
  repeat' (first | assumption | with_reducible apply State.mirrorApply_keeps | with_reducible apply State.sendAck_keeps |
      simp only [keeps_modPair, keeps_mk] | with_reducible refine Keeps.out ?_ | with_reducible refine Keeps.foldl ?_ _ ?_ |
      with_reducible refine Keeps.ite ?_ ?_ | intro _ _ _ | split | dsimp only)

theorem execMirrorRecord_keeps (h : Keeps q n m s) (ts : Nat) (vi : Nat) (r : MirrorRecord) :
    ∃ t, execMirrorRecord ts vi r s = .next t ∧ Keeps q n m t := by
  unfold execMirrorRecord
  refine ⟨_, rfl, ?_⟩
  repeat' (first | assumption | with_reducible apply State.upto_keeps | with_reducible apply State.pairSend_keeps |
      with_reducible apply State.clearMirror_keeps | with_reducible apply State.mirrorGroup_keeps | simp only [keeps_modPair, keeps_mk] |
      with_reducible refine Keeps.out ?_ | with_reducible refine Keeps.foldl ?_ _ ?_ | with_reducible refine Keeps.ite ?_ ?_ |
      intro _ _ _ | split | dsimp only)

theorem effPairJoin_keeps (h : Keeps q n m s) (c : Cmd) :
    Keeps q n m (effPairJoin s c).1 := by
  unfold effPairJoin
  repeat' (first | assumption | with_reducible apply State.rdma_keeps | simp only [keeps_modEntry, keeps_modPair, keeps_mk] |
      with_reducible refine Keeps.out ?_ | with_reducible refine Keeps.foldl ?_ _ ?_ | with_reducible refine Keeps.ite ?_ ?_ |
      intro _ _ _ | split | dsimp only)

theorem execPairJoin_keeps (h : Keeps q n m s) (p : Packet) :
    ∃ t, execPairJoin p s = .next t ∧ Keeps q n m t := by
  unfold execPairJoin
  refine ⟨_, rfl, ?_⟩
  repeat' (first | assumption | with_reducible apply State.takeAs_keeps | with_reducible apply effPairJoin_keeps | simp only [keeps_mk] |
      with_reducible refine Keeps.out ?_ | with_reducible refine Keeps.foldl ?_ _ ?_ | with_reducible refine Keeps.ite ?_ ?_ |
      intro _ _ _ | split | dsimp only)

theorem State.joinFails_keeps (h : Keeps q n m s) (v : Nat) :
    Keeps q n m (State.joinFails s v) := by
  unfold State.joinFails
  repeat' (first | assumption | with_reducible apply State.outcome_keeps | simp only [keeps_modPair, keeps_mk] |
      with_reducible refine Keeps.out ?_ | with_reducible refine Keeps.foldl ?_ _ ?_ | with_reducible refine Keeps.ite ?_ ?_ |
      intro _ _ _ | split | dsimp only)

theorem State.pairChecked_keeps (h : Keeps q n m s) (v : Nat) (f : Option PeerFacts) :
    Keeps q n m (State.pairChecked s v f) := by
  unfold State.pairChecked
  repeat' (first | assumption | with_reducible apply State.joinFails_keeps | simp only [keeps_modPair, keeps_mk] |
      with_reducible refine Keeps.out ?_ | with_reducible refine Keeps.foldl ?_ _ ?_ | with_reducible refine Keeps.ite ?_ ?_ |
      intro _ _ _ | split | dsimp only)

theorem execJoinTimeout_keeps (h : Keeps q n m s) (ts : Nat) (vi : Nat) :
    ∃ t, execJoinTimeout ts vi s = .next t ∧ Keeps q n m t := by
  unfold execJoinTimeout
  refine ⟨_, rfl, ?_⟩
  repeat' (first | assumption | with_reducible apply State.upto_keeps | with_reducible apply State.joinFails_keeps |
      simp only [keeps_modPair, keeps_mk] | with_reducible refine Keeps.out ?_ | with_reducible refine Keeps.foldl ?_ _ ?_ |
      with_reducible refine Keeps.ite ?_ ?_ | intro _ _ _ | split | dsimp only)

theorem State.snapshotSeq_keeps (h : Keeps q n m s) (v : Nat) (x : Vi) (before : List (Nat × Seq)) (q₁ : Nat) (sq : Seq) :
    Keeps q n m (State.snapshotSeq s v x before q₁ sq) := by
  unfold State.snapshotSeq
  repeat' (first | assumption | with_reducible apply State.emit_keeps | simp only [keeps_mk] | with_reducible refine Keeps.out ?_ |
      with_reducible refine Keeps.foldl ?_ _ ?_ | with_reducible refine Keeps.ite ?_ ?_ | intro _ _ _ | split | dsimp only)

theorem State.snapshotEntry_keeps (h : Keeps q n m s) (v : Nat) (e : Entry) :
    Keeps q n m (State.snapshotEntry s v e) := by
  unfold State.snapshotEntry
  repeat' (first | assumption | with_reducible apply State.emit_keeps | with_reducible apply State.outcome_keeps | simp only [keeps_mk] |
      with_reducible refine Keeps.out ?_ | with_reducible refine Keeps.foldl ?_ _ ?_ | with_reducible refine Keeps.ite ?_ ?_ |
      intro _ _ _ | split | dsimp only)

theorem State.snapshot_keeps (h : Keeps q n m s) (v : Nat) :
    Keeps q n m (State.snapshot s v) := by
  unfold State.snapshot
  repeat' (first | assumption | with_reducible apply State.emit_keeps | with_reducible apply State.take_keeps |
      with_reducible apply State.emitQueues_keeps | with_reducible apply State.emitImage_keeps |
      with_reducible apply State.emitSet_keeps | with_reducible apply State.snapshotSeq_keeps |
      with_reducible apply State.snapshotEntry_keeps | simp only [keeps_modPair, keeps_mk] | with_reducible refine Keeps.out ?_ |
      with_reducible refine Keeps.foldl ?_ _ ?_ | with_reducible refine Keeps.ite ?_ ?_ | intro _ _ _ | split | dsimp only)

theorem State.pairBoundary_keeps (h : Keeps q n m s)  :
    Keeps q n m (State.pairBoundary s) := by
  unfold State.pairBoundary
  repeat' (first | assumption | with_reducible apply State.emit_keeps | with_reducible apply State.snapshot_keeps |
      simp only [keeps_mk] | with_reducible refine Keeps.out ?_ | with_reducible refine Keeps.foldl ?_ _ ?_ |
      with_reducible refine Keeps.ite ?_ ?_ | intro _ _ _ | split | dsimp only)

theorem State.releaseAccepted_keeps (h : Keeps q n m s) (v : Nat) (rs : List PairRec) :
    Keeps q n m (State.releaseAccepted s v rs) := by
  unfold State.releaseAccepted
  repeat' (first | assumption | with_reducible apply State.accepts_keeps | simp only [keeps_mk] | with_reducible refine Keeps.out ?_ |
      with_reducible refine Keeps.foldl ?_ _ ?_ | with_reducible refine Keeps.ite ?_ ?_ | intro _ _ _ | split | dsimp only)

theorem execAck_keeps (h : Keeps q n m s) (ts : Nat) (vi : Nat) (seqno : Nat) (stamp : Nat) :
    ∃ t, execAck ts vi seqno stamp s = .next t ∧ Keeps q n m t := by
  unfold execAck
  refine ⟨_, rfl, ?_⟩
  repeat' (first | assumption | with_reducible apply State.upto_keeps | with_reducible apply State.pairSend_keeps |
      with_reducible apply State.outcome_keeps | with_reducible apply State.pairReturns_keeps |
      with_reducible apply State.releaseAccepted_keeps | simp only [keeps_modPair, keeps_mk] | with_reducible refine Keeps.out ?_ |
      with_reducible refine Keeps.foldl ?_ _ ?_ | with_reducible refine Keeps.ite ?_ ?_ | intro _ _ _ | split | dsimp only)

theorem execKeepalive_keeps (h : Keeps q n m s) (ts : Nat) (vi : Nat) :
    ∃ t, execKeepalive ts vi s = .next t ∧ Keeps q n m t := by
  unfold execKeepalive
  refine ⟨_, rfl, ?_⟩
  repeat' (first | assumption | with_reducible apply State.upto_keeps | with_reducible apply State.emit_keeps | simp only [keeps_mk] |
      with_reducible refine Keeps.out ?_ | with_reducible refine Keeps.foldl ?_ _ ?_ | with_reducible refine Keeps.ite ?_ ?_ |
      intro _ _ _ | split | dsimp only)

theorem State.fence_keeps (h : Keeps q n m s) (v : Nat) (byLease : Bool) :
    Keeps q n m (State.fence s v byLease) := by
  unfold State.fence
  repeat' (first | assumption | simp only [keeps_modPair, keeps_mk] | with_reducible refine Keeps.out ?_ |
      with_reducible refine Keeps.foldl ?_ _ ?_ | with_reducible refine Keeps.ite ?_ ?_ | intro _ _ _ | split | dsimp only)

theorem execLeaseExpiry_keeps (h : Keeps q n m s) (ts : Nat) (vi : Nat) :
    ∃ t, execLeaseExpiry ts vi s = .next t ∧ Keeps q n m t := by
  unfold execLeaseExpiry
  refine ⟨_, rfl, ?_⟩
  repeat' (first | assumption | with_reducible apply State.upto_keeps | with_reducible apply State.fence_keeps | simp only [keeps_mk] |
      with_reducible refine Keeps.out ?_ | with_reducible refine Keeps.foldl ?_ _ ?_ | with_reducible refine Keeps.ite ?_ ?_ |
      intro _ _ _ | split | dsimp only)

theorem State.releaseAll_keeps (h : Keeps q n m s) (v : Nat) :
    Keeps q n m (State.releaseAll s v) := by
  unfold State.releaseAll
  repeat' (first | assumption | with_reducible apply State.accepts_keeps | simp only [keeps_mk] | with_reducible refine Keeps.out ?_ |
      with_reducible refine Keeps.foldl ?_ _ ?_ | with_reducible refine Keeps.ite ?_ ?_ | intro _ _ _ | split | dsimp only)

theorem effPairUnmirrored_keeps (h : Keeps q n m s) (c : Cmd) :
    Keeps q n m (effPairUnmirrored s c).1 := by
  unfold effPairUnmirrored
  repeat' (first | assumption | with_reducible apply State.rdma_keeps | with_reducible apply State.pairReturns_keeps |
      with_reducible apply State.joinFails_keeps | with_reducible apply State.releaseAll_keeps | simp only [keeps_modPair, keeps_mk] |
      with_reducible refine Keeps.out ?_ | with_reducible refine Keeps.foldl ?_ _ ?_ | with_reducible refine Keeps.ite ?_ ?_ |
      intro _ _ _ | split | dsimp only)

theorem execPairUnmirrored_keeps (h : Keeps q n m s) (p : Packet) :
    ∃ t, execPairUnmirrored p s = .next t ∧ Keeps q n m t := by
  unfold execPairUnmirrored
  refine ⟨_, rfl, ?_⟩
  repeat' (first | assumption | with_reducible apply State.takeAs_keeps | with_reducible apply effPairUnmirrored_keeps |
      simp only [keeps_mk] | with_reducible refine Keeps.out ?_ | with_reducible refine Keeps.foldl ?_ _ ?_ |
      with_reducible refine Keeps.ite ?_ ?_ | intro _ _ _ | split | dsimp only)

theorem State.takeover_keeps (h : Keeps q n m s) (v : Nat) :
    Keeps q n m (State.takeover s v) := by
  unfold State.takeover
  repeat' (first | assumption | with_reducible apply State.outcome_keeps | with_reducible apply State.takeovers_keeps |
      simp only [keeps_setVi, keeps_modPair, keeps_mk] | with_reducible refine Keeps.out ?_ | with_reducible refine Keeps.foldl ?_ _ ?_ |
      with_reducible refine Keeps.ite ?_ ?_ | intro _ _ _ | split | dsimp only)

theorem effPairTakeover_keeps (h : Keeps q n m s) (c : Cmd) :
    Keeps q n m (effPairTakeover s c).1 := by
  unfold effPairTakeover
  repeat' (first | assumption | with_reducible apply State.pairSend_keeps | with_reducible apply State.takeover_keeps |
      simp only [keeps_modEntry, keeps_modPair, keeps_mk] | with_reducible refine Keeps.out ?_ |
      with_reducible refine Keeps.foldl ?_ _ ?_ | with_reducible refine Keeps.ite ?_ ?_ | intro _ _ _ | split | dsimp only)

theorem execPairTakeover_keeps (h : Keeps q n m s) (p : Packet) :
    ∃ t, execPairTakeover p s = .next t ∧ Keeps q n m t := by
  unfold execPairTakeover
  refine ⟨_, rfl, ?_⟩
  repeat' (first | assumption | with_reducible apply State.takeAs_keeps | with_reducible apply effPairTakeover_keeps |
      simp only [keeps_mk] | with_reducible refine Keeps.out ?_ | with_reducible refine Keeps.foldl ?_ _ ?_ |
      with_reducible refine Keeps.ite ?_ ?_ | intro _ _ _ | split | dsimp only)

theorem State.takeovers_keeps (h : Keeps q n m s)  :
    Keeps q n m (State.takeovers s) := by
  unfold State.takeovers
  repeat' (first | assumption | with_reducible apply State.takeover_keeps | simp only [keeps_mk] | with_reducible refine Keeps.out ?_ |
      with_reducible refine Keeps.foldl ?_ _ ?_ | with_reducible refine Keeps.ite ?_ ?_ | intro _ _ _ | split | dsimp only)

theorem execDeposeTimeout_keeps (h : Keeps q n m s) (ts : Nat) (vi : Nat) :
    ∃ t, execDeposeTimeout ts vi s = .next t ∧ Keeps q n m t := by
  unfold execDeposeTimeout
  refine ⟨_, rfl, ?_⟩
  repeat' (first | assumption | with_reducible apply State.upto_keeps | with_reducible apply State.takeover_keeps |
      simp only [keeps_mk] | with_reducible refine Keeps.out ?_ | with_reducible refine Keeps.foldl ?_ _ ?_ |
      with_reducible refine Keeps.ite ?_ ?_ | intro _ _ _ | split | dsimp only)

theorem State.enterDeposed_keeps (h : Keeps q n m s) (v : Nat) :
    Keeps q n m (State.enterDeposed s v) := by
  unfold State.enterDeposed
  repeat' (first | assumption | with_reducible apply State.dropStep_keeps | with_reducible apply State.joinFails_keeps |
      simp only [keeps_modVi, keeps_mk] | with_reducible refine Keeps.out ?_ | with_reducible refine Keeps.foldl ?_ _ ?_ |
      with_reducible refine Keeps.ite ?_ ?_ | intro _ _ _ | split | dsimp only)

theorem execDepose_keeps (h : Keeps q n m s) (ts : Nat) (vi : Nat) :
    ∃ t, execDepose ts vi s = .next t ∧ Keeps q n m t := by
  unfold execDepose
  refine ⟨_, rfl, ?_⟩
  repeat' (first | assumption | with_reducible apply State.upto_keeps | with_reducible apply State.pairSend_keeps |
      with_reducible apply State.abandonSteps_keeps | with_reducible apply State.enterDeposed_keeps | simp only [keeps_mk] |
      with_reducible refine Keeps.out ?_ | with_reducible refine Keeps.foldl ?_ _ ?_ | with_reducible refine Keeps.ite ?_ ?_ |
      intro _ _ _ | split | dsimp only)

theorem execDeposed_keeps (h : Keeps q n m s) (ts : Nat) (vi : Nat) :
    ∃ t, execDeposed ts vi s = .next t ∧ Keeps q n m t := by
  unfold execDeposed
  refine ⟨_, rfl, ?_⟩
  repeat' (first | assumption | with_reducible apply State.upto_keeps | with_reducible apply State.report_keeps |
      with_reducible apply State.takeover_keeps | with_reducible apply State.enterDeposed_keeps | simp only [keeps_modPair, keeps_mk] |
      with_reducible refine Keeps.out ?_ | with_reducible refine Keeps.foldl ?_ _ ?_ | with_reducible refine Keeps.ite ?_ ?_ |
      intro _ _ _ | split | dsimp only)

theorem State.unpair_keeps (h : Keeps q n m s) (v : Nat) (x : Vi) :
    Keeps q n m (State.unpair s v x) := by
  unfold State.unpair
  repeat' (first | assumption | with_reducible apply State.clearMirror_keeps | with_reducible apply State.joinFails_keeps |
      with_reducible apply State.releaseAll_keeps | simp only [keeps_modPair, keeps_mk] | with_reducible refine Keeps.out ?_ |
      with_reducible refine Keeps.foldl ?_ _ ?_ | with_reducible refine Keeps.ite ?_ ?_ | intro _ _ _ | split | dsimp only)

theorem effPairLeave_keeps (h : Keeps q n m s) (c : Cmd) :
    Keeps q n m (effPairLeave s c).1 := by
  unfold effPairLeave
  repeat' (first | assumption | with_reducible apply State.pairSend_keeps | with_reducible apply State.unpair_keeps |
      simp only [keeps_mk] | with_reducible refine Keeps.out ?_ | with_reducible refine Keeps.foldl ?_ _ ?_ |
      with_reducible refine Keeps.ite ?_ ?_ | intro _ _ _ | split | dsimp only)

theorem execPairLeave_keeps (h : Keeps q n m s) (p : Packet) :
    ∃ t, execPairLeave p s = .next t ∧ Keeps q n m t := by
  unfold execPairLeave
  refine ⟨_, rfl, ?_⟩
  repeat' (first | assumption | with_reducible apply State.takeAs_keeps | with_reducible apply effPairLeave_keeps |
      simp only [keeps_mk] | with_reducible refine Keeps.out ?_ | with_reducible refine Keeps.foldl ?_ _ ?_ |
      with_reducible refine Keeps.ite ?_ ?_ | intro _ _ _ | split | dsimp only)

theorem execLeave_keeps (h : Keeps q n m s) (ts : Nat) (vi : Nat) :
    ∃ t, execLeave ts vi s = .next t ∧ Keeps q n m t := by
  unfold execLeave
  refine ⟨_, rfl, ?_⟩
  repeat' (first | assumption | with_reducible apply State.upto_keeps | with_reducible apply State.unpair_keeps | simp only [keeps_mk] |
      with_reducible refine Keeps.out ?_ | with_reducible refine Keeps.foldl ?_ _ ?_ | with_reducible refine Keeps.ite ?_ ?_ |
      intro _ _ _ | split | dsimp only)

/-! ### Rdma -/

theorem State.dropXfer_keeps (h : Keeps q n m s) (v : Nat) (rc : Nat) (t : Xfer) :
    Keeps q n m (State.dropXfer s v rc t) := by
  unfold State.dropXfer
  repeat' (first | assumption | with_reducible apply State.pumpReads_keeps | simp only [keeps_modVi, keeps_mk] |
      with_reducible refine Keeps.out ?_ | with_reducible refine Keeps.foldl ?_ _ ?_ | with_reducible refine Keeps.ite ?_ ?_ |
      intro _ _ _ | split | dsimp only)

theorem State.commandXfer_keeps (h : Keeps q n m s) (v : Nat) (e : Nat) (data : Option (List Byte)) :
    Keeps q n m (State.commandXfer s v e data) := by
  unfold State.commandXfer
  repeat' (first | assumption | with_reducible apply State.xferDone_keeps | with_reducible apply State.fwArrives_keeps |
      with_reducible apply State.cperEnds_keeps | with_reducible apply State.packArrives_keeps | simp only [keeps_mk] |
      with_reducible refine Keeps.out ?_ | with_reducible refine Keeps.foldl ?_ _ ?_ | with_reducible refine Keeps.ite ?_ ?_ |
      intro _ _ _ | split | dsimp only)

theorem State.pullFails_keeps (h : Keeps q n m s) (v : Nat) (queue : Nat) (first : Nat) :
    Keeps q n m (State.pullFails s v queue first) := by
  unfold State.pullFails
  repeat' (first | assumption | simp only [keeps_modVi, keeps_mk] | with_reducible refine Keeps.out ?_ |
      with_reducible refine Keeps.foldl ?_ _ ?_ | with_reducible refine Keeps.ite ?_ ?_ | intro _ _ _ | split | dsimp only)

theorem State.fetchLost_keeps (h : Keeps q n m s) (v : Nat) (k : Nat) :
    Keeps q n m (State.fetchLost s v k) := by
  unfold State.fetchLost
  repeat' (first | assumption | with_reducible apply State.report_keeps | with_reducible apply State.releasePage_keeps |
      with_reducible apply State.closeSeq_keeps | simp only [keeps_mk] | with_reducible refine Keeps.out ?_ |
      with_reducible refine Keeps.foldl ?_ _ ?_ | with_reducible refine Keeps.ite ?_ ?_ | intro _ _ _ | split | dsimp only)

theorem State.xferStale_keeps (h : Keeps q n m s) (v : Nat) (t : Xfer) :
    Keeps q n m (State.xferStale s v t) := by
  unfold State.xferStale
  repeat' (first | assumption | with_reducible apply State.spillDone_keeps | with_reducible apply State.fetchDone_keeps |
      simp only [keeps_mk] | with_reducible refine Keeps.out ?_ | with_reducible refine Keeps.foldl ?_ _ ?_ |
      with_reducible refine Keeps.ite ?_ ?_ | intro _ _ _ | split | dsimp only)

theorem State.xferFails_keeps (h : Keeps q n m s) (v : Nat) (t : Xfer) :
    Keeps q n m (State.xferFails s v t) := by
  unfold State.xferFails
  repeat' (first | assumption | with_reducible apply State.releasePage_keeps | with_reducible apply State.cancelSpill_keeps |
      with_reducible apply State.imageRead_keeps | with_reducible apply State.recordArrives_keeps |
      with_reducible apply State.pairChecked_keeps | with_reducible apply State.commandXfer_keeps |
      with_reducible apply State.pullFails_keeps | with_reducible apply State.fetchLost_keeps |
      with_reducible apply State.xferStale_keeps | simp only [keeps_mk] | with_reducible refine Keeps.out ?_ |
      with_reducible refine Keeps.foldl ?_ _ ?_ | with_reducible refine Keeps.ite ?_ ?_ | intro _ _ _ | split | dsimp only)

theorem State.fetchAgain_keeps (h : Keeps q n m s) (v : Nat) (rc : Nat) (t : Xfer) :
    Keeps q n m (State.fetchAgain s v rc t) := by
  unfold State.fetchAgain
  repeat' (first | assumption | with_reducible apply State.rcSend_keeps | with_reducible apply State.rdma_keeps |
      simp only [keeps_modVi, keeps_mk] | with_reducible refine Keeps.out ?_ | with_reducible refine Keeps.foldl ?_ _ ?_ |
      with_reducible refine Keeps.ite ?_ ?_ | intro _ _ _ | split | dsimp only)

theorem State.failFirst_keeps (h : Keeps q n m s) (v : Nat) (rc : Nat) :
    Keeps q n m (State.failFirst s v rc) := by
  unfold State.failFirst
  repeat' (first | assumption | with_reducible apply State.dropXfer_keeps | with_reducible apply State.xferFails_keeps |
      simp only [keeps_mk] | with_reducible refine Keeps.out ?_ | with_reducible refine Keeps.foldl ?_ _ ?_ |
      with_reducible refine Keeps.ite ?_ ?_ | intro _ _ _ | split | dsimp only)

theorem State.connError_keeps (h : Keeps q n m s) (v : Nat) (rc : Nat) :
    Keeps q n m (State.connError s v rc) := by
  unfold State.connError
  repeat' (first | assumption | with_reducible apply State.report_keeps | with_reducible apply State.failFirst_keeps |
      simp only [keeps_modVi, keeps_mk] | with_reducible refine Keeps.out ?_ | with_reducible refine Keeps.foldl ?_ _ ?_ |
      with_reducible refine Keeps.ite ?_ ?_ | intro _ _ _ | split | dsimp only)

theorem State.resend_keeps (h : Keeps q n m s) (v : Nat) (rc : Nat) :
    Keeps q n m (State.resend s v rc) := by
  unfold State.resend
  repeat' (first | assumption | with_reducible apply State.rcSend_keeps | with_reducible apply State.rdma_keeps |
      simp only [keeps_modVi, keeps_mk] | with_reducible refine Keeps.out ?_ | with_reducible refine Keeps.foldl ?_ _ ?_ |
      with_reducible refine Keeps.ite ?_ ?_ | intro _ _ _ | split | dsimp only)

theorem State.rnrRetry_keeps (h : Keeps q n m s) (v : Nat) (rc : Nat) (t : Xfer) :
    Keeps q n m (State.rnrRetry s v rc t) := by
  unfold State.rnrRetry
  repeat' (first | assumption | with_reducible apply State.rcSend_keeps | with_reducible apply State.rdma_keeps |
      with_reducible apply State.connError_keeps | simp only [keeps_modVi, keeps_mk] | with_reducible refine Keeps.out ?_ |
      with_reducible refine Keeps.foldl ?_ _ ?_ | with_reducible refine Keeps.ite ?_ ?_ | intro _ _ _ | split | dsimp only)

theorem State.xferOk_keeps (h : Keeps q n m s) (v : Nat) (rc : Nat) (x : Vi) (t : Xfer) (data : List Byte) :
    Keeps q n m (State.xferOk s v rc x t data) := by
  unfold State.xferOk
  repeat' (first | assumption | with_reducible apply State.popXfer_keeps | with_reducible apply State.pullArrives_keeps |
      with_reducible apply State.spillDone_keeps | with_reducible apply State.fetchBlock_keeps |
      with_reducible apply State.fetchDone_keeps | with_reducible apply State.imageRead_keeps |
      with_reducible apply State.recordArrives_keeps | with_reducible apply State.commandXfer_keeps | simp only [keeps_mk] |
      with_reducible refine Keeps.out ?_ | with_reducible refine Keeps.foldl ?_ _ ?_ | with_reducible refine Keeps.ite ?_ ?_ |
      intro _ _ _ | split | dsimp only)

theorem execRdmaResponse_keeps (h : Keeps q n m s) (ts : Nat) (vi : Nat) (rc : Nat) (r : RdmaReply) :
    ∃ t, execRdmaResponse ts vi rc r s = .next t ∧ Keeps q n m t := by
  unfold execRdmaResponse
  refine ⟨_, rfl, ?_⟩
  repeat' (first | assumption | with_reducible apply State.upto_keeps | with_reducible apply State.popXfer_keeps |
      with_reducible apply State.wake_keeps | with_reducible apply State.pairChecked_keeps | with_reducible apply State.xferFails_keeps |
      with_reducible apply State.fetchAgain_keeps | with_reducible apply State.rnrRetry_keeps | with_reducible apply State.xferOk_keeps |
      simp only [keeps_mk] | with_reducible refine Keeps.out ?_ | with_reducible refine Keeps.foldl ?_ _ ?_ |
      with_reducible refine Keeps.ite ?_ ?_ | intro _ _ _ | split | dsimp only)

theorem execRcAckTimeout_keeps (h : Keeps q n m s) (ts : Nat) (vi : Nat) (rc : Nat) :
    ∃ t, execRcAckTimeout ts vi rc s = .next t ∧ Keeps q n m t := by
  unfold execRcAckTimeout
  refine ⟨_, rfl, ?_⟩
  repeat' (first | assumption | with_reducible apply State.upto_keeps | with_reducible apply State.wake_keeps |
      with_reducible apply State.connError_keeps | with_reducible apply State.resend_keeps | simp only [keeps_modVi, keeps_mk] |
      with_reducible refine Keeps.out ?_ | with_reducible refine Keeps.foldl ?_ _ ?_ | with_reducible refine Keeps.ite ?_ ?_ |
      intro _ _ _ | split | dsimp only)

theorem execTransferTimeout_keeps (h : Keeps q n m s) (ts : Nat) (vi : Nat) (rc : Nat) :
    ∃ t, execTransferTimeout ts vi rc s = .next t ∧ Keeps q n m t := by
  unfold execTransferTimeout
  refine ⟨_, rfl, ?_⟩
  repeat' (first | assumption | with_reducible apply State.upto_keeps | with_reducible apply State.releasePage_keeps |
      with_reducible apply State.cancelSpill_keeps | with_reducible apply State.wake_keeps | with_reducible apply State.dropXfer_keeps |
      with_reducible apply State.fetchLost_keeps | with_reducible apply State.xferFails_keeps | simp only [keeps_modVi, keeps_mk] |
      with_reducible refine Keeps.out ?_ | with_reducible refine Keeps.foldl ?_ _ ?_ | with_reducible refine Keeps.ite ?_ ?_ |
      intro _ _ _ | split | dsimp only)

/-! ### Regs -/

theorem State.readEnergyLo_keeps (h : Keeps q n m s) (v : Nat) :
    Keeps q n m (State.readEnergyLo s v) := by
  unfold State.readEnergyLo
  repeat' (first | assumption | simp only [keeps_modVi, keeps_mk] | with_reducible refine Keeps.out ?_ |
      with_reducible refine Keeps.foldl ?_ _ ?_ | with_reducible refine Keeps.ite ?_ ?_ | intro _ _ _ | split | dsimp only)

theorem State.readTxPnLo_keeps (h : Keeps q n m s) (v : Nat) :
    Keeps q n m (State.readTxPnLo s v) := by
  unfold State.readTxPnLo
  repeat' (first | assumption | simp only [keeps_modVi, keeps_mk] | with_reducible refine Keeps.out ?_ |
      with_reducible refine Keeps.foldl ?_ _ ?_ | with_reducible refine Keeps.ite ?_ ?_ | intro _ _ _ | split | dsimp only)

theorem State.latch_keeps (h : Keeps q n m s) (v : Nat) (a : Nat) :
    Keeps q n m (State.latch s v a) := by
  unfold State.latch
  repeat' (first | assumption | with_reducible apply State.readStampLo_keeps | with_reducible apply State.readBeatLo_keeps |
      with_reducible apply State.readEnergyLo_keeps | with_reducible apply State.readTxPnLo_keeps | simp only [keeps_mk] |
      with_reducible refine Keeps.out ?_ | with_reducible refine Keeps.foldl ?_ _ ?_ | with_reducible refine Keeps.ite ?_ ?_ |
      intro _ _ _ | split | dsimp only)

theorem State.writePort_keeps (h : Keeps q n m s) (v : Nat) (port : Nat) (val : Nat) :
    Keeps q n m (State.writePort s v port val) := by
  unfold State.writePort
  repeat' (first | assumption | simp only [keeps_modNet, keeps_mk] | with_reducible refine Keeps.out ?_ |
      with_reducible refine Keeps.foldl ?_ _ ?_ | with_reducible refine Keeps.ite ?_ ?_ | intro _ _ _ | split | dsimp only)

theorem State.writeIfq_keeps (h : Keeps q n m s) (v : Nat) (a : Nat) (val : Nat) :
    Keeps q n m (State.writeIfq s v a val) := by
  unfold State.writeIfq
  repeat' (first | assumption | with_reducible apply State.writePort_keeps | simp only [keeps_modView, keeps_modNet, keeps_mk] |
      with_reducible refine Keeps.out ?_ | with_reducible refine Keeps.foldl ?_ _ ?_ | with_reducible refine Keeps.ite ?_ ?_ |
      intro _ _ _ | split | dsimp only)

theorem State.writeSrcEn_keeps (h : Keeps q n m s) (val : Nat) :
    Keeps q n m (State.writeSrcEn s val) := by
  unfold State.writeSrcEn
  repeat' (first | assumption | with_reducible apply State.noteTraced_keeps | simp only [keeps_modTime, keeps_mk] |
      with_reducible refine Keeps.out ?_ | with_reducible refine Keeps.foldl ?_ _ ?_ | with_reducible refine Keeps.ite ?_ ?_ |
      intro _ _ _ | split | dsimp only)

theorem State.writeTime_keeps (h : Keeps q n m s) (v : Nat) (a : Nat) (val : Nat) :
    Keeps q n m (State.writeTime s v a val) := by
  unfold State.writeTime
  repeat' (first | assumption | with_reducible apply State.sourceLost_keeps | with_reducible apply State.writeSrcEn_keeps |
      simp only [keeps_modTime, keeps_mk] | with_reducible refine Keeps.out ?_ | with_reducible refine Keeps.foldl ?_ _ ?_ |
      with_reducible refine Keeps.ite ?_ ?_ | intro _ _ _ | split | dsimp only)

theorem State.writePrec_keeps (h : Keeps q n m s) (v : Nat) (a : Nat) (val : Nat) :
    Keeps q n m (State.writePrec s v a val) := by
  unfold State.writePrec
  repeat' (first | assumption | with_reducible apply State.clearUnit_keeps | with_reducible apply State.clearUnits_keeps |
      with_reducible apply State.setWindow_keeps | simp only [keeps_modVi, keeps_modView, keeps_mk] |
      with_reducible refine Keeps.out ?_ | with_reducible refine Keeps.foldl ?_ _ ?_ | with_reducible refine Keeps.ite ?_ ?_ |
      intro _ _ _ | split | dsimp only)

theorem State.writeErr_keeps (h : Keeps q n m s) (v : Nat) (a : Nat) (val : Nat) :
    Keeps q n m (State.writeErr s v a val) := by
  unfold State.writeErr
  repeat' (first | assumption | with_reducible apply State.modRing_keeps | simp only [keeps_modErr, keeps_mk] |
      with_reducible refine Keeps.out ?_ | with_reducible refine Keeps.foldl ?_ _ ?_ | with_reducible refine Keeps.ite ?_ ?_ |
      intro _ _ _ | split | dsimp only)

theorem State.writePwr_keeps (h : Keeps q n m s) (v : Nat) (a : Nat) (val : Nat) :
    Keeps q n m (State.writePwr s v a val) := by
  unfold State.writePwr
  repeat' (first | assumption | simp only [keeps_modPwr, keeps_mk] | with_reducible refine Keeps.out ?_ |
      with_reducible refine Keeps.foldl ?_ _ ?_ | with_reducible refine Keeps.ite ?_ ?_ | intro _ _ _ | split | dsimp only)

theorem State.writeClk_keeps (h : Keeps q n m s) (a : Nat) (val : Nat) :
    Keeps q n m (State.writeClk s a val) := by
  unfold State.writeClk
  repeat' (first | assumption | simp only [keeps_mk] | with_reducible refine Keeps.out ?_ | with_reducible refine Keeps.foldl ?_ _ ?_ |
      with_reducible refine Keeps.ite ?_ ?_ | intro _ _ _ | split | dsimp only)

theorem State.writeMon_keeps (h : Keeps q n m s) (v : Nat) (a : Nat) (val : Nat) :
    Keeps q n m (State.writeMon s v a val) := by
  unfold State.writeMon
  repeat' (first | assumption | with_reducible apply State.seqCfgSet_keeps | with_reducible apply State.armWake_keeps |
      simp only [keeps_modMon, keeps_mk] | with_reducible refine Keeps.out ?_ | with_reducible refine Keeps.foldl ?_ _ ?_ |
      with_reducible refine Keeps.ite ?_ ?_ | intro _ _ _ | split | dsimp only)

theorem State.writeCal_keeps (h : Keeps q n m s) (v : Nat) (a : Nat) (val : Nat) :
    Keeps q n m (State.writeCal s v a val) := by
  unfold State.writeCal
  repeat' (first | assumption | with_reducible apply State.calReqWrite_keeps | simp only [keeps_modCal, keeps_mk] |
      with_reducible refine Keeps.out ?_ | with_reducible refine Keeps.foldl ?_ _ ?_ | with_reducible refine Keeps.ite ?_ ?_ |
      intro _ _ _ | split | dsimp only)

theorem State.writePair_keeps (h : Keeps q n m s) (v : Nat) (a : Nat) (val : Nat) :
    Keeps q n m (State.writePair s v a val) := by
  unfold State.writePair
  repeat' (first | assumption | simp only [keeps_modPair, keeps_mk] | with_reducible refine Keeps.out ?_ |
      with_reducible refine Keeps.foldl ?_ _ ?_ | with_reducible refine Keeps.ite ?_ ?_ | intro _ _ _ | split | dsimp only)

theorem State.writeSec_keeps (h : Keeps q n m s) (v : Nat) (a : Nat) (val : Nat) :
    Keeps q n m (State.writeSec s v a val) := by
  unfold State.writeSec
  repeat' (first | assumption | with_reducible apply State.svnCommit_keeps | with_reducible apply State.opkeyCommit_keeps |
      with_reducible apply State.opkeyRevoke_keeps | with_reducible apply State.msOff_keeps | simp only [keeps_modSec, keeps_mk] |
      with_reducible refine Keeps.out ?_ | with_reducible refine Keeps.foldl ?_ _ ?_ | with_reducible refine Keeps.ite ?_ ?_ |
      intro _ _ _ | split | dsimp only)

theorem State.writeReg_keeps (h : Keeps q n m s) (v : Nat) (a : Nat) (val : Nat) :
    Keeps q n m (State.writeReg s v a val) := by
  unfold State.writeReg
  repeat' (first | assumption | with_reducible apply State.writeIfq_keeps | with_reducible apply State.writeTime_keeps |
      with_reducible apply State.writePrec_keeps | with_reducible apply State.writeErr_keeps |
      with_reducible apply State.writePwr_keeps | with_reducible apply State.writeClk_keeps | with_reducible apply State.writeMon_keeps |
      with_reducible apply State.writeCal_keeps | with_reducible apply State.writePair_keeps |
      with_reducible apply State.writeSec_keeps | simp only [keeps_modYelm, keeps_mk] | with_reducible refine Keeps.out ?_ |
      with_reducible refine Keeps.foldl ?_ _ ?_ | with_reducible refine Keeps.ite ?_ ?_ | intro _ _ _ | split | dsimp only)

theorem State.readRange_keeps (h : Keeps q n m s) (v a k : Nat) : Keeps q n m (s.readRange v a k).2 := by
  unfold State.readRange
  have key : ∀ (l : List Nat) (r : List Byte × State), Keeps q n m r.2 →
      Keeps q n m (l.foldl (fun r i => (r.1 ++ le 4 (r.2.readReg v (a + 4 * i)), r.2.latch v (a + 4 * i))) r).2 := by
    intro l
    induction l with
    | nil => intro r hr; exact hr
    | cons i l ih => intro r hr; exact ih _ (State.latch_keeps hr ..)
  exact key _ _ h

theorem effRegRead_keeps (h : Keeps q n m s) (c : Cmd) :
    Keeps q n m (effRegRead s c).1 := by
  unfold effRegRead
  repeat' (first | assumption | with_reducible apply State.readRange_keeps | simp only [keeps_mk] | with_reducible refine Keeps.out ?_ |
      with_reducible refine Keeps.foldl ?_ _ ?_ | with_reducible refine Keeps.ite ?_ ?_ | intro _ _ _ | split | dsimp only)

theorem execRegRead_keeps (h : Keeps q n m s) (p : Packet) :
    ∃ t, execRegRead p s = .next t ∧ Keeps q n m t := by
  unfold execRegRead
  refine ⟨_, rfl, ?_⟩
  repeat' (first | assumption | with_reducible apply State.takeAs_keeps | with_reducible apply effRegRead_keeps | simp only [keeps_mk] |
      with_reducible refine Keeps.out ?_ | with_reducible refine Keeps.foldl ?_ _ ?_ | with_reducible refine Keeps.ite ?_ ?_ |
      intro _ _ _ | split | dsimp only)

theorem effRegWrite_keeps (h : Keeps q n m s) (c : Cmd) :
    Keeps q n m (effRegWrite s c).1 := by
  unfold effRegWrite
  repeat' (first | assumption | with_reducible apply State.writeReg_keeps | simp only [keeps_mk] | with_reducible refine Keeps.out ?_ |
      with_reducible refine Keeps.foldl ?_ _ ?_ | with_reducible refine Keeps.ite ?_ ?_ | intro _ _ _ | split | dsimp only)

theorem execRegWrite_keeps (h : Keeps q n m s) (p : Packet) :
    ∃ t, execRegWrite p s = .next t ∧ Keeps q n m t := by
  unfold execRegWrite
  refine ⟨_, rfl, ?_⟩
  repeat' (first | assumption | with_reducible apply State.takeAs_keeps | with_reducible apply effRegWrite_keeps | simp only [keeps_mk] |
      with_reducible refine Keeps.out ?_ | with_reducible refine Keeps.foldl ?_ _ ?_ | with_reducible refine Keeps.ite ?_ ?_ |
      intro _ _ _ | split | dsimp only)

theorem effDiagEcho_keeps (h : Keeps q n m s) (c : Cmd) :
    Keeps q n m (effDiagEcho s c).1 := by
  unfold effDiagEcho
  repeat' (first | assumption | simp only [keeps_mk] | with_reducible refine Keeps.out ?_ | with_reducible refine Keeps.foldl ?_ _ ?_ |
      with_reducible refine Keeps.ite ?_ ?_ | intro _ _ _ | split | dsimp only)

theorem execDiagEcho_keeps (h : Keeps q n m s) (p : Packet) :
    ∃ t, execDiagEcho p s = .next t ∧ Keeps q n m t := by
  unfold execDiagEcho
  refine ⟨_, rfl, ?_⟩
  repeat' (first | assumption | with_reducible apply State.takeAs_keeps | with_reducible apply effDiagEcho_keeps | simp only [keeps_mk] |
      with_reducible refine Keeps.out ?_ | with_reducible refine Keeps.foldl ?_ _ ?_ | with_reducible refine Keeps.ite ?_ ?_ |
      intro _ _ _ | split | dsimp only)

theorem execCntClear_keeps (h : Keeps q n m s) (ts : Nat) (vi : Nat) (yelm : Nat) (value : Reg) :
    ∃ t, execCntClear ts vi yelm value s = .next t ∧ Keeps q n m t := by
  unfold execCntClear
  refine ⟨_, rfl, ?_⟩
  repeat' (first | assumption | with_reducible apply State.upto_keeps | with_reducible apply State.writeReg_keeps |
      simp only [keeps_mk] | with_reducible refine Keeps.out ?_ | with_reducible refine Keeps.foldl ?_ _ ?_ |
      with_reducible refine Keeps.ite ?_ ?_ | intro _ _ _ | split | dsimp only)

theorem execPortModeWrite_keeps (h : Keeps q n m s) (ts : Nat) (vi : Nat) (port : Nat) (value : Reg) :
    ∃ t, execPortModeWrite ts vi port value s = .next t ∧ Keeps q n m t := by
  unfold execPortModeWrite
  refine ⟨_, rfl, ?_⟩
  repeat' (first | assumption | with_reducible apply State.upto_keeps | with_reducible apply State.writePort_keeps |
      simp only [keeps_mk] | with_reducible refine Keeps.out ?_ | with_reducible refine Keeps.foldl ?_ _ ?_ |
      with_reducible refine Keeps.ite ?_ ?_ | intro _ _ _ | split | dsimp only)

theorem execEnergyMjLoRead_keeps (h : Keeps q n m s) (ts : Nat) (vi : Nat) :
    ∃ t, execEnergyMjLoRead ts vi s = .next t ∧ Keeps q n m t := by
  unfold execEnergyMjLoRead
  refine ⟨_, rfl, ?_⟩
  repeat' (first | assumption | with_reducible apply State.upto_keeps | with_reducible apply State.latch_keeps | simp only [keeps_mk] |
      with_reducible refine Keeps.out ?_ | with_reducible refine Keeps.foldl ?_ _ ?_ | with_reducible refine Keeps.ite ?_ ?_ |
      intro _ _ _ | split | dsimp only)

theorem execTxPnLoRead_keeps (h : Keeps q n m s) (ts : Nat) (vi : Nat) :
    ∃ t, execTxPnLoRead ts vi s = .next t ∧ Keeps q n m t := by
  unfold execTxPnLoRead
  refine ⟨_, rfl, ?_⟩
  repeat' (first | assumption | with_reducible apply State.upto_keeps | with_reducible apply State.latch_keeps | simp only [keeps_mk] |
      with_reducible refine Keeps.out ?_ | with_reducible refine Keeps.foldl ?_ _ ?_ | with_reducible refine Keeps.ite ?_ ?_ |
      intro _ _ _ | split | dsimp only)

end Sys2Proof.Machine
end

