-- ==== Sys2Proof/Laws/KeepsRestart.lean ====
section
/-! SUPPORT. Resets and replay, supplies and the sideband, and the order of a beat boundary. One lemma for every operation: it keeps Keeps. -/
namespace Sys2Proof.Machine
set_option Elab.async false
set_option linter.all false
set_option linter.unusedTactic false
set_option linter.unreachableTactic false
set_option linter.unusedSimpArgs false
variable {q : List Instr} {n m : Nat} {s : State}

/-! ### Restart -/

theorem effReset_keeps (h : Keeps q n m s) (c : Cmd) :
    Keeps q n m (effReset s c).1 := by
  unfold effReset
  repeat' (first | assumption | with_reducible apply State.startReset_keeps | simp only [keeps_modEntry, keeps_mk] |
      with_reducible refine Keeps.out ?_ | with_reducible refine Keeps.foldl ?_ _ ?_ | with_reducible refine Keeps.ite ?_ ?_ |
      intro _ _ _ | split | dsimp only)

theorem execReset_keeps (h : Keeps q n m s) (p : Packet) :
    ∃ t, execReset p s = .next t ∧ Keeps q n m t := by
  unfold execReset
  refine ⟨_, rfl, ?_⟩
  repeat' (first | assumption | with_reducible apply State.takeAs_keeps | with_reducible apply effReset_keeps | simp only [keeps_mk] |
      with_reducible refine Keeps.out ?_ | with_reducible refine Keeps.foldl ?_ _ ?_ | with_reducible refine Keeps.ite ?_ ?_ |
      intro _ _ _ | split | dsimp only)

theorem tget_mem {α : Type} {t : Tbl α} {k : Nat} {v : α} (h : tget t k = some v) : (k, v) ∈ t := by
  induction t with
  | nil => cases h
  | cons e t ih =>
    obtain ⟨k', v'⟩ := e
    unfold tget at h
    split at h
    · rename_i hk; subst hk; cases h; exact List.mem_cons_self
    · exact List.mem_cons_of_mem _ (ih h)

theorem commandOf_keeps (h : Keeps q n m s) (op : Nat) (e : StaticCheck × Effect) (he : commandOf op = some e) (c : Cmd) :
    Keeps q n m (e.2 s c).1 := by
  have all : ∀ r ∈ commandTable, Keeps q n m (r.2.2 s c).1 := by
    unfold commandTable
    simp only [List.forall_mem_cons, List.not_mem_nil, false_imp_iff, implies_true, and_true]
    refine ⟨effViCreate_keeps h c,
      effViClose_keeps h c,
      effQCreate_keeps h c,
      effQDestroy_keeps h c,
      effRcCreate_keeps h c,
      effRcDestroy_keeps h c,
      effRegionAdd_keeps h c,
      effRegionRemove_keeps h c,
      effYelmAlloc_keeps h c,
      effPartRead_keeps h c,
      effImgLoad_keeps h c,
      effImgSwap_keeps h c,
      effImgErase_keeps h c,
      effImgRefresh_keeps h c,
      effSeqOpen_keeps h c,
      effSeqStep_keeps h c,
      effSeqFork_keeps h c,
      effSeqClose_keeps h c,
      effSeqQuery_keeps h c,
      effKvPin_keeps h c,
      effKvEvict_keeps h c,
      effKvPrefetch_keeps h c,
      effAdpSetCreate_keeps h c,
      effAdpSetXfer_keeps h c,
      effAdpSetClose_keeps h c,
      effAdpFwdSave_keeps h c,
      effAdpBwd_keeps h c,
      effAdpUpdate_keeps h c,
      effTileRead_keeps h c,
      effTileWrite_keeps h c,
      effRecipeSet_keeps h c,
      effCalRun_keeps h c,
      effCalTableRead_keeps h c,
      effTimeSet_keeps h c,
      effBeatSet_keeps h c,
      effTestPackLoad_keeps h c,
      effTestPackRun_keeps h c,
      effErrDrain_keeps h c,
      effCperExport_keeps h c,
      effReset_keeps h c,
      effPairJoin_keeps h c,
      effPairLeave_keeps h c,
      effPairTakeover_keeps h c,
      effPairUnmirrored_keeps h c,
      effAttestGet_keeps h c,
      effMacsecKey_keeps h c,
      effFwUpdate_keeps h c,
      effPwrCapSet_keeps h c,
      effThermSet_keeps h c,
      effPwrStateSet_keeps h c,
      effRegRead_keeps h c,
      effRegWrite_keeps h c,
      effDiagEcho_keeps h c⟩
  exact all _ (tget_mem he)

theorem State.serve_keeps (h : Keeps q n m s) (p : Packet) : Keeps q n m (s.serve p) := by
  unfold State.serve
  refine Keeps.ite ?_ (Keeps.ite ?_ ?_)
  · exact State.takeDirect_keeps h _ _ (fun s hs c => effJrnlAck_keeps hs c)
  · exact State.takeDirect_keeps h _ _ (fun s hs c => effQDoorbell_keeps hs c)
  · split
    · rename_i e
      exact State.take_keeps h _ _ _ (fun s hs c => commandOf_keeps hs _ _ e c)
    · exact State.take_keeps h _ _ _ (fun s hs c => hs)

theorem execUnknownOpcode_keeps (h : Keeps q n m s) (p : Packet) :
    ∃ t, execUnknownOpcode p s = .next t ∧ Keeps q n m t := by
  unfold execUnknownOpcode
  refine ⟨_, rfl, ?_⟩
  repeat' (first | assumption | with_reducible apply State.upto_keeps | with_reducible apply State.serve_keeps | simp only [keeps_mk] |
      with_reducible refine Keeps.out ?_ | with_reducible refine Keeps.foldl ?_ _ ?_ | with_reducible refine Keeps.ite ?_ ?_ |
      intro _ _ _ | split | dsimp only)

theorem State.resendOne_keeps (h : Keeps q n m s) (v : Nat) (id : Nat) (e : Entry) :
    Keeps q n m (State.resendOne s v id e) := by
  unfold State.resendOne
  repeat' (first | assumption | with_reducible apply State.send_keeps | with_reducible apply State.rdma_keeps |
      with_reducible apply State.ringWrite_keeps | with_reducible apply State.holdFor_keeps | simp only [keeps_modEntry, keeps_mk] |
      with_reducible refine Keeps.out ?_ | with_reducible refine Keeps.foldl ?_ _ ?_ | with_reducible refine Keeps.ite ?_ ?_ |
      intro _ _ _ | split | dsimp only)

theorem State.resendAll_keeps (h : Keeps q n m s) (v : Nat) :
    Keeps q n m (State.resendAll s v) := by
  unfold State.resendAll
  repeat' (first | assumption | with_reducible apply State.resendOne_keeps | simp only [keeps_mk] | with_reducible refine Keeps.out ?_ |
      with_reducible refine Keeps.foldl ?_ _ ?_ | with_reducible refine Keeps.ite ?_ ?_ | intro _ _ _ | split | dsimp only)

theorem State.answerReset_keeps (h : Keeps q n m s) (a : Nat × Nat) :
    Keeps q n m (State.answerReset s a) := by
  unfold State.answerReset
  repeat' (first | assumption | with_reducible apply State.outcome_keeps | with_reducible apply State.sendOne_keeps |
      simp only [keeps_modEntry, keeps_mk] | with_reducible refine Keeps.out ?_ | with_reducible refine Keeps.foldl ?_ _ ?_ |
      with_reducible refine Keeps.ite ?_ ?_ | intro _ _ _ | split | dsimp only)

theorem State.queueReplay_keeps (h : Keeps q n m s) (op : ResetOp) (v : Nat) :
    Keeps q n m (State.queueReplay s op v) := by
  unfold State.queueReplay
  repeat' (first | assumption | simp only [keeps_modVi, keeps_mk] | with_reducible refine Keeps.out ?_ |
      with_reducible refine Keeps.foldl ?_ _ ?_ | with_reducible refine Keeps.ite ?_ ?_ | intro _ _ _ | split | dsimp only)

theorem State.dropProgress_keeps (h : Keeps q n m s) (op : ResetOp) :
    Keeps q n m (State.dropProgress s op) := by
  unfold State.dropProgress
  repeat' (first | assumption | with_reducible apply State.dropBatches_keeps |
      simp only [keeps_modVi, keeps_modErr, keeps_modPwr, keeps_modCal, keeps_modSec, keeps_mk] | with_reducible refine Keeps.out ?_ |
      with_reducible refine Keeps.foldl ?_ _ ?_ | with_reducible refine Keeps.ite ?_ ?_ | intro _ _ _ | split | dsimp only)

theorem State.pairAfterReset_keeps (h : Keeps q n m s) (v : Nat) :
    Keeps q n m (State.pairAfterReset s v) := by
  unfold State.pairAfterReset
  repeat' (first | assumption | with_reducible apply State.pairReturns_keeps | with_reducible apply State.sendAck_keeps |
      with_reducible apply State.fence_keeps | simp only [keeps_modPair, keeps_mk] | with_reducible refine Keeps.out ?_ |
      with_reducible refine Keeps.foldl ?_ _ ?_ | with_reducible refine Keeps.ite ?_ ?_ | intro _ _ _ | split | dsimp only)

theorem State.closesWaiting_keeps (h : Keeps q n m s)  :
    Keeps q n m (State.closesWaiting s) := by
  unfold State.closesWaiting
  repeat' (first | assumption | with_reducible apply State.runEffect_keeps | with_reducible apply effViClose_keeps |
      simp only [keeps_mk] | with_reducible refine Keeps.out ?_ | with_reducible refine Keeps.foldl ?_ _ ?_ |
      with_reducible refine Keeps.ite ?_ ?_ | intro _ _ _ | split | dsimp only)

theorem State.readAgain_keeps (h : Keeps q n m s)  :
    Keeps q n m (State.readAgain s) := by
  unfold State.readAgain
  repeat' (first | assumption | with_reducible apply State.readRecord_keeps | simp only [keeps_mk] | with_reducible refine Keeps.out ?_ |
      with_reducible refine Keeps.foldl ?_ _ ?_ | with_reducible refine Keeps.ite ?_ ?_ | intro _ _ _ | split | dsimp only)

theorem State.deliverHeld_keeps (h : Keeps q n m s)  :
    Keeps q n m (State.deliverHeld s) := by
  unfold State.deliverHeld
  repeat' (first | assumption | with_reducible apply State.serve_keeps | simp only [keeps_modMon, keeps_mk] |
      with_reducible refine Keeps.out ?_ | with_reducible refine Keeps.foldl ?_ _ ?_ | with_reducible refine Keeps.ite ?_ ?_ |
      intro _ _ _ | split | dsimp only)

theorem State.closeReset_keeps (h : Keeps q n m s) (op : ResetOp) :
    Keeps q n m (State.closeReset s op) := by
  unfold State.closeReset
  repeat' (first | assumption | simp only [keeps_modErr, keeps_mk] | with_reducible refine Keeps.out ?_ |
      with_reducible refine Keeps.foldl ?_ _ ?_ | with_reducible refine Keeps.ite ?_ ?_ | intro _ _ _ | split | dsimp only)

theorem State.afterReset5_keeps (h : Keeps q n m s) (op : ResetOp) :
    Keeps q n m (State.afterReset5 s op) := by
  unfold State.afterReset5
  repeat' (first | assumption | with_reducible apply State.report_keeps | with_reducible apply State.restoreMac_keeps |
      simp only [keeps_modErr, keeps_mk] | with_reducible refine Keeps.out ?_ | with_reducible refine Keeps.foldl ?_ _ ?_ |
      with_reducible refine Keeps.ite ?_ ?_ | intro _ _ _ | split | dsimp only)

theorem State.settle_keeps (h : Keeps q n m s) (op : ResetOp) :
    Keeps q n m (State.settle s op) := by
  unfold State.settle
  repeat' (first | assumption | with_reducible apply State.answer_keeps | with_reducible apply State.endWaits_keeps |
      with_reducible apply State.answerReset_keeps | with_reducible apply State.queueReplay_keeps |
      with_reducible apply State.dropProgress_keeps | simp only [keeps_mk] | with_reducible refine Keeps.out ?_ |
      with_reducible refine Keeps.foldl ?_ _ ?_ | with_reducible refine Keeps.ite ?_ ?_ | intro _ _ _ | split | dsimp only)

theorem State.takeUp_keeps (h : Keeps q n m s) (op : ResetOp) : Keeps q n m (s.takeUp op) := by
  unfold State.takeUp
  dsimp only
  have h1 := Keeps.foldl (fun s v hs => State.resendAll_keeps hs v) op.touched h
  have h2 := Keeps.ite (c := op.domain < 3) h1 (Keeps.foldl (fun s v hs => State.pairAfterReset_keeps hs v) op.touched h1)
  have h3 := State.closesWaiting_keeps (Keeps.ite (c := op.domain < 4) h2 (State.readAgain_keeps h2))
  exact State.deliverHeld_keeps (State.wake_keeps (State.pumpAllTiles_keeps
    (Keeps.foldl (fun s v hs => State.imgPump_keeps hs v) op.vis h3)))

theorem State.finishReset_keeps (h : Keeps q n m s) (op : ResetOp) : Keeps q n m (s.finishReset op) := by
  unfold State.finishReset
  have h0 := State.closeReset_keeps h op
  dsimp only
  generalize s.closeReset op = u at h0
  have h1 : Keeps q n m (if op.domain < 4 then u else { u with vis := tmapv u.vis (fun _ x => x.rebuild) }) :=
    Keeps.ite h0 ⟨h0.queue, h0.now, h0.svn, h0.mem⟩
  have h2 := State.settle_keeps (State.afterReset5_keeps h1 op) op
  exact Keeps.ite (State.deliverHeld_keeps (Keeps.foldl (fun s v hs => State.resendAll_keeps hs v) op.touched h2)) (State.takeUp_keeps h2 op)

theorem execResetEnd_keeps (h : Keeps q n m s) (ts domain target : Nat) :
    ∃ t, execResetEnd ts domain target s = .next t ∧ Keeps q n m t := by
  unfold execResetEnd
  refine ⟨_, rfl, ?_⟩
  have h2 := State.upto_keeps h ts
  dsimp only
  revert h2
  generalize s.upto ts = u
  intro h2
  split
  · exact h2
  · refine Keeps.ite h2 (Keeps.ite (State.finishReset_keeps h2 _) ?_)
    have h3 : Keeps q n m (u.modSec SecBlk.boot) :=
      (keeps_modSec _).2 ⟨h2.queue, h2.now, by rw [SecBlk.boot_minSvn]; exact h2.svn, h2.mem⟩
    exact Keeps.ite h3 (State.finishReset_keeps h3 _)

theorem State.forgetJoin_keeps (h : Keeps q n m s) (v : Nat) (id : Nat) :
    Keeps q n m (State.forgetJoin s v id) := by
  unfold State.forgetJoin
  repeat' (first | assumption | simp only [keeps_modPair, keeps_mk] | with_reducible refine Keeps.out ?_ |
      with_reducible refine Keeps.foldl ?_ _ ?_ | with_reducible refine Keeps.ite ?_ ?_ | intro _ _ _ | split | dsimp only)

theorem State.replayOne_keeps (h : Keeps q n m s) (v id : Nat) : Keeps q n m (s.replayOne v id) := by
  unfold State.replayOne
  split
  · refine Keeps.ite h ?_
    have h2 : Keeps q n m ((s.modVi v (fun x => x.modJrnl (fun j => { j with replayCount := bump j.replayCount }))).modEntry v id (fun e =>
        { e with state := .accepted, replays := e.replays + 1, replayRun := true, ranOut := false, admitted := false })) := (keeps_modEntry ..).2 ((keeps_modVi ..).2 h)
    dsimp only
    revert h2
    generalize State.modEntry _ v id _ = u
    intro h2
    refine Keeps.ite (State.outcome_keeps h2 ..) (Keeps.ite (State.abandon_keeps h2 ..) ?_)
    split
    · exact h2
    · rename_i e
      split
      · exact State.outcome_keeps h2 ..
      · exact State.runEffect_keeps (State.forgetJoin_keeps h2 ..) _ _ (fun s hs c => commandOf_keeps hs _ _ e c)
  · exact h

theorem State.sendRecorded_keeps (h : Keeps q n m s) (v qn fuel : Nat) : Keeps q n m (s.sendRecorded v qn fuel) := by
  induction fuel generalizing s with
  | zero => exact h
  | succ fuel ih =>
    unfold State.sendRecorded
    split
    · exact h
    · split
      · exact Keeps.ite h (ih (State.sendOne_keeps h ..))
      · exact h

theorem execReplay_keeps (h : Keeps q n m s) (ts vi : Nat) : ∃ t, execReplay ts vi s = .next t ∧ Keeps q n m t := by
  unfold execReplay
  refine ⟨_, rfl, ?_⟩
  have h2 := State.upto_keeps h ts
  dsimp only
  generalize s.upto ts = u at h2
  split
  · exact h2
  · rename_i x e
    refine Keeps.ite h2 ?_
    have h3 := Keeps.foldl (fun s q₁ hs => State.sendRecorded_keeps hs vi q₁ x.jrnl.entries.length) (tkeys x.queues) h2
    generalize (tkeys x.queues).foldl _ u = w at h3
    refine State.wake_keeps (Keeps.foldl (fun s e hs => State.replayOne_keeps hs e.1 e.2) _ ?_)
    exact ⟨h3.queue, h3.now, h3.svn, h3.mem⟩

theorem State.rerunOn_keeps (h : Keeps q n m s) (k : Nat) (cause : Nat) (die : Nat) :
    Keeps q n m (State.rerunOn s k cause die) := by
  unfold State.rerunOn
  repeat' (first | assumption | with_reducible apply State.rerunStep_keeps | with_reducible apply State.wake_keeps |
      simp only [keeps_mk] | with_reducible refine Keeps.out ?_ | with_reducible refine Keeps.foldl ?_ _ ?_ |
      with_reducible refine Keeps.ite ?_ ?_ | intro _ _ _ | split | dsimp only)

theorem State.losePage_keeps (h : Keeps q n m s) (v : Nat) (k : Nat) (die : Nat) :
    Keeps q n m (State.losePage s v k die) := by
  unfold State.losePage
  repeat' (first | assumption | with_reducible apply State.dropIndex_keeps | with_reducible apply State.rerunOn_keeps |
      simp only [keeps_mk] | with_reducible refine Keeps.out ?_ | with_reducible refine Keeps.foldl ?_ _ ?_ |
      with_reducible refine Keeps.ite ?_ ?_ | intro _ _ _ | split | dsimp only)

theorem State.loseItem_keeps (h : Keeps q n m s) (v : Nat) (seq : Option Nat) (entry : Option (Nat × Nat)) :
    Keeps q n m (State.loseItem s v seq entry) := by
  unfold State.loseItem
  repeat' (first | assumption | with_reducible apply State.retire_keeps | with_reducible apply State.dropStep_keeps |
      with_reducible apply State.closeSeq_keeps | with_reducible apply State.startReset_keeps | simp only [keeps_mk] |
      with_reducible refine Keeps.out ?_ | with_reducible refine Keeps.foldl ?_ _ ?_ | with_reducible refine Keeps.ite ?_ ?_ |
      intro _ _ _ | split | dsimp only)

theorem State.rereadSection_keeps (h : Keeps q n m s) (v : Nat) (address : Nat) :
    Keeps q n m (State.rereadSection s v address) := by
  unfold State.rereadSection
  repeat' (first | assumption | with_reducible apply State.rdma_keeps | simp only [keeps_mk] | with_reducible refine Keeps.out ?_ |
      with_reducible refine Keeps.foldl ?_ _ ?_ | with_reducible refine Keeps.ite ?_ ?_ | intro _ _ _ | split | dsimp only)

theorem execEccError_keeps (h : Keeps q n m s) (ts : Nat) (e : EccError) :
    ∃ t, execEccError ts e s = .next t ∧ Keeps q n m t := by
  unfold execEccError
  refine ⟨_, rfl, ?_⟩
  have h1 := State.upto_keeps h ts
  dsimp only
  generalize s.upto ts = u at h1
  refine Keeps.ite h1 ?_
  have h2 := State.report_keeps h1 (u.eccRecord e)
  generalize u.report (u.eccRecord e) = w at h2
  refine Keeps.ite h2 ?_
  split
  · exact State.rerunOn_keeps h2 ..
  · exact State.wake_keeps (State.losePage_keeps h2 ..)
  · exact State.rerunOn_keeps (State.rereadSection_keeps h2 ..) ..
  · exact h2
  · exact State.afterStep_keeps (State.loseItem_keeps h2 ..) ..
  · exact (keeps_modVi _ _).2 h2
  · exact (keeps_modArr _ _ _).2 h2
  · exact State.reloadTrims_keeps h2 ..

theorem execResidueFail_keeps (h : Keeps q n m s) (ts : Nat) (unit : Nat) (place : Nat) (step : Nat) :
    ∃ t, execResidueFail ts unit place step s = .next t ∧ Keeps q n m t := by
  unfold execResidueFail
  refine ⟨_, rfl, ?_⟩
  repeat' (first | assumption | with_reducible apply State.upto_keeps | with_reducible apply State.report_keeps |
      with_reducible apply State.rerunStep_keeps | with_reducible apply State.wake_keeps | with_reducible apply step_keeps |
      simp only [keeps_mk] | with_reducible refine Keeps.out ?_ | with_reducible refine Keeps.foldl ?_ _ ?_ |
      with_reducible refine Keeps.ite ?_ ?_ | intro _ _ _ | split | dsimp only)

theorem execHeartbeat_keeps (h : Keeps q n m s) (ts : Nat) :
    ∃ t, execHeartbeat ts s = .next t ∧ Keeps q n m t := by
  unfold execHeartbeat
  refine ⟨_, rfl, ?_⟩
  repeat' (first | assumption | with_reducible apply State.upto_keeps | simp only [keeps_modErr, keeps_mk] |
      with_reducible refine Keeps.out ?_ | with_reducible refine Keeps.foldl ?_ _ ?_ | with_reducible refine Keeps.ite ?_ ?_ |
      intro _ _ _ | split | dsimp only)

theorem State.heartbeatBoundary_keeps (h : Keeps q n m s)  :
    Keeps q n m (State.heartbeatBoundary s) := by
  unfold State.heartbeatBoundary
  repeat' (first | assumption | simp only [keeps_modErr, keeps_mk] | with_reducible refine Keeps.out ?_ |
      with_reducible refine Keeps.foldl ?_ _ ?_ | with_reducible refine Keeps.ite ?_ ?_ | intro _ _ _ | split | dsimp only)

theorem execHeartbeatLost_keeps (h : Keeps q n m s) (ts : Nat) : ∃ t, execHeartbeatLost ts s = .next t ∧ Keeps q n m t := by
  unfold execHeartbeatLost
  refine ⟨_, rfl, ?_⟩
  have h2 := State.upto_keeps h ts
  dsimp only
  revert h2
  generalize s.upto ts = u
  intro h2
  refine Keeps.ite h2 ?_
  have h3 : Keeps q n m ((u.report { recOf 0x0501 2 0xFFFF u.now with die := 60, detail := le 1 u.err.missed }).modSec SecBlk.trialFails) := by
    have h4 := State.report_keeps h2 { recOf 0x0501 2 0xFFFF u.now with die := 60, detail := le 1 u.err.missed }
    exact (keeps_modSec _).2 ⟨h4.queue, h4.now, by rw [SecBlk.trialFails_minSvn]; exact h4.svn, h4.mem⟩
  exact Keeps.ite (State.startReset_keeps h3 ..) (State.startReset_keeps ((keeps_modErr _).2 h3) ..)

/-! ### Supply -/

theorem State.brakeIfHeld_keeps (h : Keeps q n m s)  :
    Keeps q n m (State.brakeIfHeld s) := by
  unfold State.brakeIfHeld
  repeat' (first | assumption | simp only [keeps_modPwr, keeps_mk] | with_reducible refine Keeps.out ?_ |
      with_reducible refine Keeps.foldl ?_ _ ?_ | with_reducible refine Keeps.ite ?_ ?_ | intro _ _ _ | split | dsimp only)

theorem State.backInRun_keeps (h : Keeps q n m s)  :
    Keeps q n m (State.backInRun s) := by
  unfold State.backInRun
  repeat' (first | assumption | with_reducible apply State.seedCourses_keeps | with_reducible apply State.syncPins_keeps |
      with_reducible apply State.brakeIfHeld_keeps | simp only [keeps_modPwr, keeps_mk] | with_reducible refine Keeps.out ?_ |
      with_reducible refine Keeps.foldl ?_ _ ?_ | with_reducible refine Keeps.ite ?_ ?_ | intro _ _ _ | split | dsimp only)

theorem execPowerStateExit_keeps (h : Keeps q n m s) (ts : Nat) : ∃ t, execPowerStateExit ts s = .next t ∧ Keeps q n m t := by
  unfold execPowerStateExit
  refine ⟨_, rfl, ?_⟩
  have h2 := State.upto_keeps h ts
  revert h2
  generalize s.upto ts = u
  intro h2
  refine Keeps.ite h2 (Keeps.ite (State.wake_keeps (State.deliverHeld_keeps (State.backInRun_keeps h2))) (Keeps.ite ?_ h2))
  have h3 : Keeps q n m (u.modSec SecBlk.boot) :=
    (keeps_modSec _).2 ⟨h2.queue, h2.now, by rw [SecBlk.boot_minSvn]; exact h2.svn, h2.mem⟩
  exact State.deliverHeld_keeps (State.backInRun_keeps (State.restoreMac_keeps h3))

theorem State.loseMain_keeps (h : Keeps q n m s)  :
    Keeps q n m (State.loseMain s) := by
  unfold State.loseMain
  have h1 := State.darken_keeps ((keeps_modMon (fun b => { b with maintActive := false, held := [] })).2
    ((keeps_modPwr (fun b => { b.asleep 0 with waking := false, wakePend := none, wakeDue := false, back := none })).2 h))
  dsimp only
  generalize State.darken _ = u at h1
  exact State.syncPins_keeps ⟨h1.queue, h1.now, h1.svn, h1.mem⟩

theorem execPwrOkFall_keeps (h : Keeps q n m s) (ts : Nat) :
    ∃ t, execPwrOkFall ts s = .next t ∧ Keeps q n m t := by
  unfold execPwrOkFall
  refine ⟨_, rfl, ?_⟩
  repeat' (first | assumption | with_reducible apply State.upto_keeps | with_reducible apply State.loseMain_keeps |
      simp only [keeps_mk] | with_reducible refine Keeps.out ?_ | with_reducible refine Keeps.foldl ?_ _ ?_ |
      with_reducible refine Keeps.ite ?_ ?_ | intro _ _ _ | split | dsimp only)

theorem execPwrOkRise_keeps (h : Keeps q n m s) (ts : Nat) :
    ∃ t, execPwrOkRise ts s = .next t ∧ Keeps q n m t := by
  unfold execPwrOkRise
  refine ⟨_, rfl, ?_⟩
  repeat' (first | assumption | with_reducible apply State.upto_keeps | simp only [keeps_mk] | with_reducible refine Keeps.out ?_ |
      with_reducible refine Keeps.foldl ?_ _ ?_ | with_reducible refine Keeps.ite ?_ ?_ | intro _ _ _ | split | dsimp only)

theorem State.unplug_keeps (h : Keeps q n m s)  :
    Keeps q n m (State.unplug s) := by
  have h1 := State.loseMain_keeps h
  unfold State.unplug
  generalize s.loseMain = u at h1
  exact ⟨h1.queue, h1.now, h1.svn, h1.mem⟩

theorem execPowerLoss_keeps (h : Keeps q n m s) (ts : Nat) :
    ∃ t, execPowerLoss ts s = .next t ∧ Keeps q n m t := by
  unfold execPowerLoss
  refine ⟨_, rfl, ?_⟩
  repeat' (first | assumption | with_reducible apply State.upto_keeps | with_reducible apply State.unplug_keeps | simp only [keeps_mk] |
      with_reducible refine Keeps.out ?_ | with_reducible refine Keeps.foldl ?_ _ ?_ | with_reducible refine Keeps.ite ?_ ?_ |
      intro _ _ _ | split | dsimp only)

theorem execPowerUp_keeps (h : Keeps q n m s) (ts : Nat) (pufOk : Bool) : ∃ t, execPowerUp ts pufOk s = .next t ∧ Keeps q n m t := by
  unfold execPowerUp
  refine ⟨_, rfl, ?_⟩
  have h2 := State.upto_keeps h ts
  dsimp only
  revert h2
  generalize s.upto ts = u
  intro h2
  refine Keeps.ite h2 ?_
  exact (keeps_modSec _).2 ⟨h2.queue, le_trans h2.now (le_max_left _ _), h2.svn, h2.mem⟩

theorem execSysResetL_keeps (h : Keeps q n m s) (ts : Nat) :
    ∃ t, execSysResetL ts s = .next t ∧ Keeps q n m t := by
  unfold execSysResetL
  refine ⟨_, rfl, ?_⟩
  repeat' (first | assumption | with_reducible apply State.upto_keeps | with_reducible apply State.startReset_keeps |
      with_reducible apply State.backInRun_keeps | simp only [keeps_mk] | with_reducible refine Keeps.out ?_ |
      with_reducible refine Keeps.foldl ?_ _ ?_ | with_reducible refine Keeps.ite ?_ ?_ | intro _ _ _ | split | dsimp only)

theorem execSysResetLRelease_keeps (h : Keeps q n m s) (ts : Nat) :
    ∃ t, execSysResetLRelease ts s = .next t ∧ Keeps q n m t := by
  unfold execSysResetLRelease
  refine ⟨_, rfl, ?_⟩
  repeat' (first | assumption | with_reducible apply State.upto_keeps | with_reducible apply State.backInRun_keeps |
      simp only [keeps_modErr, keeps_mk] | with_reducible refine Keeps.out ?_ | with_reducible refine Keeps.foldl ?_ _ ?_ |
      with_reducible refine Keeps.ite ?_ ?_ | intro _ _ _ | split | dsimp only)

theorem State.sbReply_keeps (h : Keeps q n m s) (status : Nat) (pay : List Byte) :
    Keeps q n m (State.sbReply s status pay) := by
  unfold State.sbReply
  repeat' (first | assumption | with_reducible apply State.sideband_keeps | simp only [keeps_mk] | with_reducible refine Keeps.out ?_ |
      with_reducible refine Keeps.foldl ?_ _ ?_ | with_reducible refine Keeps.ite ?_ ?_ | intro _ _ _ | split | dsimp only)

theorem State.sideband_keeps (h : Keeps q n m s) (r : SbRequest) (len : List Byte → Bool) (exempt : Bool)
    (act : State → List Byte → State × Nat × List Byte) (ha : ∀ s, Keeps q n m s → ∀ d, Keeps q n m (act s d).1) :
    Keeps q n m (s.sideband r len exempt act) := by
  unfold State.sideband
  have h2 := State.upto_keeps h r.ts
  dsimp only
  revert h2
  generalize s.upto r.ts = u
  intro h2
  refine Keeps.ite h2 (Keeps.ite (State.sbReply_keeps h2 ..) (Keeps.ite (State.sbReply_keeps h2 ..) (Keeps.ite (State.sbReply_keeps h2 ..) ?_)))
  exact State.sbReply_keeps (ha _ h2 _) ..

theorem execIdRead_keeps (h : Keeps q n m s) (r : SbRequest) :
    ∃ t, execIdRead r s = .next t ∧ Keeps q n m t := by
  unfold execIdRead
  refine ⟨_, rfl, ?_⟩
  repeat' (first | assumption | with_reducible apply State.sideband_keeps | simp only [keeps_mk] | with_reducible refine Keeps.out ?_ |
      with_reducible refine Keeps.foldl ?_ _ ?_ | with_reducible refine Keeps.ite ?_ ?_ | intro _ _ _ | split | dsimp only)

theorem execStatusRead_keeps (h : Keeps q n m s) (r : SbRequest) :
    ∃ t, execStatusRead r s = .next t ∧ Keeps q n m t := by
  unfold execStatusRead
  refine ⟨_, rfl, ?_⟩
  repeat' (first | assumption | with_reducible apply State.sideband_keeps | simp only [keeps_mk] | with_reducible refine Keeps.out ?_ |
      with_reducible refine Keeps.foldl ?_ _ ?_ | with_reducible refine Keeps.ite ?_ ?_ | intro _ _ _ | split | dsimp only)

theorem execRegReadSb_keeps (h : Keeps q n m s) (r : SbRequest) :
    ∃ t, execRegReadSb r s = .next t ∧ Keeps q n m t := by
  unfold execRegReadSb
  refine ⟨_, rfl, ?_⟩
  repeat' (first | assumption | with_reducible apply State.readRange_keeps | with_reducible apply State.sideband_keeps |
      simp only [keeps_mk] | with_reducible refine Keeps.out ?_ | with_reducible refine Keeps.foldl ?_ _ ?_ |
      with_reducible refine Keeps.ite ?_ ?_ | intro _ _ _ | split | dsimp only)

theorem execVi0AddrWrite_keeps (h : Keeps q n m s) (r : SbRequest) :
    ∃ t, execVi0AddrWrite r s = .next t ∧ Keeps q n m t := by
  unfold execVi0AddrWrite
  refine ⟨_, rfl, ?_⟩
  repeat' (first | assumption | with_reducible apply State.sideband_keeps | simp only [keeps_mk] | with_reducible refine Keeps.out ?_ |
      with_reducible refine Keeps.foldl ?_ _ ?_ | with_reducible refine Keeps.ite ?_ ?_ | intro _ _ _ | split | dsimp only)

theorem execVi0AddrRead_keeps (h : Keeps q n m s) (r : SbRequest) :
    ∃ t, execVi0AddrRead r s = .next t ∧ Keeps q n m t := by
  unfold execVi0AddrRead
  refine ⟨_, rfl, ?_⟩
  repeat' (first | assumption | with_reducible apply State.sideband_keeps | simp only [keeps_mk] | with_reducible refine Keeps.out ?_ |
      with_reducible refine Keeps.foldl ?_ _ ?_ | with_reducible refine Keeps.ite ?_ ?_ | intro _ _ _ | split | dsimp only)

theorem execWake_keeps (h : Keeps q n m s) (r : SbRequest) :
    ∃ t, execWake r s = .next t ∧ Keeps q n m t := by
  unfold execWake
  refine ⟨_, rfl, ?_⟩
  repeat' (first | assumption | with_reducible apply State.wakeBy_keeps | with_reducible apply State.sideband_keeps |
      simp only [keeps_mk] | with_reducible refine Keeps.out ?_ | with_reducible refine Keeps.foldl ?_ _ ?_ |
      with_reducible refine Keeps.ite ?_ ?_ | intro _ _ _ | split | dsimp only)

theorem execServiceRestore_keeps (h : Keeps q n m s) (r : SbRequest) :
    ∃ t, execServiceRestore r s = .next t ∧ Keeps q n m t := by
  unfold execServiceRestore
  refine ⟨_, rfl, ?_⟩
  repeat' (first | assumption | with_reducible apply State.startReset_keeps | with_reducible apply State.sideband_keeps |
      simp only [keeps_modErr, keeps_mk] | with_reducible refine Keeps.out ?_ | with_reducible refine Keeps.foldl ?_ _ ?_ |
      with_reducible refine Keeps.ite ?_ ?_ | intro _ _ _ | split | dsimp only)

theorem execFwRecoverBegin_keeps (h : Keeps q n m s) (r : SbRequest) :
    ∃ t, execFwRecoverBegin r s = .next t ∧ Keeps q n m t := by
  unfold execFwRecoverBegin
  refine ⟨_, rfl, ?_⟩
  repeat' (first | assumption | with_reducible apply State.sideband_keeps | simp only [keeps_modSec, keeps_mk] |
      with_reducible refine Keeps.out ?_ | with_reducible refine Keeps.foldl ?_ _ ?_ | with_reducible refine Keeps.ite ?_ ?_ |
      intro _ _ _ | split | dsimp only)

theorem execFwRecoverData_keeps (h : Keeps q n m s) (r : SbRequest) :
    ∃ t, execFwRecoverData r s = .next t ∧ Keeps q n m t := by
  unfold execFwRecoverData
  refine ⟨_, rfl, ?_⟩
  repeat' (first | assumption | with_reducible apply State.take_keeps | with_reducible apply State.sideband_keeps |
      simp only [keeps_modSec, keeps_mk] | with_reducible refine Keeps.out ?_ | with_reducible refine Keeps.foldl ?_ _ ?_ |
      with_reducible refine Keeps.ite ?_ ?_ | intro _ _ _ | split | dsimp only)

theorem execFwRecoverEnd_keeps (h : Keeps q n m s) (r : SbRequest) :
    ∃ t, execFwRecoverEnd r s = .next t ∧ Keeps q n m t := by
  unfold execFwRecoverEnd
  refine ⟨_, rfl, ?_⟩
  repeat' (first | assumption | with_reducible apply State.sideband_keeps | simp only [keeps_modSec, keeps_mk] |
      simp only [SecBlk.boot_minSvn] | with_reducible refine Keeps.out ?_ | with_reducible refine Keeps.foldl ?_ _ ?_ |
      with_reducible refine Keeps.ite ?_ ?_ | intro _ _ _ | split | dsimp only)

theorem execUnknownSidebandCode_keeps (h : Keeps q n m s) (r : SbRequest) (code : Nat) :
    ∃ t, execUnknownSidebandCode r code s = .next t ∧ Keeps q n m t := by
  unfold execUnknownSidebandCode
  refine ⟨_, rfl, ?_⟩
  repeat' (first | assumption | with_reducible apply State.upto_keeps | with_reducible apply State.sideband_keeps |
      simp only [keeps_mk] | with_reducible refine Keeps.out ?_ | with_reducible refine Keeps.foldl ?_ _ ?_ |
      with_reducible refine Keeps.ite ?_ ?_ | intro _ _ _ | split | dsimp only)

theorem execTestPortInstruction_keeps (h : Keeps q n m s) (ts : Nat) (i : TapInstr) :
    ∃ t, execTestPortInstruction ts i s = .next t ∧ Keeps q n m t := by
  unfold execTestPortInstruction
  refine ⟨_, rfl, ?_⟩
  repeat' (first | assumption | with_reducible apply State.upto_keeps | simp only [keeps_mk] | with_reducible refine Keeps.out ?_ |
      with_reducible refine Keeps.foldl ?_ _ ?_ | with_reducible refine Keeps.ite ?_ ?_ | intro _ _ _ | split | dsimp only)

/-! ### Boundary -/

theorem State.timeStep_keeps (h : Keeps q n m s) : Keeps q n m s.timeStep := by
  unfold State.timeStep
  split
  · exact (keeps_modTime _).2 ((keeps_mk ..).2 ⟨h.queue, le_trans h.now (Nat.le_add_right _ _), h.svn, h.mem⟩)
  · exact h

theorem State.periodChange_keeps (h : Keeps q n m s)  :
    Keeps q n m (State.periodChange s) := by
  unfold State.periodChange
  repeat' (first | assumption | simp only [keeps_modTime, keeps_mk] | with_reducible refine Keeps.out ?_ |
      with_reducible refine Keeps.foldl ?_ _ ?_ | with_reducible refine Keeps.ite ?_ ?_ | intro _ _ _ | split | dsimp only)

theorem State.preferenceChange_keeps (h : Keeps q n m s)  :
    Keeps q n m (State.preferenceChange s) := by
  unfold State.preferenceChange
  repeat' (first | assumption | with_reducible apply State.noteTraced_keeps | simp only [keeps_modTime, keeps_mk] |
      with_reducible refine Keeps.out ?_ | with_reducible refine Keeps.foldl ?_ _ ?_ | with_reducible refine Keeps.ite ?_ ?_ |
      intro _ _ _ | split | dsimp only)

theorem State.afterWake_keeps (h : Keeps q n m s)  :
    Keeps q n m (State.afterWake s) := by
  unfold State.afterWake
  repeat' (first | assumption | with_reducible apply State.startPass_keeps | simp only [keeps_modPwr, keeps_modCal, keeps_mk] |
      with_reducible refine Keeps.out ?_ | with_reducible refine Keeps.foldl ?_ _ ?_ | with_reducible refine Keeps.ite ?_ ?_ |
      intro _ _ _ | split | dsimp only)

theorem State.ageBoundary_keeps (h : Keeps q n m s)  :
    Keeps q n m (State.ageBoundary s) := by
  unfold State.ageBoundary
  repeat' (first | assumption | simp only [keeps_mk] | with_reducible refine Keeps.out ?_ | with_reducible refine Keeps.foldl ?_ _ ?_ |
      with_reducible refine Keeps.ite ?_ ?_ | intro _ _ _ | split | dsimp only)

theorem State.failConns_keeps (h : Keeps q n m s) (v : Nat) (which : Conn → Bool) :
    Keeps q n m (State.failConns s v which) := by
  unfold State.failConns
  repeat' (first | assumption | with_reducible apply State.connError_keeps | simp only [keeps_mk] | with_reducible refine Keeps.out ?_ |
      with_reducible refine Keeps.foldl ?_ _ ?_ | with_reducible refine Keeps.ite ?_ ?_ | intro _ _ _ | split | dsimp only)

theorem State.portBoundary_keeps (h : Keeps q n m s) (p : Nat) :
    Keeps q n m (State.portBoundary s p) := by
  unfold State.portBoundary
  repeat' (first | assumption | with_reducible apply State.dropLink_keeps | with_reducible apply State.macClear_keeps |
      with_reducible apply State.failConns_keeps | simp only [keeps_modNet, keeps_mk] | with_reducible refine Keeps.out ?_ |
      with_reducible refine Keeps.foldl ?_ _ ?_ | with_reducible refine Keeps.ite ?_ ?_ | intro _ _ _ | split | dsimp only)

theorem State.addrBoundary_keeps (h : Keeps q n m s)  :
    Keeps q n m (State.addrBoundary s) := by
  unfold State.addrBoundary
  repeat' (first | assumption | with_reducible apply State.failConns_keeps | simp only [keeps_modVi, keeps_mk] |
      with_reducible refine Keeps.out ?_ | with_reducible refine Keeps.foldl ?_ _ ?_ | with_reducible refine Keeps.ite ?_ ?_ |
      intro _ _ _ | split | dsimp only)

theorem State.countBeat_keeps (h : Keeps q n m s)  :
    Keeps q n m (State.countBeat s) := by
  unfold State.countBeat
  repeat' (first | assumption | simp only [keeps_modPwr, keeps_mk] | with_reducible refine Keeps.out ?_ |
      with_reducible refine Keeps.foldl ?_ _ ?_ | with_reducible refine Keeps.ite ?_ ?_ | intro _ _ _ | split | dsimp only)

theorem State.mainBoundary_keeps (h : Keeps q n m s) : Keeps q n m s.mainBoundary := by
  unfold State.mainBoundary
  have h1 := State.preferenceChange_keeps (State.recipeBoundary_keeps (State.trimBoundary_keeps (State.afterWake_keeps h)))
  generalize (((s.afterWake).trimBoundary).recipeBoundary).preferenceChange = u at h1
  refine State.clockBoundary_keeps (State.powerBoundary_keeps (State.addrBoundary_keeps (State.portBoundary_keeps
    (State.portBoundary_keeps (Keeps.ite (State.refreshBoundary_keeps ?_) ?_) _) _)))
  all_goals
    refine State.ageBoundary_keeps (State.windowBoundary_keeps (Keeps.ite (Keeps.foldl (fun t v ht => ?_) _ h1) h1))
    exact State.barrierBoundary_keeps ht _

theorem State.firmwareBoundary_keeps (h : Keeps q n m s)  :
    Keeps q n m (State.firmwareBoundary s) := by
  unfold State.firmwareBoundary
  repeat' (first | assumption | with_reducible apply State.retireBoundary_keeps | with_reducible apply State.checkpoint_keeps |
      with_reducible apply State.maintBoundary_keeps | with_reducible apply State.pairBoundary_keeps |
      with_reducible apply State.takeovers_keeps | with_reducible apply State.heartbeatBoundary_keeps | simp only [keeps_mk] |
      with_reducible refine Keeps.out ?_ | with_reducible refine Keeps.foldl ?_ _ ?_ | with_reducible refine Keeps.ite ?_ ?_ |
      intro _ _ _ | split | dsimp only)

theorem State.drainPorts_keeps (h : Keeps q n m s)  :
    Keeps q n m (State.drainPorts s) := by
  unfold State.drainPorts
  repeat' (first | assumption | with_reducible apply State.pfcOccupancy_keeps | simp only [keeps_mk] |
      with_reducible refine Keeps.out ?_ | with_reducible refine Keeps.foldl ?_ _ ?_ | with_reducible refine Keeps.ite ?_ ?_ |
      intro _ _ _ | split | dsimp only)

theorem State.beat_keeps (h : Keeps q n m s) : Keeps q n m s.beat := by
  unfold State.beat
  dsimp only
  have hb : n ≤ s.comingBoundary := by
    refine le_trans h.now ?_
    unfold State.comingBoundary State.nextBoundary
    split
    · exact le_refl _
    · have hp : 0 < s.period := Nat.mul_pos (by decide) (Nat.two_pow_pos _)
      have := Nat.div_add_mod s.now s.period
      have := Nat.mod_lt s.now hp
      rw [Nat.add_mul, Nat.mul_comm]
      omega
  have h1 : Keeps q n m ((({ s with now := s.comingBoundary } : State).modTime (fun t => { t with boundary := s.comingBoundary })).timeStep.periodChange) :=
    State.periodChange_keeps (State.timeStep_keeps ((keeps_modTime _).2 ((keeps_mk ..).2 ⟨h.queue, hb, h.svn, h.mem⟩)))
  generalize ((({ s with now := s.comingBoundary } : State).modTime (fun t => { t with boundary := s.comingBoundary })).timeStep.periodChange) = u at h1
  have h2 := State.mainBoundary_keeps h1
  refine Keeps.ite (State.countBeat_keeps (State.windowBoundary_keeps (State.preferenceChange_keeps h1))) ?_
  exact State.wake_keeps (State.pumpAllTiles_keeps (State.drainPorts_keeps (State.countBeat_keeps (Keeps.ite
    (State.firmwareBoundary_keeps h2) h2))))

theorem execBeatBoundary_keeps (h : Keeps q n m s)  :
    ∃ t, execBeatBoundary s = .next t ∧ Keeps q n m t := by
  unfold execBeatBoundary
  refine ⟨_, rfl, ?_⟩
  repeat' (first | assumption | with_reducible apply State.beat_keeps | simp only [keeps_mk] | with_reducible refine Keeps.out ?_ |
      with_reducible refine Keeps.foldl ?_ _ ?_ | with_reducible refine Keeps.ite ?_ ?_ | intro _ _ _ | split | dsimp only)

end Sys2Proof.Machine
end

