-- ==== Sys2Proof/Laws/PerInstr.lean ====
section
/-! SUPPORT. Statements made of every command as syntax, one lemma a constructor. -/
namespace Sys2Proof.Laws

/-- Every command but BEAT_BOUNDARY carries the stamp at which it happens (R264, R307, R463; log entry 3). -/
def Timed.Statement (i : Instr) : Prop := i.stamp?.isSome = true ∨ i = .beatBoundary

theorem Timed.viCreate (p : Packet) : Timed.Statement (.viCreate p) := .inl rfl
theorem Timed.viClose (p : Packet) : Timed.Statement (.viClose p) := .inl rfl
theorem Timed.qCreate (p : Packet) : Timed.Statement (.qCreate p) := .inl rfl
theorem Timed.qDestroy (p : Packet) : Timed.Statement (.qDestroy p) := .inl rfl
theorem Timed.qDoorbell (p : Packet) : Timed.Statement (.qDoorbell p) := .inl rfl
theorem Timed.rcCreate (p : Packet) : Timed.Statement (.rcCreate p) := .inl rfl
theorem Timed.rcDestroy (p : Packet) : Timed.Statement (.rcDestroy p) := .inl rfl
theorem Timed.regionAdd (p : Packet) : Timed.Statement (.regionAdd p) := .inl rfl
theorem Timed.regionRemove (p : Packet) : Timed.Statement (.regionRemove p) := .inl rfl
theorem Timed.yelmAlloc (p : Packet) : Timed.Statement (.yelmAlloc p) := .inl rfl
theorem Timed.partRead (p : Packet) : Timed.Statement (.partRead p) := .inl rfl
theorem Timed.imgLoad (p : Packet) : Timed.Statement (.imgLoad p) := .inl rfl
theorem Timed.imgSwap (p : Packet) : Timed.Statement (.imgSwap p) := .inl rfl
theorem Timed.imgErase (p : Packet) : Timed.Statement (.imgErase p) := .inl rfl
theorem Timed.imgRefresh (p : Packet) : Timed.Statement (.imgRefresh p) := .inl rfl
theorem Timed.seqOpen (p : Packet) : Timed.Statement (.seqOpen p) := .inl rfl
theorem Timed.seqStep (p : Packet) : Timed.Statement (.seqStep p) := .inl rfl
theorem Timed.seqFork (p : Packet) : Timed.Statement (.seqFork p) := .inl rfl
theorem Timed.seqClose (p : Packet) : Timed.Statement (.seqClose p) := .inl rfl
theorem Timed.seqQuery (p : Packet) : Timed.Statement (.seqQuery p) := .inl rfl
theorem Timed.kvPin (p : Packet) : Timed.Statement (.kvPin p) := .inl rfl
theorem Timed.kvEvict (p : Packet) : Timed.Statement (.kvEvict p) := .inl rfl
theorem Timed.kvPrefetch (p : Packet) : Timed.Statement (.kvPrefetch p) := .inl rfl
theorem Timed.adpSetCreate (p : Packet) : Timed.Statement (.adpSetCreate p) := .inl rfl
theorem Timed.adpSetXfer (p : Packet) : Timed.Statement (.adpSetXfer p) := .inl rfl
theorem Timed.adpSetClose (p : Packet) : Timed.Statement (.adpSetClose p) := .inl rfl
theorem Timed.adpFwdSave (p : Packet) : Timed.Statement (.adpFwdSave p) := .inl rfl
theorem Timed.adpBwd (p : Packet) : Timed.Statement (.adpBwd p) := .inl rfl
theorem Timed.adpUpdate (p : Packet) : Timed.Statement (.adpUpdate p) := .inl rfl
theorem Timed.tileRead (p : Packet) : Timed.Statement (.tileRead p) := .inl rfl
theorem Timed.tileWrite (p : Packet) : Timed.Statement (.tileWrite p) := .inl rfl
theorem Timed.recipeSet (p : Packet) : Timed.Statement (.recipeSet p) := .inl rfl
theorem Timed.calRun (p : Packet) : Timed.Statement (.calRun p) := .inl rfl
theorem Timed.calTableRead (p : Packet) : Timed.Statement (.calTableRead p) := .inl rfl
theorem Timed.timeSet (p : Packet) : Timed.Statement (.timeSet p) := .inl rfl
theorem Timed.beatSet (p : Packet) : Timed.Statement (.beatSet p) := .inl rfl
theorem Timed.jrnlAck (p : Packet) : Timed.Statement (.jrnlAck p) := .inl rfl
theorem Timed.testPackLoad (p : Packet) : Timed.Statement (.testPackLoad p) := .inl rfl
theorem Timed.testPackRun (p : Packet) : Timed.Statement (.testPackRun p) := .inl rfl
theorem Timed.errDrain (p : Packet) : Timed.Statement (.errDrain p) := .inl rfl
theorem Timed.cperExport (p : Packet) : Timed.Statement (.cperExport p) := .inl rfl
theorem Timed.reset (p : Packet) : Timed.Statement (.reset p) := .inl rfl
theorem Timed.pairJoin (p : Packet) : Timed.Statement (.pairJoin p) := .inl rfl
theorem Timed.pairLeave (p : Packet) : Timed.Statement (.pairLeave p) := .inl rfl
theorem Timed.pairTakeover (p : Packet) : Timed.Statement (.pairTakeover p) := .inl rfl
theorem Timed.pairUnmirrored (p : Packet) : Timed.Statement (.pairUnmirrored p) := .inl rfl
theorem Timed.attestGet (p : Packet) : Timed.Statement (.attestGet p) := .inl rfl
theorem Timed.macsecKey (p : Packet) : Timed.Statement (.macsecKey p) := .inl rfl
theorem Timed.fwUpdate (p : Packet) : Timed.Statement (.fwUpdate p) := .inl rfl
theorem Timed.pwrCapSet (p : Packet) : Timed.Statement (.pwrCapSet p) := .inl rfl
theorem Timed.thermSet (p : Packet) : Timed.Statement (.thermSet p) := .inl rfl
theorem Timed.pwrStateSet (p : Packet) : Timed.Statement (.pwrStateSet p) := .inl rfl
theorem Timed.regRead (p : Packet) : Timed.Statement (.regRead p) := .inl rfl
theorem Timed.regWrite (p : Packet) : Timed.Statement (.regWrite p) := .inl rfl
theorem Timed.diagEcho (p : Packet) : Timed.Statement (.diagEcho p) := .inl rfl
theorem Timed.cntClear (ts : Nat) (vi : Nat) (yelm : Nat) (value : Reg) : Timed.Statement (.cntClear ts vi yelm value) := .inl rfl
theorem Timed.clrUnit (ts : Nat) (vi : Nat) (value : Reg) : Timed.Statement (.clrUnit ts vi value) := .inl rfl
theorem Timed.clrAll (ts : Nat) (vi : Nat) (value : Reg) : Timed.Statement (.clrAll ts vi value) := .inl rfl
theorem Timed.flagWindowWrite (ts : Nat) (vi : Nat) (value : Reg) : Timed.Statement (.flagWindowWrite ts vi value) := .inl rfl
theorem Timed.portModeWrite (ts : Nat) (vi : Nat) (port : Nat) (value : Reg) : Timed.Statement (.portModeWrite ts vi port value) := .inl rfl
theorem Timed.calReq (ts : Nat) (vi : Nat) (value : Reg) : Timed.Statement (.calReq ts vi value) := .inl rfl
theorem Timed.seqCfgWrite (ts : Nat) (vi : Nat) (entry : Nat) (value : Reg) : Timed.Statement (.seqCfgWrite ts vi entry value) := .inl rfl
theorem Timed.wakeAtHiWrite (ts : Nat) (vi : Nat) (value : Reg) : Timed.Statement (.wakeAtHiWrite ts vi value) := .inl rfl
theorem Timed.svnCommit (ts : Nat) (vi : Nat) (value : Reg) : Timed.Statement (.svnCommit ts vi value) := .inl rfl
theorem Timed.opkeyCommit (ts : Nat) (vi : Nat) (value : Reg) : Timed.Statement (.opkeyCommit ts vi value) := .inl rfl
theorem Timed.opkeyRevoke (ts : Nat) (vi : Nat) (value : Reg) : Timed.Statement (.opkeyRevoke ts vi value) := .inl rfl
theorem Timed.msOff (ts : Nat) (vi : Nat) (value : Reg) : Timed.Statement (.msOff ts vi value) := .inl rfl
theorem Timed.stampLoRead (ts : Nat) (vi : Nat) : Timed.Statement (.stampLoRead ts vi) := .inl rfl
theorem Timed.beatNumLoRead (ts : Nat) (vi : Nat) : Timed.Statement (.beatNumLoRead ts vi) := .inl rfl
theorem Timed.energyMjLoRead (ts : Nat) (vi : Nat) : Timed.Statement (.energyMjLoRead ts vi) := .inl rfl
theorem Timed.txPnLoRead (ts : Nat) (vi : Nat) : Timed.Statement (.txPnLoRead ts vi) := .inl rfl
theorem Timed.idRead (r : SbRequest) : Timed.Statement (.idRead r) := .inl rfl
theorem Timed.statusRead (r : SbRequest) : Timed.Statement (.statusRead r) := .inl rfl
theorem Timed.regReadSb (r : SbRequest) : Timed.Statement (.regReadSb r) := .inl rfl
theorem Timed.vi0AddrWrite (r : SbRequest) : Timed.Statement (.vi0AddrWrite r) := .inl rfl
theorem Timed.vi0AddrRead (r : SbRequest) : Timed.Statement (.vi0AddrRead r) := .inl rfl
theorem Timed.wake (r : SbRequest) : Timed.Statement (.wake r) := .inl rfl
theorem Timed.serviceRestore (r : SbRequest) : Timed.Statement (.serviceRestore r) := .inl rfl
theorem Timed.fwRecoverBegin (r : SbRequest) : Timed.Statement (.fwRecoverBegin r) := .inl rfl
theorem Timed.fwRecoverData (r : SbRequest) : Timed.Statement (.fwRecoverData r) := .inl rfl
theorem Timed.fwRecoverEnd (r : SbRequest) : Timed.Statement (.fwRecoverEnd r) := .inl rfl
theorem Timed.testPortInstruction (ts : Nat) (code : TapInstr) : Timed.Statement (.testPortInstruction ts code) := .inl rfl
theorem Timed.rxFrame (f : Frame) : Timed.Statement (.rxFrame f) := .inl rfl
theorem Timed.pfcFrame (ts : Nat) (lp : Nat) (prio : Nat) (xoff : Bool) : Timed.Statement (.pfcFrame ts lp prio xoff) := .inl rfl
theorem Timed.cnp (ts : Nat) (vi : Nat) (rc : Nat) : Timed.Statement (.cnp ts vi rc) := .inl rfl
theorem Timed.ccRateIncrease (ts : Nat) (vi : Nat) (rc : Nat) : Timed.Statement (.ccRateIncrease ts vi rc) := .inl rfl
theorem Timed.pfcWatchdog (ts : Nat) (lp : Nat) (prio : Nat) : Timed.Statement (.pfcWatchdog ts lp prio) := .inl rfl
theorem Timed.neighbourExpiry (ts : Nat) (addr : BitVec 128) : Timed.Statement (.neighbourExpiry ts addr) := .inl rfl
theorem Timed.rdmaResponse (ts : Nat) (vi : Nat) (rc : Nat) (r : RdmaReply) : Timed.Statement (.rdmaResponse ts vi rc r) := .inl rfl
theorem Timed.pullFetchResponse (ts : Nat) (vi : Nat) (queue : Nat) (lport : Nat) (slots : List (List Byte)) : Timed.Statement (.pullFetchResponse ts vi queue lport slots) := .inl rfl
theorem Timed.rcAckTimeout (ts : Nat) (vi : Nat) (rc : Nat) : Timed.Statement (.rcAckTimeout ts vi rc) := .inl rfl
theorem Timed.transferTimeout (ts : Nat) (vi : Nat) (rc : Nat) : Timed.Statement (.transferTimeout ts vi rc) := .inl rfl
theorem Timed.linkDown (ts : Nat) (lp : Nat) : Timed.Statement (.linkDown ts lp) := .inl rfl
theorem Timed.linkUp (ts : Nat) (lp : Nat) : Timed.Statement (.linkUp ts lp) := .inl rfl
theorem Timed.wakePacket (f : Frame) : Timed.Statement (.wakePacket f) := .inl rfl
theorem Timed.stepAdmit (ts : Nat) : Timed.Statement (.stepAdmit ts) := .inl rfl
theorem Timed.waveClose (ts : Nat) (vi : Nat) (proj : Nat) : Timed.Statement (.waveClose ts vi proj) := .inl rfl
theorem Timed.bandReadStart (ts : Nat) (yelm : Nat) (array : Nat) (d1 : Int) (d2 : Int) (crcOk : Bool) : Timed.Statement (.bandReadStart ts yelm array d1 d2 crcOk) := .inl rfl
theorem Timed.tritCycle (ts : Nat) (yelm : Nat) : Timed.Statement (.tritCycle ts yelm) := .inl rfl
theorem Timed.bandReadEnd (ts : Nat) (yelm : Nat) (array : Nat) : Timed.Statement (.bandReadEnd ts yelm array) := .inl rfl
theorem Timed.chainHopReceive (ts : Nat) (wave : Nat) (slot : Nat) (yelm : Nat) (channel : Nat) : Timed.Statement (.chainHopReceive ts wave slot yelm channel) := .inl rfl
theorem Timed.layerOperationEnd (ts : Nat) (wave : Nat) (slot : Nat) : Timed.Statement (.layerOperationEnd ts wave slot) := .inl rfl
theorem Timed.transposeRead (ts : Nat) (yelm : Nat) (array : Nat) (step : Nat) (tok : Nat) : Timed.Statement (.transposeRead ts yelm array step tok) := .inl rfl
theorem Timed.embed (ts : Nat) (step : Nat) (tok : Nat) : Timed.Statement (.embed ts step tok) := .inl rfl
theorem Timed.norm (ts : Nat) (step : Nat) (tok : Nat) : Timed.Statement (.norm ts step tok) := .inl rfl
theorem Timed.attn (ts : Nat) (step : Nat) (tok : Nat) : Timed.Statement (.attn ts step tok) := .inl rfl
theorem Timed.act (ts : Nat) (step : Nat) (tok : Nat) : Timed.Statement (.act ts step tok) := .inl rfl
theorem Timed.resid (ts : Nat) (step : Nat) (tok : Nat) : Timed.Statement (.resid ts step tok) := .inl rfl
theorem Timed.route (ts : Nat) (step : Nat) (tok : Nat) : Timed.Statement (.route ts step tok) := .inl rfl
theorem Timed.experts (ts : Nat) (step : Nat) (tok : Nat) : Timed.Statement (.experts ts step tok) := .inl rfl
theorem Timed.head (ts : Nat) (step : Nat) (tok : Nat) : Timed.Statement (.head ts step tok) := .inl rfl
theorem Timed.stepCommit (ts : Nat) (step : Nat) : Timed.Statement (.stepCommit ts step) := .inl rfl
theorem Timed.stepEnd (ts : Nat) (step : Nat) : Timed.Statement (.stepEnd ts step) := .inl rfl
theorem Timed.completionSend (ts : Nat) (vi : Nat) (queue : Nat) : Timed.Statement (.completionSend ts vi queue) := .inl rfl
theorem Timed.cplRetry (ts : Nat) (vi : Nat) (queue : Nat) (psn : Nat) : Timed.Statement (.cplRetry ts vi queue psn) := .inl rfl
theorem Timed.t1Reclaim (ts : Nat) (vi : Nat) : Timed.Statement (.t1Reclaim ts vi) := .inl rfl
theorem Timed.spillComplete (ts : Nat) (vi : Nat) (page : Nat) : Timed.Statement (.spillComplete ts vi page) := .inl rfl
theorem Timed.fetchComplete (ts : Nat) (vi : Nat) (page : Nat) (data : List Byte) : Timed.Statement (.fetchComplete ts vi page data) := .inl rfl
theorem Timed.imgCheckPassEnd (ts : Nat) (vi : Nat) (src : SourceRead) : Timed.Statement (.imgCheckPassEnd ts vi src) := .inl rfl
theorem Timed.rowProgram (ts : Nat) (yelm : Nat) (array : Nat) (attempts : Nat) (ok : Bool) : Timed.Statement (.rowProgram ts yelm array attempts ok) := .inl rfl
theorem Timed.arrayProgrammed (ts : Nat) (yelm : Nat) (array : Nat) : Timed.Statement (.arrayProgrammed ts yelm array) := .inl rfl
theorem Timed.arrayEraseDone (ts : Nat) (yelm : Nat) (array : Nat) : Timed.Statement (.arrayEraseDone ts yelm array) := .inl rfl
theorem Timed.swapUnitStart (ts : Nat) (vi : Nat) (unit : Nat) : Timed.Statement (.swapUnitStart ts vi unit) := .inl rfl
theorem Timed.refreshSliceEnd (ts : Nat) (yelm : Nat) (array : Nat) (bad : List Nat) : Timed.Statement (.refreshSliceEnd ts yelm array bad) := .inl rfl
theorem Timed.spareSwitch (ts : Nat) (yelm : Nat) (array : Nat) : Timed.Statement (.spareSwitch ts yelm array) := .inl rfl
theorem Timed.retireRetry (ts : Nat) (yelm : Nat) (array : Nat) : Timed.Statement (.retireRetry ts yelm array) := .inl rfl
theorem Timed.suspectMarkExpiry (ts : Nat) (yelm : Nat) (array : Nat) : Timed.Statement (.suspectMarkExpiry ts yelm array) := .inl rfl
theorem Timed.eccError (ts : Nat) (e : EccError) : Timed.Statement (.eccError ts e) := .inl rfl
theorem Timed.residueFail (ts : Nat) (unit : Nat) (place : Nat) (step : Nat) : Timed.Statement (.residueFail ts unit place step) := .inl rfl
theorem Timed.beatBoundary : Timed.Statement (.beatBoundary) := .inr rfl
theorem Timed.flagWindowEnd (ts : Nat) (vi : Nat) : Timed.Statement (.flagWindowEnd ts vi) := .inl rfl
theorem Timed.heartbeat (ts : Nat) : Timed.Statement (.heartbeat ts) := .inl rfl
theorem Timed.heartbeatLost (ts : Nat) : Timed.Statement (.heartbeatLost ts) := .inl rfl
theorem Timed.resetEnd (ts : Nat) (domain : Nat) (target : Nat) : Timed.Statement (.resetEnd ts domain target) := .inl rfl
theorem Timed.replay (ts : Nat) (vi : Nat) : Timed.Statement (.replay ts vi) := .inl rfl
theorem Timed.teardownComplete (ts : Nat) (vi : Nat) : Timed.Statement (.teardownComplete ts vi) := .inl rfl
theorem Timed.rotationPass (ts : Nat) : Timed.Statement (.rotationPass ts) := .inl rfl
theorem Timed.yelmCalibrationStart (ts : Nat) (yelm : Nat) : Timed.Statement (.yelmCalibrationStart ts yelm) := .inl rfl
theorem Timed.yelmCalibrationEnd (ts : Nat) (yelm : Nat) (found : List TapFound) : Timed.Statement (.yelmCalibrationEnd ts yelm found) := .inl rfl
theorem Timed.calStoreWriteDone (ts : Nat) (yelm : Nat) : Timed.Statement (.calStoreWriteDone ts yelm) := .inl rfl
theorem Timed.testEnd (ts : Nat) (pack : Nat) (yelm : Nat) (array : Nat) (result : TestResult) : Timed.Statement (.testEnd ts pack yelm array result) := .inl rfl
theorem Timed.monitorConversion (ts : Nat) (entry : Nat) (sub : Nat) (ratios : List Int) (settled : Bool) : Timed.Statement (.monitorConversion ts entry sub ratios settled) := .inl rfl
theorem Timed.refSettleTimeout (ts : Nat) : Timed.Statement (.refSettleTimeout ts) := .inl rfl
theorem Timed.floorWrite (ts : Nat) : Timed.Statement (.floorWrite ts) := .inl rfl
theorem Timed.thermalSample (ts : Nat) (die : Nat) (temp : Int) : Timed.Statement (.thermalSample ts die temp) := .inl rfl
theorem Timed.governorTick (ts : Nat) (rails : List RailSample) : Timed.Statement (.governorTick ts rails) := .inl rfl
theorem Timed.pbrakeAssert (ts : Nat) : Timed.Statement (.pbrakeAssert ts) := .inl rfl
theorem Timed.pbrakeRelease (ts : Nat) : Timed.Statement (.pbrakeRelease ts) := .inl rfl
theorem Timed.brakeRampTick (ts : Nat) : Timed.Statement (.brakeRampTick ts) := .inl rfl
theorem Timed.wakeL (ts : Nat) : Timed.Statement (.wakeL ts) := .inl rfl
theorem Timed.wakeAt (ts : Nat) : Timed.Statement (.wakeAt ts) := .inl rfl
theorem Timed.powerStateEntry (ts : Nat) : Timed.Statement (.powerStateEntry ts) := .inl rfl
theorem Timed.powerStateExit (ts : Nat) : Timed.Statement (.powerStateExit ts) := .inl rfl
theorem Timed.powerUp (ts : Nat) (pufOk : Bool) : Timed.Statement (.powerUp ts pufOk) := .inl rfl
theorem Timed.pwrOkRise (ts : Nat) : Timed.Statement (.pwrOkRise ts) := .inl rfl
theorem Timed.pwrOkFall (ts : Nat) : Timed.Statement (.pwrOkFall ts) := .inl rfl
theorem Timed.sysResetL (ts : Nat) : Timed.Statement (.sysResetL ts) := .inl rfl
theorem Timed.refLoss (ts : Nat) (ref : Nat) : Timed.Statement (.refLoss ts ref) := .inl rfl
theorem Timed.refReturn (ts : Nat) (ref : Nat) : Timed.Statement (.refReturn ts ref) := .inl rfl
theorem Timed.sync (ts : Nat) (port : Nat) (m : SyncMsg) : Timed.Statement (.sync ts port m) := .inl rfl
theorem Timed.announce (ts : Nat) (port : Nat) (a : AnnounceMsg) : Timed.Statement (.announce ts port a) := .inl rfl
theorem Timed.announceTimeout (ts : Nat) (port : Nat) : Timed.Statement (.announceTimeout ts port) := .inl rfl
theorem Timed.trefPps (ts : Nat) (phase : Nat) : Timed.Statement (.trefPps ts phase) := .inl rfl
theorem Timed.ppsTimeout (ts : Nat) : Timed.Statement (.ppsTimeout ts) := .inl rfl
theorem Timed.tenMhzLoss (ts : Nat) : Timed.Statement (.tenMhzLoss ts) := .inl rfl
theorem Timed.sourceReturnTimer (ts : Nat) : Timed.Statement (.sourceReturnTimer ts) := .inl rfl
theorem Timed.mirrorRecord (ts : Nat) (vi : Nat) (r : MirrorRecord) : Timed.Statement (.mirrorRecord ts vi r) := .inl rfl
theorem Timed.ack (ts : Nat) (vi : Nat) (seqno : Nat) (stamp : Nat) : Timed.Statement (.ack ts vi seqno stamp) := .inl rfl
theorem Timed.depose (ts : Nat) (vi : Nat) : Timed.Statement (.depose ts vi) := .inl rfl
theorem Timed.deposed (ts : Nat) (vi : Nat) : Timed.Statement (.deposed ts vi) := .inl rfl
theorem Timed.leave (ts : Nat) (vi : Nat) : Timed.Statement (.leave ts vi) := .inl rfl
theorem Timed.keepalive (ts : Nat) (vi : Nat) : Timed.Statement (.keepalive ts vi) := .inl rfl
theorem Timed.leaseExpiry (ts : Nat) (vi : Nat) : Timed.Statement (.leaseExpiry ts vi) := .inl rfl
theorem Timed.deposeTimeout (ts : Nat) (vi : Nat) : Timed.Statement (.deposeTimeout ts vi) := .inl rfl
theorem Timed.joinTimeout (ts : Nat) (vi : Nat) : Timed.Statement (.joinTimeout ts vi) := .inl rfl
theorem Timed.attestBatchClose (ts : Nat) : Timed.Statement (.attestBatchClose ts) := .inl rfl
theorem Timed.lmsTreeDerived (ts : Nat) : Timed.Statement (.lmsTreeDerived ts) := .inl rfl
theorem Timed.powerLoss (ts : Nat) : Timed.Statement (.powerLoss ts) := .inl rfl
theorem Timed.sysResetLRelease (ts : Nat) : Timed.Statement (.sysResetLRelease ts) := .inl rfl
theorem Timed.tenMhzLock (ts : Nat) : Timed.Statement (.tenMhzLock ts) := .inl rfl
theorem Timed.unknownOpcode (p : Packet) : Timed.Statement (.unknownOpcode p) := .inl rfl
theorem Timed.unknownSidebandCode (r : SbRequest) (code : Nat) : Timed.Statement (.unknownSidebandCode r code) := .inl rfl
theorem Timed.ptpDelayResponse (ts : Nat) (port : Nat) (delay : Nat) : Timed.Statement (.ptpDelayResponse ts port delay) := .inl rfl
theorem Timed.fwSlotWritten (ts : Nat) (verified : Bool) : Timed.Statement (.fwSlotWritten ts verified) := .inl rfl

end Sys2Proof.Laws
end

