-- ==== Sys2Proof/Laws/State.lean ====
section
/-! SUPPORT. What each update of State leaves in each field: one lemma per field per update, so that no proof unfolds an update. -/
namespace Sys2Proof.Machine

@[simp] theorem State.upto_pending (s : State) (ts : Nat) : (s.upto ts).pending = s.pending := rfl
@[simp] theorem State.upto_now (s : State) (ts : Nat) : (s.upto ts).now = max s.now ts := rfl
@[simp] theorem State.upto_draws (s : State) (ts : Nat) : (s.upto ts).draws = s.draws := rfl
@[simp] theorem State.upto_outbox (s : State) (ts : Nat) : (s.upto ts).outbox = s.outbox := rfl
@[simp] theorem State.upto_nextStep (s : State) (ts : Nat) : (s.upto ts).nextStep = s.nextStep := rfl
@[simp] theorem State.upto_nextWave (s : State) (ts : Nat) : (s.upto ts).nextWave = s.nextWave := rfl
@[simp] theorem State.upto_net (s : State) (ts : Nat) : (s.upto ts).net = s.net := rfl
@[simp] theorem State.upto_vis (s : State) (ts : Nat) : (s.upto ts).vis = s.vis := rfl
@[simp] theorem State.upto_steps (s : State) (ts : Nat) : (s.upto ts).steps = s.steps := rfl
@[simp] theorem State.upto_waves (s : State) (ts : Nat) : (s.upto ts).waves = s.waves := rfl
@[simp] theorem State.upto_yelms (s : State) (ts : Nat) : (s.upto ts).yelms = s.yelms := rfl
@[simp] theorem State.upto_hbm (s : State) (ts : Nat) : (s.upto ts).hbm = s.hbm := rfl
@[simp] theorem State.upto_time (s : State) (ts : Nat) : (s.upto ts).time = s.time := rfl
@[simp] theorem State.upto_err (s : State) (ts : Nat) : (s.upto ts).err = s.err := rfl
@[simp] theorem State.upto_cal (s : State) (ts : Nat) : (s.upto ts).cal = s.cal := rfl
@[simp] theorem State.upto_mon (s : State) (ts : Nat) : (s.upto ts).mon = s.mon := rfl
@[simp] theorem State.upto_pwr (s : State) (ts : Nat) : (s.upto ts).pwr = s.pwr := rfl
@[simp] theorem State.upto_clk (s : State) (ts : Nat) : (s.upto ts).clk = s.clk := rfl
@[simp] theorem State.upto_sec (s : State) (ts : Nat) : (s.upto ts).sec = s.sec := rfl
@[simp] theorem State.upto_pins (s : State) (ts : Nat) : (s.upto ts).pins = s.pins := rfl
@[simp] theorem State.upto_store (s : State) (ts : Nat) : (s.upto ts).store = s.store := rfl
@[simp] theorem State.upto_precView (s : State) (ts : Nat) : (s.upto ts).precView = s.precView := rfl
@[simp] theorem State.upto_pairView (s : State) (ts : Nat) : (s.upto ts).pairView = s.pairView := rfl
@[simp] theorem State.upto_free (s : State) (ts : Nat) : (s.upto ts).free = s.free := rfl

@[simp] theorem State.modVi_pending (s : State) (v : Nat) (f : Vi → Vi) : (s.modVi v f).pending = s.pending := rfl
@[simp] theorem State.modVi_now (s : State) (v : Nat) (f : Vi → Vi) : (s.modVi v f).now = s.now := rfl
@[simp] theorem State.modVi_draws (s : State) (v : Nat) (f : Vi → Vi) : (s.modVi v f).draws = s.draws := rfl
@[simp] theorem State.modVi_outbox (s : State) (v : Nat) (f : Vi → Vi) : (s.modVi v f).outbox = s.outbox := rfl
@[simp] theorem State.modVi_nextStep (s : State) (v : Nat) (f : Vi → Vi) : (s.modVi v f).nextStep = s.nextStep := rfl
@[simp] theorem State.modVi_nextWave (s : State) (v : Nat) (f : Vi → Vi) : (s.modVi v f).nextWave = s.nextWave := rfl
@[simp] theorem State.modVi_net (s : State) (v : Nat) (f : Vi → Vi) : (s.modVi v f).net = s.net := rfl
@[simp] theorem State.modVi_vis (s : State) (v : Nat) (f : Vi → Vi) : (s.modVi v f).vis = tmod s.vis v f := rfl
@[simp] theorem State.modVi_steps (s : State) (v : Nat) (f : Vi → Vi) : (s.modVi v f).steps = s.steps := rfl
@[simp] theorem State.modVi_waves (s : State) (v : Nat) (f : Vi → Vi) : (s.modVi v f).waves = s.waves := rfl
@[simp] theorem State.modVi_yelms (s : State) (v : Nat) (f : Vi → Vi) : (s.modVi v f).yelms = s.yelms := rfl
@[simp] theorem State.modVi_hbm (s : State) (v : Nat) (f : Vi → Vi) : (s.modVi v f).hbm = s.hbm := rfl
@[simp] theorem State.modVi_time (s : State) (v : Nat) (f : Vi → Vi) : (s.modVi v f).time = s.time := rfl
@[simp] theorem State.modVi_err (s : State) (v : Nat) (f : Vi → Vi) : (s.modVi v f).err = s.err := rfl
@[simp] theorem State.modVi_cal (s : State) (v : Nat) (f : Vi → Vi) : (s.modVi v f).cal = s.cal := rfl
@[simp] theorem State.modVi_mon (s : State) (v : Nat) (f : Vi → Vi) : (s.modVi v f).mon = s.mon := rfl
@[simp] theorem State.modVi_pwr (s : State) (v : Nat) (f : Vi → Vi) : (s.modVi v f).pwr = s.pwr := rfl
@[simp] theorem State.modVi_clk (s : State) (v : Nat) (f : Vi → Vi) : (s.modVi v f).clk = s.clk := rfl
@[simp] theorem State.modVi_sec (s : State) (v : Nat) (f : Vi → Vi) : (s.modVi v f).sec = s.sec := rfl
@[simp] theorem State.modVi_pins (s : State) (v : Nat) (f : Vi → Vi) : (s.modVi v f).pins = s.pins := rfl
@[simp] theorem State.modVi_store (s : State) (v : Nat) (f : Vi → Vi) : (s.modVi v f).store = s.store := rfl
@[simp] theorem State.modVi_precView (s : State) (v : Nat) (f : Vi → Vi) : (s.modVi v f).precView = s.precView := rfl
@[simp] theorem State.modVi_pairView (s : State) (v : Nat) (f : Vi → Vi) : (s.modVi v f).pairView = s.pairView := rfl
@[simp] theorem State.modVi_free (s : State) (v : Nat) (f : Vi → Vi) : (s.modVi v f).free = s.free := rfl

@[simp] theorem State.setVi_pending (s : State) (v : Nat) (x : Vi) : (s.setVi v x).pending = s.pending := rfl
@[simp] theorem State.setVi_now (s : State) (v : Nat) (x : Vi) : (s.setVi v x).now = s.now := rfl
@[simp] theorem State.setVi_draws (s : State) (v : Nat) (x : Vi) : (s.setVi v x).draws = s.draws := rfl
@[simp] theorem State.setVi_outbox (s : State) (v : Nat) (x : Vi) : (s.setVi v x).outbox = s.outbox := rfl
@[simp] theorem State.setVi_nextStep (s : State) (v : Nat) (x : Vi) : (s.setVi v x).nextStep = s.nextStep := rfl
@[simp] theorem State.setVi_nextWave (s : State) (v : Nat) (x : Vi) : (s.setVi v x).nextWave = s.nextWave := rfl
@[simp] theorem State.setVi_net (s : State) (v : Nat) (x : Vi) : (s.setVi v x).net = s.net := rfl
@[simp] theorem State.setVi_vis (s : State) (v : Nat) (x : Vi) : (s.setVi v x).vis = tset s.vis v x := rfl
@[simp] theorem State.setVi_steps (s : State) (v : Nat) (x : Vi) : (s.setVi v x).steps = s.steps := rfl
@[simp] theorem State.setVi_waves (s : State) (v : Nat) (x : Vi) : (s.setVi v x).waves = s.waves := rfl
@[simp] theorem State.setVi_yelms (s : State) (v : Nat) (x : Vi) : (s.setVi v x).yelms = s.yelms := rfl
@[simp] theorem State.setVi_hbm (s : State) (v : Nat) (x : Vi) : (s.setVi v x).hbm = s.hbm := rfl
@[simp] theorem State.setVi_time (s : State) (v : Nat) (x : Vi) : (s.setVi v x).time = s.time := rfl
@[simp] theorem State.setVi_err (s : State) (v : Nat) (x : Vi) : (s.setVi v x).err = s.err := rfl
@[simp] theorem State.setVi_cal (s : State) (v : Nat) (x : Vi) : (s.setVi v x).cal = s.cal := rfl
@[simp] theorem State.setVi_mon (s : State) (v : Nat) (x : Vi) : (s.setVi v x).mon = s.mon := rfl
@[simp] theorem State.setVi_pwr (s : State) (v : Nat) (x : Vi) : (s.setVi v x).pwr = s.pwr := rfl
@[simp] theorem State.setVi_clk (s : State) (v : Nat) (x : Vi) : (s.setVi v x).clk = s.clk := rfl
@[simp] theorem State.setVi_sec (s : State) (v : Nat) (x : Vi) : (s.setVi v x).sec = s.sec := rfl
@[simp] theorem State.setVi_pins (s : State) (v : Nat) (x : Vi) : (s.setVi v x).pins = s.pins := rfl
@[simp] theorem State.setVi_store (s : State) (v : Nat) (x : Vi) : (s.setVi v x).store = s.store := rfl
@[simp] theorem State.setVi_precView (s : State) (v : Nat) (x : Vi) : (s.setVi v x).precView = s.precView := rfl
@[simp] theorem State.setVi_pairView (s : State) (v : Nat) (x : Vi) : (s.setVi v x).pairView = s.pairView := rfl
@[simp] theorem State.setVi_free (s : State) (v : Nat) (x : Vi) : (s.setVi v x).free = s.free := rfl

@[simp] theorem State.modStep_pending (s : State) (k : Nat) (f : Step → Step) : (s.modStep k f).pending = s.pending := rfl
@[simp] theorem State.modStep_now (s : State) (k : Nat) (f : Step → Step) : (s.modStep k f).now = s.now := rfl
@[simp] theorem State.modStep_draws (s : State) (k : Nat) (f : Step → Step) : (s.modStep k f).draws = s.draws := rfl
@[simp] theorem State.modStep_outbox (s : State) (k : Nat) (f : Step → Step) : (s.modStep k f).outbox = s.outbox := rfl
@[simp] theorem State.modStep_nextStep (s : State) (k : Nat) (f : Step → Step) : (s.modStep k f).nextStep = s.nextStep := rfl
@[simp] theorem State.modStep_nextWave (s : State) (k : Nat) (f : Step → Step) : (s.modStep k f).nextWave = s.nextWave := rfl
@[simp] theorem State.modStep_net (s : State) (k : Nat) (f : Step → Step) : (s.modStep k f).net = s.net := rfl
@[simp] theorem State.modStep_vis (s : State) (k : Nat) (f : Step → Step) : (s.modStep k f).vis = s.vis := rfl
@[simp] theorem State.modStep_steps (s : State) (k : Nat) (f : Step → Step) : (s.modStep k f).steps = tmod s.steps k f := rfl
@[simp] theorem State.modStep_waves (s : State) (k : Nat) (f : Step → Step) : (s.modStep k f).waves = s.waves := rfl
@[simp] theorem State.modStep_yelms (s : State) (k : Nat) (f : Step → Step) : (s.modStep k f).yelms = s.yelms := rfl
@[simp] theorem State.modStep_hbm (s : State) (k : Nat) (f : Step → Step) : (s.modStep k f).hbm = s.hbm := rfl
@[simp] theorem State.modStep_time (s : State) (k : Nat) (f : Step → Step) : (s.modStep k f).time = s.time := rfl
@[simp] theorem State.modStep_err (s : State) (k : Nat) (f : Step → Step) : (s.modStep k f).err = s.err := rfl
@[simp] theorem State.modStep_cal (s : State) (k : Nat) (f : Step → Step) : (s.modStep k f).cal = s.cal := rfl
@[simp] theorem State.modStep_mon (s : State) (k : Nat) (f : Step → Step) : (s.modStep k f).mon = s.mon := rfl
@[simp] theorem State.modStep_pwr (s : State) (k : Nat) (f : Step → Step) : (s.modStep k f).pwr = s.pwr := rfl
@[simp] theorem State.modStep_clk (s : State) (k : Nat) (f : Step → Step) : (s.modStep k f).clk = s.clk := rfl
@[simp] theorem State.modStep_sec (s : State) (k : Nat) (f : Step → Step) : (s.modStep k f).sec = s.sec := rfl
@[simp] theorem State.modStep_pins (s : State) (k : Nat) (f : Step → Step) : (s.modStep k f).pins = s.pins := rfl
@[simp] theorem State.modStep_store (s : State) (k : Nat) (f : Step → Step) : (s.modStep k f).store = s.store := rfl
@[simp] theorem State.modStep_precView (s : State) (k : Nat) (f : Step → Step) : (s.modStep k f).precView = s.precView := rfl
@[simp] theorem State.modStep_pairView (s : State) (k : Nat) (f : Step → Step) : (s.modStep k f).pairView = s.pairView := rfl
@[simp] theorem State.modStep_free (s : State) (k : Nat) (f : Step → Step) : (s.modStep k f).free = s.free := rfl

@[simp] theorem State.modWave_pending (s : State) (k : Nat) (f : Wave → Wave) : (s.modWave k f).pending = s.pending := rfl
@[simp] theorem State.modWave_now (s : State) (k : Nat) (f : Wave → Wave) : (s.modWave k f).now = s.now := rfl
@[simp] theorem State.modWave_draws (s : State) (k : Nat) (f : Wave → Wave) : (s.modWave k f).draws = s.draws := rfl
@[simp] theorem State.modWave_outbox (s : State) (k : Nat) (f : Wave → Wave) : (s.modWave k f).outbox = s.outbox := rfl
@[simp] theorem State.modWave_nextStep (s : State) (k : Nat) (f : Wave → Wave) : (s.modWave k f).nextStep = s.nextStep := rfl
@[simp] theorem State.modWave_nextWave (s : State) (k : Nat) (f : Wave → Wave) : (s.modWave k f).nextWave = s.nextWave := rfl
@[simp] theorem State.modWave_net (s : State) (k : Nat) (f : Wave → Wave) : (s.modWave k f).net = s.net := rfl
@[simp] theorem State.modWave_vis (s : State) (k : Nat) (f : Wave → Wave) : (s.modWave k f).vis = s.vis := rfl
@[simp] theorem State.modWave_steps (s : State) (k : Nat) (f : Wave → Wave) : (s.modWave k f).steps = s.steps := rfl
@[simp] theorem State.modWave_waves (s : State) (k : Nat) (f : Wave → Wave) : (s.modWave k f).waves = tmod s.waves k f := rfl
@[simp] theorem State.modWave_yelms (s : State) (k : Nat) (f : Wave → Wave) : (s.modWave k f).yelms = s.yelms := rfl
@[simp] theorem State.modWave_hbm (s : State) (k : Nat) (f : Wave → Wave) : (s.modWave k f).hbm = s.hbm := rfl
@[simp] theorem State.modWave_time (s : State) (k : Nat) (f : Wave → Wave) : (s.modWave k f).time = s.time := rfl
@[simp] theorem State.modWave_err (s : State) (k : Nat) (f : Wave → Wave) : (s.modWave k f).err = s.err := rfl
@[simp] theorem State.modWave_cal (s : State) (k : Nat) (f : Wave → Wave) : (s.modWave k f).cal = s.cal := rfl
@[simp] theorem State.modWave_mon (s : State) (k : Nat) (f : Wave → Wave) : (s.modWave k f).mon = s.mon := rfl
@[simp] theorem State.modWave_pwr (s : State) (k : Nat) (f : Wave → Wave) : (s.modWave k f).pwr = s.pwr := rfl
@[simp] theorem State.modWave_clk (s : State) (k : Nat) (f : Wave → Wave) : (s.modWave k f).clk = s.clk := rfl
@[simp] theorem State.modWave_sec (s : State) (k : Nat) (f : Wave → Wave) : (s.modWave k f).sec = s.sec := rfl
@[simp] theorem State.modWave_pins (s : State) (k : Nat) (f : Wave → Wave) : (s.modWave k f).pins = s.pins := rfl
@[simp] theorem State.modWave_store (s : State) (k : Nat) (f : Wave → Wave) : (s.modWave k f).store = s.store := rfl
@[simp] theorem State.modWave_precView (s : State) (k : Nat) (f : Wave → Wave) : (s.modWave k f).precView = s.precView := rfl
@[simp] theorem State.modWave_pairView (s : State) (k : Nat) (f : Wave → Wave) : (s.modWave k f).pairView = s.pairView := rfl
@[simp] theorem State.modWave_free (s : State) (k : Nat) (f : Wave → Wave) : (s.modWave k f).free = s.free := rfl

@[simp] theorem State.modNet_pending (s : State) (f : Net → Net) : (s.modNet f).pending = s.pending := rfl
@[simp] theorem State.modNet_now (s : State) (f : Net → Net) : (s.modNet f).now = s.now := rfl
@[simp] theorem State.modNet_draws (s : State) (f : Net → Net) : (s.modNet f).draws = s.draws := rfl
@[simp] theorem State.modNet_outbox (s : State) (f : Net → Net) : (s.modNet f).outbox = s.outbox := rfl
@[simp] theorem State.modNet_nextStep (s : State) (f : Net → Net) : (s.modNet f).nextStep = s.nextStep := rfl
@[simp] theorem State.modNet_nextWave (s : State) (f : Net → Net) : (s.modNet f).nextWave = s.nextWave := rfl
@[simp] theorem State.modNet_net (s : State) (f : Net → Net) : (s.modNet f).net = f s.net := rfl
@[simp] theorem State.modNet_vis (s : State) (f : Net → Net) : (s.modNet f).vis = s.vis := rfl
@[simp] theorem State.modNet_steps (s : State) (f : Net → Net) : (s.modNet f).steps = s.steps := rfl
@[simp] theorem State.modNet_waves (s : State) (f : Net → Net) : (s.modNet f).waves = s.waves := rfl
@[simp] theorem State.modNet_yelms (s : State) (f : Net → Net) : (s.modNet f).yelms = s.yelms := rfl
@[simp] theorem State.modNet_hbm (s : State) (f : Net → Net) : (s.modNet f).hbm = s.hbm := rfl
@[simp] theorem State.modNet_time (s : State) (f : Net → Net) : (s.modNet f).time = s.time := rfl
@[simp] theorem State.modNet_err (s : State) (f : Net → Net) : (s.modNet f).err = s.err := rfl
@[simp] theorem State.modNet_cal (s : State) (f : Net → Net) : (s.modNet f).cal = s.cal := rfl
@[simp] theorem State.modNet_mon (s : State) (f : Net → Net) : (s.modNet f).mon = s.mon := rfl
@[simp] theorem State.modNet_pwr (s : State) (f : Net → Net) : (s.modNet f).pwr = s.pwr := rfl
@[simp] theorem State.modNet_clk (s : State) (f : Net → Net) : (s.modNet f).clk = s.clk := rfl
@[simp] theorem State.modNet_sec (s : State) (f : Net → Net) : (s.modNet f).sec = s.sec := rfl
@[simp] theorem State.modNet_pins (s : State) (f : Net → Net) : (s.modNet f).pins = s.pins := rfl
@[simp] theorem State.modNet_store (s : State) (f : Net → Net) : (s.modNet f).store = s.store := rfl
@[simp] theorem State.modNet_precView (s : State) (f : Net → Net) : (s.modNet f).precView = s.precView := rfl
@[simp] theorem State.modNet_pairView (s : State) (f : Net → Net) : (s.modNet f).pairView = s.pairView := rfl
@[simp] theorem State.modNet_free (s : State) (f : Net → Net) : (s.modNet f).free = s.free := rfl

@[simp] theorem State.modErr_pending (s : State) (f : ErrBlk → ErrBlk) : (s.modErr f).pending = s.pending := rfl
@[simp] theorem State.modErr_now (s : State) (f : ErrBlk → ErrBlk) : (s.modErr f).now = s.now := rfl
@[simp] theorem State.modErr_draws (s : State) (f : ErrBlk → ErrBlk) : (s.modErr f).draws = s.draws := rfl
@[simp] theorem State.modErr_outbox (s : State) (f : ErrBlk → ErrBlk) : (s.modErr f).outbox = s.outbox := rfl
@[simp] theorem State.modErr_nextStep (s : State) (f : ErrBlk → ErrBlk) : (s.modErr f).nextStep = s.nextStep := rfl
@[simp] theorem State.modErr_nextWave (s : State) (f : ErrBlk → ErrBlk) : (s.modErr f).nextWave = s.nextWave := rfl
@[simp] theorem State.modErr_net (s : State) (f : ErrBlk → ErrBlk) : (s.modErr f).net = s.net := rfl
@[simp] theorem State.modErr_vis (s : State) (f : ErrBlk → ErrBlk) : (s.modErr f).vis = s.vis := rfl
@[simp] theorem State.modErr_steps (s : State) (f : ErrBlk → ErrBlk) : (s.modErr f).steps = s.steps := rfl
@[simp] theorem State.modErr_waves (s : State) (f : ErrBlk → ErrBlk) : (s.modErr f).waves = s.waves := rfl
@[simp] theorem State.modErr_yelms (s : State) (f : ErrBlk → ErrBlk) : (s.modErr f).yelms = s.yelms := rfl
@[simp] theorem State.modErr_hbm (s : State) (f : ErrBlk → ErrBlk) : (s.modErr f).hbm = s.hbm := rfl
@[simp] theorem State.modErr_time (s : State) (f : ErrBlk → ErrBlk) : (s.modErr f).time = s.time := rfl
@[simp] theorem State.modErr_err (s : State) (f : ErrBlk → ErrBlk) : (s.modErr f).err = f s.err := rfl
@[simp] theorem State.modErr_cal (s : State) (f : ErrBlk → ErrBlk) : (s.modErr f).cal = s.cal := rfl
@[simp] theorem State.modErr_mon (s : State) (f : ErrBlk → ErrBlk) : (s.modErr f).mon = s.mon := rfl
@[simp] theorem State.modErr_pwr (s : State) (f : ErrBlk → ErrBlk) : (s.modErr f).pwr = s.pwr := rfl
@[simp] theorem State.modErr_clk (s : State) (f : ErrBlk → ErrBlk) : (s.modErr f).clk = s.clk := rfl
@[simp] theorem State.modErr_sec (s : State) (f : ErrBlk → ErrBlk) : (s.modErr f).sec = s.sec := rfl
@[simp] theorem State.modErr_pins (s : State) (f : ErrBlk → ErrBlk) : (s.modErr f).pins = s.pins := rfl
@[simp] theorem State.modErr_store (s : State) (f : ErrBlk → ErrBlk) : (s.modErr f).store = s.store := rfl
@[simp] theorem State.modErr_precView (s : State) (f : ErrBlk → ErrBlk) : (s.modErr f).precView = s.precView := rfl
@[simp] theorem State.modErr_pairView (s : State) (f : ErrBlk → ErrBlk) : (s.modErr f).pairView = s.pairView := rfl
@[simp] theorem State.modErr_free (s : State) (f : ErrBlk → ErrBlk) : (s.modErr f).free = s.free := rfl

@[simp] theorem State.modTime_pending (s : State) (f : TimeBlk → TimeBlk) : (s.modTime f).pending = s.pending := rfl
@[simp] theorem State.modTime_now (s : State) (f : TimeBlk → TimeBlk) : (s.modTime f).now = s.now := rfl
@[simp] theorem State.modTime_draws (s : State) (f : TimeBlk → TimeBlk) : (s.modTime f).draws = s.draws := rfl
@[simp] theorem State.modTime_outbox (s : State) (f : TimeBlk → TimeBlk) : (s.modTime f).outbox = s.outbox := rfl
@[simp] theorem State.modTime_nextStep (s : State) (f : TimeBlk → TimeBlk) : (s.modTime f).nextStep = s.nextStep := rfl
@[simp] theorem State.modTime_nextWave (s : State) (f : TimeBlk → TimeBlk) : (s.modTime f).nextWave = s.nextWave := rfl
@[simp] theorem State.modTime_net (s : State) (f : TimeBlk → TimeBlk) : (s.modTime f).net = s.net := rfl
@[simp] theorem State.modTime_vis (s : State) (f : TimeBlk → TimeBlk) : (s.modTime f).vis = s.vis := rfl
@[simp] theorem State.modTime_steps (s : State) (f : TimeBlk → TimeBlk) : (s.modTime f).steps = s.steps := rfl
@[simp] theorem State.modTime_waves (s : State) (f : TimeBlk → TimeBlk) : (s.modTime f).waves = s.waves := rfl
@[simp] theorem State.modTime_yelms (s : State) (f : TimeBlk → TimeBlk) : (s.modTime f).yelms = s.yelms := rfl
@[simp] theorem State.modTime_hbm (s : State) (f : TimeBlk → TimeBlk) : (s.modTime f).hbm = s.hbm := rfl
@[simp] theorem State.modTime_time (s : State) (f : TimeBlk → TimeBlk) : (s.modTime f).time = f s.time := rfl
@[simp] theorem State.modTime_err (s : State) (f : TimeBlk → TimeBlk) : (s.modTime f).err = s.err := rfl
@[simp] theorem State.modTime_cal (s : State) (f : TimeBlk → TimeBlk) : (s.modTime f).cal = s.cal := rfl
@[simp] theorem State.modTime_mon (s : State) (f : TimeBlk → TimeBlk) : (s.modTime f).mon = s.mon := rfl
@[simp] theorem State.modTime_pwr (s : State) (f : TimeBlk → TimeBlk) : (s.modTime f).pwr = s.pwr := rfl
@[simp] theorem State.modTime_clk (s : State) (f : TimeBlk → TimeBlk) : (s.modTime f).clk = s.clk := rfl
@[simp] theorem State.modTime_sec (s : State) (f : TimeBlk → TimeBlk) : (s.modTime f).sec = s.sec := rfl
@[simp] theorem State.modTime_pins (s : State) (f : TimeBlk → TimeBlk) : (s.modTime f).pins = s.pins := rfl
@[simp] theorem State.modTime_store (s : State) (f : TimeBlk → TimeBlk) : (s.modTime f).store = s.store := rfl
@[simp] theorem State.modTime_precView (s : State) (f : TimeBlk → TimeBlk) : (s.modTime f).precView = s.precView := rfl
@[simp] theorem State.modTime_pairView (s : State) (f : TimeBlk → TimeBlk) : (s.modTime f).pairView = s.pairView := rfl
@[simp] theorem State.modTime_free (s : State) (f : TimeBlk → TimeBlk) : (s.modTime f).free = s.free := rfl

@[simp] theorem State.modPwr_pending (s : State) (f : PwrBlk → PwrBlk) : (s.modPwr f).pending = s.pending := rfl
@[simp] theorem State.modPwr_now (s : State) (f : PwrBlk → PwrBlk) : (s.modPwr f).now = s.now := rfl
@[simp] theorem State.modPwr_draws (s : State) (f : PwrBlk → PwrBlk) : (s.modPwr f).draws = s.draws := rfl
@[simp] theorem State.modPwr_outbox (s : State) (f : PwrBlk → PwrBlk) : (s.modPwr f).outbox = s.outbox := rfl
@[simp] theorem State.modPwr_nextStep (s : State) (f : PwrBlk → PwrBlk) : (s.modPwr f).nextStep = s.nextStep := rfl
@[simp] theorem State.modPwr_nextWave (s : State) (f : PwrBlk → PwrBlk) : (s.modPwr f).nextWave = s.nextWave := rfl
@[simp] theorem State.modPwr_net (s : State) (f : PwrBlk → PwrBlk) : (s.modPwr f).net = s.net := rfl
@[simp] theorem State.modPwr_vis (s : State) (f : PwrBlk → PwrBlk) : (s.modPwr f).vis = s.vis := rfl
@[simp] theorem State.modPwr_steps (s : State) (f : PwrBlk → PwrBlk) : (s.modPwr f).steps = s.steps := rfl
@[simp] theorem State.modPwr_waves (s : State) (f : PwrBlk → PwrBlk) : (s.modPwr f).waves = s.waves := rfl
@[simp] theorem State.modPwr_yelms (s : State) (f : PwrBlk → PwrBlk) : (s.modPwr f).yelms = s.yelms := rfl
@[simp] theorem State.modPwr_hbm (s : State) (f : PwrBlk → PwrBlk) : (s.modPwr f).hbm = s.hbm := rfl
@[simp] theorem State.modPwr_time (s : State) (f : PwrBlk → PwrBlk) : (s.modPwr f).time = s.time := rfl
@[simp] theorem State.modPwr_err (s : State) (f : PwrBlk → PwrBlk) : (s.modPwr f).err = s.err := rfl
@[simp] theorem State.modPwr_cal (s : State) (f : PwrBlk → PwrBlk) : (s.modPwr f).cal = s.cal := rfl
@[simp] theorem State.modPwr_mon (s : State) (f : PwrBlk → PwrBlk) : (s.modPwr f).mon = s.mon := rfl
@[simp] theorem State.modPwr_pwr (s : State) (f : PwrBlk → PwrBlk) : (s.modPwr f).pwr = f s.pwr := rfl
@[simp] theorem State.modPwr_clk (s : State) (f : PwrBlk → PwrBlk) : (s.modPwr f).clk = s.clk := rfl
@[simp] theorem State.modPwr_sec (s : State) (f : PwrBlk → PwrBlk) : (s.modPwr f).sec = s.sec := rfl
@[simp] theorem State.modPwr_pins (s : State) (f : PwrBlk → PwrBlk) : (s.modPwr f).pins = s.pins := rfl
@[simp] theorem State.modPwr_store (s : State) (f : PwrBlk → PwrBlk) : (s.modPwr f).store = s.store := rfl
@[simp] theorem State.modPwr_precView (s : State) (f : PwrBlk → PwrBlk) : (s.modPwr f).precView = s.precView := rfl
@[simp] theorem State.modPwr_pairView (s : State) (f : PwrBlk → PwrBlk) : (s.modPwr f).pairView = s.pairView := rfl
@[simp] theorem State.modPwr_free (s : State) (f : PwrBlk → PwrBlk) : (s.modPwr f).free = s.free := rfl

@[simp] theorem State.modMon_pending (s : State) (f : MonBlk → MonBlk) : (s.modMon f).pending = s.pending := rfl
@[simp] theorem State.modMon_now (s : State) (f : MonBlk → MonBlk) : (s.modMon f).now = s.now := rfl
@[simp] theorem State.modMon_draws (s : State) (f : MonBlk → MonBlk) : (s.modMon f).draws = s.draws := rfl
@[simp] theorem State.modMon_outbox (s : State) (f : MonBlk → MonBlk) : (s.modMon f).outbox = s.outbox := rfl
@[simp] theorem State.modMon_nextStep (s : State) (f : MonBlk → MonBlk) : (s.modMon f).nextStep = s.nextStep := rfl
@[simp] theorem State.modMon_nextWave (s : State) (f : MonBlk → MonBlk) : (s.modMon f).nextWave = s.nextWave := rfl
@[simp] theorem State.modMon_net (s : State) (f : MonBlk → MonBlk) : (s.modMon f).net = s.net := rfl
@[simp] theorem State.modMon_vis (s : State) (f : MonBlk → MonBlk) : (s.modMon f).vis = s.vis := rfl
@[simp] theorem State.modMon_steps (s : State) (f : MonBlk → MonBlk) : (s.modMon f).steps = s.steps := rfl
@[simp] theorem State.modMon_waves (s : State) (f : MonBlk → MonBlk) : (s.modMon f).waves = s.waves := rfl
@[simp] theorem State.modMon_yelms (s : State) (f : MonBlk → MonBlk) : (s.modMon f).yelms = s.yelms := rfl
@[simp] theorem State.modMon_hbm (s : State) (f : MonBlk → MonBlk) : (s.modMon f).hbm = s.hbm := rfl
@[simp] theorem State.modMon_time (s : State) (f : MonBlk → MonBlk) : (s.modMon f).time = s.time := rfl
@[simp] theorem State.modMon_err (s : State) (f : MonBlk → MonBlk) : (s.modMon f).err = s.err := rfl
@[simp] theorem State.modMon_cal (s : State) (f : MonBlk → MonBlk) : (s.modMon f).cal = s.cal := rfl
@[simp] theorem State.modMon_mon (s : State) (f : MonBlk → MonBlk) : (s.modMon f).mon = f s.mon := rfl
@[simp] theorem State.modMon_pwr (s : State) (f : MonBlk → MonBlk) : (s.modMon f).pwr = s.pwr := rfl
@[simp] theorem State.modMon_clk (s : State) (f : MonBlk → MonBlk) : (s.modMon f).clk = s.clk := rfl
@[simp] theorem State.modMon_sec (s : State) (f : MonBlk → MonBlk) : (s.modMon f).sec = s.sec := rfl
@[simp] theorem State.modMon_pins (s : State) (f : MonBlk → MonBlk) : (s.modMon f).pins = s.pins := rfl
@[simp] theorem State.modMon_store (s : State) (f : MonBlk → MonBlk) : (s.modMon f).store = s.store := rfl
@[simp] theorem State.modMon_precView (s : State) (f : MonBlk → MonBlk) : (s.modMon f).precView = s.precView := rfl
@[simp] theorem State.modMon_pairView (s : State) (f : MonBlk → MonBlk) : (s.modMon f).pairView = s.pairView := rfl
@[simp] theorem State.modMon_free (s : State) (f : MonBlk → MonBlk) : (s.modMon f).free = s.free := rfl

@[simp] theorem State.modCal_pending (s : State) (f : CalBlk → CalBlk) : (s.modCal f).pending = s.pending := rfl
@[simp] theorem State.modCal_now (s : State) (f : CalBlk → CalBlk) : (s.modCal f).now = s.now := rfl
@[simp] theorem State.modCal_draws (s : State) (f : CalBlk → CalBlk) : (s.modCal f).draws = s.draws := rfl
@[simp] theorem State.modCal_outbox (s : State) (f : CalBlk → CalBlk) : (s.modCal f).outbox = s.outbox := rfl
@[simp] theorem State.modCal_nextStep (s : State) (f : CalBlk → CalBlk) : (s.modCal f).nextStep = s.nextStep := rfl
@[simp] theorem State.modCal_nextWave (s : State) (f : CalBlk → CalBlk) : (s.modCal f).nextWave = s.nextWave := rfl
@[simp] theorem State.modCal_net (s : State) (f : CalBlk → CalBlk) : (s.modCal f).net = s.net := rfl
@[simp] theorem State.modCal_vis (s : State) (f : CalBlk → CalBlk) : (s.modCal f).vis = s.vis := rfl
@[simp] theorem State.modCal_steps (s : State) (f : CalBlk → CalBlk) : (s.modCal f).steps = s.steps := rfl
@[simp] theorem State.modCal_waves (s : State) (f : CalBlk → CalBlk) : (s.modCal f).waves = s.waves := rfl
@[simp] theorem State.modCal_yelms (s : State) (f : CalBlk → CalBlk) : (s.modCal f).yelms = s.yelms := rfl
@[simp] theorem State.modCal_hbm (s : State) (f : CalBlk → CalBlk) : (s.modCal f).hbm = s.hbm := rfl
@[simp] theorem State.modCal_time (s : State) (f : CalBlk → CalBlk) : (s.modCal f).time = s.time := rfl
@[simp] theorem State.modCal_err (s : State) (f : CalBlk → CalBlk) : (s.modCal f).err = s.err := rfl
@[simp] theorem State.modCal_cal (s : State) (f : CalBlk → CalBlk) : (s.modCal f).cal = f s.cal := rfl
@[simp] theorem State.modCal_mon (s : State) (f : CalBlk → CalBlk) : (s.modCal f).mon = s.mon := rfl
@[simp] theorem State.modCal_pwr (s : State) (f : CalBlk → CalBlk) : (s.modCal f).pwr = s.pwr := rfl
@[simp] theorem State.modCal_clk (s : State) (f : CalBlk → CalBlk) : (s.modCal f).clk = s.clk := rfl
@[simp] theorem State.modCal_sec (s : State) (f : CalBlk → CalBlk) : (s.modCal f).sec = s.sec := rfl
@[simp] theorem State.modCal_pins (s : State) (f : CalBlk → CalBlk) : (s.modCal f).pins = s.pins := rfl
@[simp] theorem State.modCal_store (s : State) (f : CalBlk → CalBlk) : (s.modCal f).store = s.store := rfl
@[simp] theorem State.modCal_precView (s : State) (f : CalBlk → CalBlk) : (s.modCal f).precView = s.precView := rfl
@[simp] theorem State.modCal_pairView (s : State) (f : CalBlk → CalBlk) : (s.modCal f).pairView = s.pairView := rfl
@[simp] theorem State.modCal_free (s : State) (f : CalBlk → CalBlk) : (s.modCal f).free = s.free := rfl

@[simp] theorem State.modSec_pending (s : State) (f : SecBlk → SecBlk) : (s.modSec f).pending = s.pending := rfl
@[simp] theorem State.modSec_now (s : State) (f : SecBlk → SecBlk) : (s.modSec f).now = s.now := rfl
@[simp] theorem State.modSec_draws (s : State) (f : SecBlk → SecBlk) : (s.modSec f).draws = s.draws := rfl
@[simp] theorem State.modSec_outbox (s : State) (f : SecBlk → SecBlk) : (s.modSec f).outbox = s.outbox := rfl
@[simp] theorem State.modSec_nextStep (s : State) (f : SecBlk → SecBlk) : (s.modSec f).nextStep = s.nextStep := rfl
@[simp] theorem State.modSec_nextWave (s : State) (f : SecBlk → SecBlk) : (s.modSec f).nextWave = s.nextWave := rfl
@[simp] theorem State.modSec_net (s : State) (f : SecBlk → SecBlk) : (s.modSec f).net = s.net := rfl
@[simp] theorem State.modSec_vis (s : State) (f : SecBlk → SecBlk) : (s.modSec f).vis = s.vis := rfl
@[simp] theorem State.modSec_steps (s : State) (f : SecBlk → SecBlk) : (s.modSec f).steps = s.steps := rfl
@[simp] theorem State.modSec_waves (s : State) (f : SecBlk → SecBlk) : (s.modSec f).waves = s.waves := rfl
@[simp] theorem State.modSec_yelms (s : State) (f : SecBlk → SecBlk) : (s.modSec f).yelms = s.yelms := rfl
@[simp] theorem State.modSec_hbm (s : State) (f : SecBlk → SecBlk) : (s.modSec f).hbm = s.hbm := rfl
@[simp] theorem State.modSec_time (s : State) (f : SecBlk → SecBlk) : (s.modSec f).time = s.time := rfl
@[simp] theorem State.modSec_err (s : State) (f : SecBlk → SecBlk) : (s.modSec f).err = s.err := rfl
@[simp] theorem State.modSec_cal (s : State) (f : SecBlk → SecBlk) : (s.modSec f).cal = s.cal := rfl
@[simp] theorem State.modSec_mon (s : State) (f : SecBlk → SecBlk) : (s.modSec f).mon = s.mon := rfl
@[simp] theorem State.modSec_pwr (s : State) (f : SecBlk → SecBlk) : (s.modSec f).pwr = s.pwr := rfl
@[simp] theorem State.modSec_clk (s : State) (f : SecBlk → SecBlk) : (s.modSec f).clk = s.clk := rfl
@[simp] theorem State.modSec_sec (s : State) (f : SecBlk → SecBlk) : (s.modSec f).sec = f s.sec := rfl
@[simp] theorem State.modSec_pins (s : State) (f : SecBlk → SecBlk) : (s.modSec f).pins = s.pins := rfl
@[simp] theorem State.modSec_store (s : State) (f : SecBlk → SecBlk) : (s.modSec f).store = s.store := rfl
@[simp] theorem State.modSec_precView (s : State) (f : SecBlk → SecBlk) : (s.modSec f).precView = s.precView := rfl
@[simp] theorem State.modSec_pairView (s : State) (f : SecBlk → SecBlk) : (s.modSec f).pairView = s.pairView := rfl
@[simp] theorem State.modSec_free (s : State) (f : SecBlk → SecBlk) : (s.modSec f).free = s.free := rfl

@[simp] theorem State.setYelm_pending (s : State) (y : Nat) (x : Yelm) : (s.setYelm y x).pending = s.pending := rfl
@[simp] theorem State.setYelm_now (s : State) (y : Nat) (x : Yelm) : (s.setYelm y x).now = s.now := rfl
@[simp] theorem State.setYelm_draws (s : State) (y : Nat) (x : Yelm) : (s.setYelm y x).draws = s.draws := rfl
@[simp] theorem State.setYelm_outbox (s : State) (y : Nat) (x : Yelm) : (s.setYelm y x).outbox = s.outbox := rfl
@[simp] theorem State.setYelm_nextStep (s : State) (y : Nat) (x : Yelm) : (s.setYelm y x).nextStep = s.nextStep := rfl
@[simp] theorem State.setYelm_nextWave (s : State) (y : Nat) (x : Yelm) : (s.setYelm y x).nextWave = s.nextWave := rfl
@[simp] theorem State.setYelm_net (s : State) (y : Nat) (x : Yelm) : (s.setYelm y x).net = s.net := rfl
@[simp] theorem State.setYelm_vis (s : State) (y : Nat) (x : Yelm) : (s.setYelm y x).vis = s.vis := rfl
@[simp] theorem State.setYelm_steps (s : State) (y : Nat) (x : Yelm) : (s.setYelm y x).steps = s.steps := rfl
@[simp] theorem State.setYelm_waves (s : State) (y : Nat) (x : Yelm) : (s.setYelm y x).waves = s.waves := rfl
@[simp] theorem State.setYelm_yelms (s : State) (y : Nat) (x : Yelm) : (s.setYelm y x).yelms = tset s.yelms y x := rfl
@[simp] theorem State.setYelm_hbm (s : State) (y : Nat) (x : Yelm) : (s.setYelm y x).hbm = s.hbm := rfl
@[simp] theorem State.setYelm_time (s : State) (y : Nat) (x : Yelm) : (s.setYelm y x).time = s.time := rfl
@[simp] theorem State.setYelm_err (s : State) (y : Nat) (x : Yelm) : (s.setYelm y x).err = s.err := rfl
@[simp] theorem State.setYelm_cal (s : State) (y : Nat) (x : Yelm) : (s.setYelm y x).cal = s.cal := rfl
@[simp] theorem State.setYelm_mon (s : State) (y : Nat) (x : Yelm) : (s.setYelm y x).mon = s.mon := rfl
@[simp] theorem State.setYelm_pwr (s : State) (y : Nat) (x : Yelm) : (s.setYelm y x).pwr = s.pwr := rfl
@[simp] theorem State.setYelm_clk (s : State) (y : Nat) (x : Yelm) : (s.setYelm y x).clk = s.clk := rfl
@[simp] theorem State.setYelm_sec (s : State) (y : Nat) (x : Yelm) : (s.setYelm y x).sec = s.sec := rfl
@[simp] theorem State.setYelm_pins (s : State) (y : Nat) (x : Yelm) : (s.setYelm y x).pins = s.pins := rfl
@[simp] theorem State.setYelm_store (s : State) (y : Nat) (x : Yelm) : (s.setYelm y x).store = s.store := rfl
@[simp] theorem State.setYelm_precView (s : State) (y : Nat) (x : Yelm) : (s.setYelm y x).precView = s.precView := rfl
@[simp] theorem State.setYelm_pairView (s : State) (y : Nat) (x : Yelm) : (s.setYelm y x).pairView = s.pairView := rfl
@[simp] theorem State.setYelm_free (s : State) (y : Nat) (x : Yelm) : (s.setYelm y x).free = s.free := rfl

end Sys2Proof.Machine
end

