-- ==== Sys2Proof/Tests/States.lean ====
section
/-! SUPPORT. Small states and requests, of which the tests and the witnesses speak. -/
namespace Sys2Proof.Tests
open Sys2Proof.Machine

/-! ### Small states and requests -/

/-- The bytes of a Sloson request (R261). -/
def sloson (flags vi q psn op gen : Nat) (pay : List Byte) : List Byte :=
  let h := le 2 Config.magic ++ le 1 1 ++ le 1 flags ++ le 2 vi ++ le 2 q ++ le 4 psn ++ le 2 op ++ le 2 gen ++ zeros 8 ++
    le 4 pay.length ++ zeros 2
  h ++ le 2 (crc16 h) ++ pay

/-- Address record of host or VI number k, on logical port 0.0. -/
def adr (k : Nat) : AddrRec := { AddrRec.zero with ipv6 := BitVec.ofNat 128 (0x20010DB8 * 2 ^ 96 + k), prefix6 := 64, ports := 1 }

/-- A partition record of 1 GiB with courses. -/
def part (cs : List Nat) : PartRec := ⟨8, 25, 1024, 64, 64, 0, 128, 0, cs⟩

/-- VI 0 with an address. -/
def base : State := { State.reset with vis := [(0, { Vi.vi0 with addr := adr 1 })], net := { Net.reset with linkUp := 1 } }

/-- VI 0, and VI 1 with course 0. -/
def tenants : State :=
  { base with vis := base.vis ++ [(1, Vi.fresh (adr 2) (part [0]) 1)], store := ⟨[(0, 1), (1, 1)], [(0, 1), (1, 1)], 0⟩ }

/-- A payload filled up with zeros to the length its opcode has. -/
def padded (op : Nat) (pay : List Byte) : List Byte :=
  match fixedLen op with
  | some n => pay ++ zeros (n - pay.length)
  | none => pay

/-- A request to VI v on queue q at stamp 5. -/
def reqOn (v q op : Nat) (pay : List Byte) : Packet :=
  { ts := 5, lport := 0, vlan := 0, dstIp := (adr (v + 1)).ipv6, srcIp := (adr 9).ipv6, srcPort := 7, dstPort := 0xBA04, pull := none, rx := .plain,
    bytes := sloson 0 v q 1 op 1 (padded op pay) }

/-- A request to VI v on queue 0. -/
def req (v op : Nat) (pay : List Byte) : Packet := reqOn v 0 op pay

/-- A connection on logical port 0.0. -/
def conn : Conn :=
  { lport := 0, pmtu := 12, ackExp := 14, retry := 7, prio := 3, hostIp := 9, hostQpn := 7, hostPsn := 1, devQpn := 11#24, devPsn := 5#24,
    error := false, tries := 0, failSince := none, rate := 0, lastCnp := none, lastRaise := 0, lastCut := none, cnpSent := none, rnr := 0, out := [] }

/-- A queue of rings in regions 1 and 2. -/
def ringQueue : Queue :=
  { Queue.zero 1 with pull := true, rdma := true, rc := 0, slotLog2 := 6, sqRegion := 1, sqSlots := 64, cqRegion := 2, cqSlots := 64 }

/-- VI 1 with connections 0 and 1, a remote tier region 0, a pull ring region 1, a completion ring region 2, and queue 1 on them. -/
def net : State :=
  tenants.modVi 1 (fun x => { x with
    conns := [(0, conn), (1, conn)]
    regions := [(0, ⟨0, 1, 1, 0, 67108864⟩), (1, ⟨0, 2, 2, 0, 65536⟩), (2, ⟨0, 3, 3, 0, 65536⟩)]
    queues := x.queues ++ [(1, ringQueue), (2, Queue.zero 1)] })

/-- A fetch of one slot of VI 1's queue 1. -/
def pulled : Xfer := ⟨.pull 1 0 1, false, 0, 64, 1, 1, [], none, true⟩

/-- The state after a command. -/
def after (i : Instr) (s : State) : State :=
  match exec i s with
  | .next t => t
  | _ => s

/-- VI 1 with one recorded outcome, and the same after it was sent and CPL_RETRY beats have passed. -/
def answered : State := after (.partRead (req 0 0x0202 (le 2 1))) tenants
def sentOne : State :=
  (after (.completionSend 6 0 0) answered).modVi 0 (fun x => x.modJrnl (fun j =>
    { j with entries := tmapv j.entries (fun _ e => { e with beats := 1000 }) }))

/-- A PTP master. -/
def master : AnnounceMsg := ⟨State.reset.time.domain, 128, 6, 0x21, 0x4E5D, 128, 77, 0, 77, 1, 1000000000, 37⟩

/-- PTP source 0 enabled, with a master heard at stamp 2. -/
def ptp : State :=
  State.reset.modTime (fun t => { t.modSrc 0 (fun r => { r with master := some master, masters := [master], lastSeen := some 2 }) with
    srcEn := 5 })

/-- Source 2 enabled, locked and preferred, while holdover is active. -/
def pps : State :=
  State.reset.modTime (fun t => { t.modSrc 2 (fun r => { r with locked := true, lockStamp := 5, lastSeen := some 7 }) with
    srcEn := 4, pref := 2, active := 3, tenMhz := true })

/-- An echo request to VI 0. -/
def echo : Frame :=
  ⟨5, 0, 0, .plain, (adr 9).ipv6, (adr 1).ipv6, false, none, .echo, none⟩

/-- A descriptor of 64 bytes: its kind, and fields as offset, bytes, value. -/
def desc (kind : Nat) (fs : List (Nat × Nat × Nat)) : Desc :=
  fs.foldl (fun b f => b.take f.1 ++ le f.2.1 f.2.2 ++ b.drop (f.1 + f.2.1)) (le 1 kind ++ zeros 63)

/-- A projection of 2 rows into 2 channels, on array 0 of yelm 0. -/
def proj : Proj := ⟨2, 2, 0, 2, [], 0, 0x40000000#32, 0, 0, [⟨0, 0, 0, 0, 0, 0⟩]⟩

/-- A small image: EMBED, NORM, ATTN, ACT, RESID, ROUTE, EXPERTS, PROJ, HEAD. -/
def image : Image :=
  { yelms := 16, units := [(0, zeros 32)], vocab := 4, residentMib := 1, digest := zeros 48,
    program := [desc 1 [(6, 1, 0), (12, 4, 2)], desc 2 [(6, 1, 1), (8, 4, 2), (12, 4, 2)],
      desc 4 [(4, 1, 1), (6, 1, 2), (8, 4, 6), (12, 4, 2), (16, 2, 1), (18, 2, 1), (20, 2, 2)],
      desc 5 [(4, 1, 2), (6, 1, 3), (8, 4, 2), (12, 4, 2)], desc 6 [(4, 1, 3), (8, 4, 2), (12, 4, 2)],
      desc 7 [(4, 1, 1), (8, 4, 2), (32, 2, 1), (34, 1, 1)], desc 8 [(4, 1, 1), (8, 4, 2), (12, 4, 2), (20, 2, 1)],
      desc 3 [(4, 1, 1), (6, 1, 4), (8, 4, 2), (12, 4, 2)], desc 9 [(4, 1, 4), (8, 4, 2), (12, 4, 4)]],
    projs := [proj, proj, proj], experts := [⟨0, 0, [(0, 0)]⟩], hooks := [(0, 0, 2)], recipes := [⟨256, 3, 0, 16, 8, 0x40800000#32, 0x41000000#32, 0⟩],
    arrays := [⟨0, 0, 0, 1, 16, 2, 2, [], 0x3F800000#32, 0, 0, zeros 32⟩], spares := [(0, [1])], outlier := [], digital := (List.replicate 32 (le 2 0x3F80)).flatten, dataOfs := 0 }

/-- A page of sequence 4. -/
def page : Page := ⟨0, 0, .resident, [4], [], 1, some ⟨0, 4096⟩, none, 0, 0⟩

/-- Sequence 4, one position long. -/
def seq4 : Seq :=
  { p := 1, ctx := 100, pagePos := 16, fmt := 0, train := false, set := none, samp := .default, tokens := [1], last := some 1,
    pinned := false, lastCpl := 0, opened := 0, pages := [[(0, 0)]], saved := none }

/-- VI 1 with that image in force and sequence 4. -/
def served : State :=
  net.modVi 1 (fun x => { x with
    img := { x.img with gen := 1, lastGen := 1, image := some image, source := ⟨9, 0, 0⟩, map := [(0, 0)], recipes := image.recipes }
    seqs := [(4, seq4)], kv := { x.kv with pages := [(0, page)], next := 1 } })

/-- The same, with room in DIGITAL_MIB for more sequences, whatever their records take (Config.seqBytes is free). -/
def roomy : State :=
  served.modVi 1 (fun x => { x with part := { x.part with digital := 2 + Config.seqBytes 0 + Config.seqBytes 1 } })

/-- What a VI with an image of 1 MiB and one sequence of one token uses of DIGITAL_MIB. -/
theorem used_of {x : Vi} (h1 : x.pair.role = 0) (h2 : sumNat (x.sets.map (fun a => a.2.bytes)) = 0)
    (h3 : x.seqs.map (fun q => Config.seqBytes q.2.tokens.length) = [Config.seqBytes 1])
    (h4 : (x.img.image.map Image.residentMib).getD 0 = 1) (h5 : ((x.img.op.bind ImgOp.image).map Image.residentMib).getD 0 = 0) :
    x.digitalUsed = (1 + 0) * 1048576 + 0 + Config.seqBytes 1 + 0 := by
  have e : ∀ k : Nat, sumNat [k] = k := fun k => Nat.zero_add k
  unfold Vi.digitalUsed
  rw [h1, h2, h3, h4, h5, e, if_pos rfl]

theorem room_sum {c d n a b : Nat} (u : c = (1 + 0) * 1048576 + 0 + b + 0) (e : d = 2 + a + b) (h : n ≤ 1048576 + a + b) :
    c + n ≤ d * 1048576 := by
  subst u e
  omega

theorem room_le {x : Vi} {n : Nat} (h : x.digitalUsed + n ≤ x.part.digital * 1048576) :
    (some x).any (fun x => decide (x.digitalUsed + n ≤ x.part.digital * 1048576)) = true := by
  rw [Option.any_some]; exact decide_eq_true h

/-- That leaves room for n bytes more where DIGITAL_MIB is as in `roomy`. -/
theorem room_of {o : Option Vi} {n : Nat}
    (h : o.map (fun x => (x.pair.role, sumNat (x.sets.map (fun a => a.2.bytes)), x.seqs.map (fun q => Config.seqBytes q.2.tokens.length),
      (x.img.image.map Image.residentMib).getD 0, ((x.img.op.bind ImgOp.image).map Image.residentMib).getD 0, x.part.digital)) =
      some (0, 0, [Config.seqBytes 1], 1, 0, 2 + Config.seqBytes 0 + Config.seqBytes 1))
    (hn : n ≤ 1048576 + Config.seqBytes 0 + Config.seqBytes 1) :
    o.any (fun x => decide (x.digitalUsed + n ≤ x.part.digital * 1048576)) = true := by
  cases o with
  | none => cases h
  | some x =>
    have g := Option.some.inj h
    exact room_le (room_sum (used_of (congrArg (fun t => t.1) g) (congrArg (fun t => t.2.1) g) (congrArg (fun t => t.2.2.1) g)
      (congrArg (fun t => t.2.2.2.1) g) (congrArg (fun t => t.2.2.2.2.1) g)) (congrArg (fun t => t.2.2.2.2.2) g) hn)

/-- The same, with a remote tier arena in region 0. -/
def remote : State := served.modVi 1 (fun x => { x with kv := { x.kv with t2 := [(0, Arena.ofBytes 67108864)] } })

/-- The same, with the page SPILLED into it. -/
def spilled : State :=
  remote.modVi 1 (fun x => x.modPage 0 (fun p => { p with state := .spilled, t1 := none, t2 := some (0, ⟨0, 4096⟩) }))

/-- The same, with no T1 block free. -/
def cramped : State := remote.modVi 1 (fun x => { x with kv := { x.kv with t1 := { x.kv.t1 with free := [] } } })

/-- The same, with the page RESIDENT and shared with an idle sequence 6. -/
def shared : State :=
  cramped.modVi 1 (fun x => { x.modPage 0 (fun p => { p with refs := [4, 6] }) with seqs := [(4, seq4), (6, seq4)] })

/-- A token at a descriptor. -/
def token (desc : Nat) : Tok :=
  { pos := 0, token := 1, desc := desc, done := false, slot0 := [.zero, .zero], slots := [(1, [0, 0]), (2, [0, 0]), (3, [0, 0]), (4, [0, 0])],
    routes := [], lists := [], logits := [], sampled := none, grad := [], grad0 := [], partials := [], share := 0 }

/-- Sequence 4 with a saved area. -/
def saved4 : Seq :=
  { seq4 with saved := some ⟨1, 0, 0, [(0, 1, .norm [0, 0] fOne 0), (0, 2, .attn [0, 0] [0, 0] [0] [0]), (0, 5, .route [(0, fOne)]),
    (0, 8, .head [0, 0])], 0⟩ }

/-- VI 1 with step 0 in flight, its one token at a descriptor. -/
def running (kind : StepKind) (desc : Nat) (f : Tok → Tok) : State :=
  { served.modVi 1 (fun x => { x with seqs := [(4, saved4)] }) with
    steps := [(0, { Step.waiting 1 4 kind none ⟨5, 0, 1, 0, 0⟩ [1] with adm := some 5, gen := 1, toks := [f (token desc)] })]
    nextStep := 1 }

/-- What an operation of a kind asks of token 0 of step 0, and of the device (R105). -/
def atKind (s : State) (k : Nat) : Bool :=
  (s.step? 0).any (fun t => (s.imageOf t.vi).any (fun im => (t.tok? 0).any (fun c => (s.vi? t.vi).isSome && t.inFlight && !t.crossed &&
    !c.done && dKind (descAt im c.desc) == k && decide (s.pwr.state ≤ 1) && !s.hbmHeld)))

/-- A read in progress whose planes have all been converted. -/
def read : Read :=
  { wave := 0, slot := 0, place := 0, row0 := 0, band := 2, recipe := image.recipes.headD ⟨0, 0, 0, 0, 0, 0, 0, 0⟩, sa := 0x3F80#16,
    q := [1, 0], todo := [], held := none, halves := none, got := [], sums := [], reads := 0, reruns := 0, ovrRepeats := 0,
    clamped := false, pinned := false, adds := false, hold := [], trims := [], latched := true, missed := none }

/-- Yelm 0 with its array 0 programmed; the array, and the yelm reading it. -/
def array0 : Arr := { Arr.blank with st := .idle, idx := image.arrays.head? }
def reading : State := served.modYelm 0 (fun ye => { ye.setArr 0 { array0 with st := .lit } with reads := [(0, read)] })

/-- A wave of one token on yelm 0, with a partial sum on its way. -/
def waving : State :=
  { running .decode 7 id with
    waves := [(0, { vi := 1, proj := 0, gen := 1, recipe := read.recipe, closed := 5, decode := true, yelms := [0],
                    toks := [(0, ⟨0, 0, [0, 0], 7, none, 0, [(0, .zero), (1, .zero)]⟩)],
                    ops := [(0, ⟨0, [], [], [], [], [], [], [], 0⟩)], adp := [], hops := [(0, 0, 1, 0, 0)] })]
    nextWave := 1 }

/-- A token of a backward step that waits for the transpose of its projection. -/
def backward : State :=
  (running .backward 7 (fun c => { c with grad := [(4, [0x3F80#16, 0])] })).modYelm 0 (fun ye => ye.setArr 0 array0)

/-- VI 1 with an empty adapter set 3, a training sequence 4, and region 0 for adapters. -/
def adapted : State :=
  served.modVi 1 (fun x => { x with
    sets := [(3, { hooks := [], gains := [], bias := false, tensors := [], version := 1, t := 0, lastTrain := 0, lastVersion := 0,
                   stale := false, damaged := false })]
    seqs := [(4, { saved4 with train := true })], regions := [(0, ⟨0, 4, 1, 0, 67108864⟩)] })

/-- A wave of one token whose band on array 0 of yelm 0 may be read. -/
def lighting : State :=
  { running .decode 7 id with
    waves := [(0, { vi := 1, proj := 0, gen := 1, recipe := read.recipe, closed := 5, decode := true, yelms := [0],
                    toks := [(0, ⟨0, 0, [0x3F80#16, 0], 7, none, 0, []⟩)],
                    ops := [(0, ⟨0, [(0, 0)], [], [], [], [], [], [], 0⟩)], adp := [], hops := [] })]
    nextWave := 1 }.modYelm 0 (fun ye => ye.setArr 0 array0)

/-- The payload of IMG_LOAD and IMG_SWAP for an image in region 3. -/
def imgPay : List Byte := le 4 3 ++ le 4 0 ++ le 8 0 ++ le 8 12294

/-- A region of an image. -/
def imaged (s : State) : State := s.modVi 1 (fun x => { x with regions := x.regions ++ [(3, ⟨0, 0, 5, 0, 12294⟩)] })

/-- A check pass of it in progress, of a load or of a swap. -/
def loading : State := after (.imgLoad (req 1 0x0301 imgPay)) (imaged net)
def swapping : State := after (.imgSwap (req 1 0x0302 imgPay)) (imaged served)

/-- Yelm 0's array 0 in programming, erase or refresh. -/
def jobbed (job : Job) (erased : Bool) (row : Nat) : State :=
  served.modYelm 0 (fun ye => ye.setArr 0 { array0 with st := .busy, prog := some ⟨job, 0, erased, true, [], row⟩ })

/-- Array 0 retiring, its spare 1 filled; and the same waiting for its next try. -/
def retiring : State :=
  served.modYelm 0 (fun ye => ye.setArr 0 { array0 with marks := [1, 2, 3], retire := some ⟨some 1, none, false, true, false⟩ })
def retrying : State := served.modYelm 0 (fun ye => ye.setArr 0 { array0 with retire := some ⟨none, some 0, false, false, false⟩ })

/-- A swap behind its barrier to an image of the same units. -/
def barred : State :=
  swapping.modVi 1 (fun x => { x with img := { x.img with op := x.img.op.map (fun w => { w with phase := .barrier, image := some image }) } })

/-- VI 1 as one side of a pair on connection 0: its role (1 home, 2 mirror) and state. -/
def paired (role state : Nat) : State :=
  served.modVi 1 (fun x => { x with seqs := [], pair := { Pair.none with role := role, state := state, leaseMs := 500, peerVi := 1, rc := 0 } })

def vi2Pay : List Byte := addrBytes (adr 3) ++ partBytes 2 (part [1])

end Sys2Proof.Tests
end

