-- ==== Sys2Proof/Tests/Slice0.lean ====
section
/-! SUPPORT. Tests of single commands, ill-formed terms, and for every clause of every statement a state and operands that meet its
hypotheses. -/
namespace Sys2Proof.Tests
set_option Elab.async false
open Sys2Proof.Machine

/-- ViCommands: the hypotheses of its clause on viCreate. -/
theorem witness_viCreate :
    (let p := req 0 0x0101 vi2Pay
    let o := tenants.opened p 0
    tenants.admits p 0x0101 0 && !thas o.vis 2 && !addrFinding o (addrAt (pPay p) 0) &&
    partFinding o 2 (partAt (pPay p) 48) == none && partVi (pPay p) 48 == 2) = true := by
  decide +kernel

/-- ViCommands: the hypotheses of its clause on yelmAlloc. -/
theorem witness_yelmAlloc :
    (let p := req 0 0x0201 (partBytes 1 (part [0, 2]))
    let o := tenants.opened p 0
    tenants.admits p 0x0201 0 && (o.vi? 1).any (fun x => x.closing.isNone && !allocFinding x (partEffective (partAt (pPay p) 0))) &&
    partFinding o 1 (partAt (pPay p) 0) == none && partVi (pPay p) 0 == 1) = true := by
  decide +kernel

/-- ViCommands: the hypotheses of its clause on partRead. -/
theorem witness_partRead :
    (let p := req 0 0x0202 (le 2 1)
    tenants.admits p 0x0202 0 && ((tenants.opened p 0).vi? (leAt (pPay p) 0 2)).isSome) = true := by
  decide +kernel

/-- ViCommands: the hypotheses of its clause on viClose. -/
theorem witness_viClose :
    (let p := req 0 0x0102 (le 2 1)
    let o := tenants.opened p 0
    tenants.admits p 0x0102 0 && leAt (pPay p) 0 2 == 1 && (o.vi? 1).any (fun x => x.closing.isNone) && !o.inReset 1) = true := by
  decide +kernel

/-- ViCommands: the hypotheses of its clause on teardownComplete. -/
theorem witness_teardownComplete :
    (let s := after (.viClose (req 0 0x0102 (le 2 1))) tenants
    (s.vi? 1).any (fun x => x.closing.isSome && !x.conns.any (fun c => !c.2.out.isEmpty)) &&
    !s.steps.any (fun e => e.2.vi == 1)) = true := by
  decide +kernel

/-- ConnectionCommands: the hypotheses of its clause on rcCreate. -/
theorem witness_rcCreate :
    (let p := req 1 0x0106 (le 1 0 ++ zeros 31)
    let o := net.opened p 1
    net.admits p 0x0106 1 && (o.vi? 1).any (fun x => (o.portsOf x.addr).contains 0 && decide (x.conns.length < Config.rcPerVi)) &&
    decide (sumNat (o.vis.map (fun e => e.2.conns.length)) < Config.rcPerDevice)) = true := by
  decide +kernel

/-- ConnectionCommands: the hypotheses of its clause on rcDestroy. -/
theorem witness_rcDestroy :
    (let p := req 1 0x0107 (le 2 1 ++ zeros 2)
    net.admits p 0x0107 1 && ((net.opened p 1).vi? 1).any (fun x => thas x.conns 1 && !x.regions.any (fun r => r.2.rc == 1))) = true := by
  decide +kernel

/-- ConnectionCommands: the hypotheses of its clause on regionAdd. -/
theorem witness_regionAdd :
    (let p := req 1 0x0108 (le 2 0 ++ le 1 1 ++ zeros 5 ++ le 8 4096 ++ le 8 67108864)
    net.admits p 0x0108 1 && ((net.opened p 1).vi? 1).any (fun x => thas x.conns 0 && decide (x.regions.length < Config.regionsPerVi) &&
      decide (x.remoteBytes + 67108864 ≤ x.part.remote * 1048576))) = true := by
  decide +kernel

/-- ConnectionCommands: the hypotheses of its clause on regionRemove. -/
theorem witness_regionRemove :
    (let p := req 1 0x0109 (le 4 0)
    net.admits p 0x0109 1 && ((net.opened p 1).vi? 1).any (fun x => thas x.regions 0 && !x.regionHeld 0)) = true := by
  decide +kernel

/-- QueueCommands: the hypotheses of its clause on qCreate. -/
theorem witness_qCreate :
    (let p := req 1 0x0103 (le 2 7 ++ le 1 0 ++ le 1 3 ++ le 2 0 ++ le 1 6 ++ le 1 0 ++ le 4 1 ++ le 4 64 ++ le 4 2 ++ le 4 64)
    net.admits p 0x0103 1 && ((net.opened p 1).vi? 1).any (fun x => decide (7 < x.part.queues) && !thas x.queues 7 &&
      queueRefs x (queueAt x (pPay p)))) = true := by
  decide +kernel

/-- QueueCommands: the hypotheses of its clause on qDestroy. -/
theorem witness_qDestroy :
    (let p := req 1 0x0104 (le 2 1)
    net.admits p 0x0104 1 && ((net.opened p 1).vi? 1).any (fun x => thas x.queues 1)) = true := by
  decide +kernel

/-- QueueCommands: the hypotheses of its clause on qDoorbell. -/
theorem witness_qDoorbell :
    (let p := reqOn 1 1 0x0105 (le 4 5 ++ le 4 0)
    net.admitsDirect p 0x0105 1 && ((net.openedDirect p 1).vi? 1).any (fun x => (tget x.queues 1).any (fun q => q.pull))) = true := by
  decide +kernel

/-- QueueCommands: the hypotheses of its clause on jrnlAck. -/
theorem witness_jrnlAck :
    (let p := req 1 0x0903 (le 2 0xFFFF ++ zeros 2 ++ le 8 9)
    net.admitsDirect p 0x0903 1 && ((net.openedDirect p 1).vi? 1).isSome) = true := by
  decide +kernel

/-- CompletionEvents: the hypotheses of its clause on pullFetchResponse. -/
theorem witness_pullFetchResponse :
    (let s := net.modVi 1 (fun x => x.modConn 0 (fun c => { c with out := [pulled] }))
    ((s.upto 9).vi? 1).any (fun x => (tget x.queues 1).any (fun q => (tget x.conns q.rc).isSome && (x.pullXfer q.rc 1 == some pulled) &&
      (s.upto 9).xferCurrent 1 x 1 pulled))) = true := by
  decide +kernel

/-- CompletionEvents: the hypotheses of its clause on completionSend. -/
theorem witness_completionSend :
    ((answered.upto 9).serving && (answered.vi? 0).any (fun x => (tget x.queues 0).isSome && (x.nextToSend 0).isSome)) = true := by
  decide +kernel

/-- CompletionEvents: the hypotheses of its clause on cplRetry. -/
theorem witness_cplRetry :
    ((sentOne.upto 9).serving && (sentOne.vi? 0).any (fun x => (tget x.queues 0).any (fun q => !q.rdma) &&
      (x.jrnl.entries.find? (fun e => e.2.queue == 0 && e.2.psn == 1 && e.2.state == .sent)).any (fun e => e.2.sent.isSome &&
        decide (sentOne.net.cplRetry ≤ e.2.beats ∧ 1 ≤ e.2.series ∧ e.2.series ≤ 8)))) = true := by
  decide +kernel

/-- TimeCommands: the hypotheses of its clause on timeSet. -/
theorem witness_timeSet :
    (tenants.admits (req 0 0x0901 (le 1 2 ++ zeros 3 ++ le 8 77)) 0x0901 0) = true := by
  decide +kernel

/-- TimeCommands: the hypotheses of its clause on beatSet. -/
theorem witness_beatSet :
    (tenants.admits (req 0 0x0902 (le 1 3)) 0x0902 0) = true := by
  decide +kernel

/-- TimeCommands: the hypotheses of its clause on latchingReads. -/
theorem witness_latchingReads :
    tenants.gated 2 = false := by
  decide +kernel

/-- PtpEvents: the hypotheses of its clause on sync. -/
theorem witness_sync :
    (bitOf ptp.time.srcEn 0 && (srcOf ptp.time 0).master.isSome && ptp.ptpReach 0) = true := by
  decide +kernel

/-- PtpEvents: the hypotheses of its clause on announce. -/
theorem witness_announce :
    (bitOf ptp.time.srcEn 0 && decide (0 < ptp.time.srcs.length) && master.domain == ptp.time.domain && ptp.ptpReach 0) = true := by
  decide +kernel

/-- PtpEvents: the hypotheses of its clause on announceTimeout. -/
theorem witness_announceTimeout :
    ((srcOf ptp.time 0).master == some master && (srcOf ptp.time 0).lastSeen == some 2 &&
    decide (2 + 3 * master.intervalNs ≤ max ptp.now 3000000002)) = true := by
  decide +kernel

/-- TimeSourceEvents: the hypotheses of its clause on trefPps. -/
theorem witness_trefPps :
    (bitOf pps.time.srcEn 2) = true := by
  decide +kernel

/-- TimeSourceEvents: the hypotheses of its clause on ppsTimeout. -/
theorem witness_ppsTimeout :
    ((srcOf pps.time 2).lastSeen == some 7 && decide (7 + 1500000000 ≤ max pps.now 1500000007)) = true := by
  decide +kernel

/-- TimeSourceEvents: the hypotheses of its clause on sourceReturnTimer. -/
theorem witness_sourceReturnTimer :
    (pps.time.active != pps.time.pref && decide (pps.time.pref < 3) && usable pps.time pps.time.pref &&
    decide ((srcOf pps.time pps.time.pref).lockStamp + 16000000000 ≤ max pps.now 16000000005)) = true := by
  decide +kernel

/-- TimeSourceEvents: the hypotheses of its clause on floorWrite. -/
theorem witness_floorWrite :
    (pps.time.pendStep == none && decide (pps.time.lastFloor + Config.floorEveryNs ≤ max pps.now 64000000000)) = true := by
  decide +kernel

/-- TimeSourceEvents: the hypotheses of its clause on floorWriteStep. -/
theorem witness_floorWriteStep :
    ({ pps.time with pendStep := some (2000000, false) } : TimeBlk).pendStep = some (2000000, false) := by
  decide +kernel

/-- PortEvents: the hypotheses of its clause on linkUp. -/
theorem witness_linkUp :
    State.reset.portExists 0 = true := by
  decide +kernel

/-- PortEvents: the hypotheses of its clause on linkDown. -/
theorem witness_linkDown :
    bitOf tenants.net.linkUp 0 = true := by
  decide +kernel

/-- PortEvents: the hypotheses of its clause on pfcFrame. -/
theorem witness_pfcFrame :
    (tenants.portExists 0 && bitOf ({ tenants.net with pfcEn := 255 } : Net).pfcEn 3 &&
    !tenants.net.paused.any (fun e => e.1 == 0 && e.2.1 == 3)) = true := by
  decide +kernel

/-- PortEvents: the hypotheses of its clause on pfcWatchdog. -/
theorem witness_pfcWatchdog :
    (let n : Net := { tenants.net with pfcWd := 10, paused := [(0, 3, 5, false)] }
    n.paused.find? (fun e => e.1 == 0 && e.2.1 == 3) == some (0, 3, 5, false) && decide (5 + n.pfcWd * 1000000 < max tenants.now 10000006)) = true := by
  decide +kernel

/-- CongestionEvents: the hypotheses of its clause on cnp. -/
theorem witness_cnp :
    ((net.vi? 1).bind (fun x => tget x.conns 0)).isSome = true := by
  decide +kernel

/-- CongestionEvents: the hypotheses of its clause on ccRateIncrease. -/
theorem witness_ccRateIncrease :
    (((net.vi? 1).bind (fun x => tget x.conns 0)).any (fun c => decide (c.lastRaise + 100000 ≤ max net.now 100000))) = true := by
  decide +kernel

/-- ReceivedFrame: the hypotheses of its clause on rxFrame. -/
theorem witness_rxFrame :
    ((tenants.upto echo.ts).rxGate echo.lport echo.rx).1 = true := by
  decide +kernel

/-- SequenceCommands: the hypotheses of its clause on seqOpen. -/
theorem witness_seqOpen :
    (let p := req 1 0x0401 (le 4 9 ++ le 4 0xFFFFFFFF ++ le 4 0 ++ le 4 100 ++ le 2 16 ++ le 1 0 ++ le 1 0 ++ le 2 0xFFFF)
    let o := (roomy.opened p 1).cancelSpills 1 (leAt (pPay p) 4 4)
    (roomy.admits p 0x0401 1 && ((roomy.opened p 1).vi? 1).isSome && (o.vi? 1).any (fun x => (tget x.seqs 0xFFFFFFFF).isNone && !thas x.seqs 9 && x.img.gen != 0) &&
      decide (sumNat (o.vis.map (fun e => e.2.seqs.length)) < Config.maxSequences)) = true ∧
    (o.vi? 1).any (fun x => decide (x.digitalUsed + Config.seqBytes 0 ≤ x.part.digital * 1048576)) = true) := by
  exact ⟨by decide +kernel, room_of rfl (by omega)⟩

/-- SequenceCommands: the hypotheses of its clause on seqOpenPrefix. -/
theorem witness_seqOpenPrefix :
    (let p := req 1 0x0401 (le 4 9 ++ le 4 4 ++ le 4 1 ++ le 4 100 ++ le 2 16 ++ le 1 0 ++ le 1 0 ++ le 2 0xFFFF)
    let o := (roomy.opened p 1).cancelSpills 1 (leAt (pPay p) 4 4)
    (roomy.admits p 0x0401 1 && ((roomy.opened p 1).vi? 1).isSome && (o.vi? 1).any (fun x => !thas x.seqs 9 && x.img.gen != 0 &&
      (tget x.seqs 4).any (fun a => !a.train && a.pagePos == 16 && a.fmt == 0 && a.set == none && min 1 (min a.p 100) == 1)) &&
      !o.blocked93 1 4 ((roomy.command p 1).place o) &&
      decide (sumNat (o.vis.map (fun e => e.2.seqs.length)) < Config.maxSequences)) = true ∧
    (o.vi? 1).any (fun x => decide (x.digitalUsed + Config.seqBytes 1 ≤ x.part.digital * 1048576)) = true) := by
  exact ⟨by decide +kernel, room_of rfl (by omega)⟩

/-- SequenceCommands: the hypotheses of its clause on seqFork. -/
theorem witness_seqFork :
    (let p := req 1 0x0403 (le 4 4 ++ le 4 5)
    let o := (roomy.opened p 1).cancelSpills 1 4
    (roomy.admits p 0x0403 1 && !o.blocked93 1 4 ((roomy.command p 1).place o) &&
      (o.vi? 1).any (fun x => !thas x.seqs 5 && (tget x.seqs 4).any (fun a => !a.train && a.tokens.length == 1)) &&
      decide (sumNat (o.vis.map (fun e => e.2.seqs.length)) < Config.maxSequences)) = true ∧
    (o.vi? 1).any (fun x => decide (x.digitalUsed + Config.seqBytes 1 ≤ x.part.digital * 1048576)) = true) := by
  exact ⟨by decide +kernel, room_of rfl (by omega)⟩

/-- SequenceCommands: the hypotheses of its clause on seqClose. -/
theorem witness_seqClose :
    (let p := req 1 0x0404 (le 4 4)
    served.admits p 0x0404 1 && ((served.opened p 1).vi? 1).any (fun x => thas x.seqs 4)) = true := by
  decide +kernel

/-- SequenceCommands: the hypotheses of its clause on seqQuery. -/
theorem witness_seqQuery :
    (let p := req 1 0x0405 (le 4 4)
    served.admits p 0x0405 1 && (((served.opened p 1).cancelSpills 1 4).vi? 1).any (fun x => thas x.seqs 4)) = true := by
  decide +kernel

/-- ResidencyCommands: the hypotheses of its clause on kvPin. -/
theorem witness_kvPin :
    (let p := req 1 0x0501 (le 4 4 ++ le 1 1)
    served.admits p 0x0501 1 && !((served.opened p 1).cancelSpills 1 4).blocked93 1 4 ((served.command p 1).place ((served.opened p 1).cancelSpills 1 4)) &&
      (((served.opened p 1).cancelSpills 1 4).vi? 1).any (fun x => (tget x.seqs 4).isSome && x.awayPages 4 == 0 &&
      decide (2 * x.pinnedBytes 4 ≤ x.kv.t1.size)) && bitOf (leAt (pPay p) 4 1) 0) = true := by
  decide +kernel

/-- ResidencyCommands: the hypotheses of its clause on kvPinAway. -/
theorem witness_kvPinAway :
    (let p := req 1 0x0501 (le 4 4 ++ le 1 1)
    spilled.admits p 0x0501 1 && !((spilled.opened p 1).cancelSpills 1 4).blocked93 1 4 ((spilled.command p 1).place ((spilled.opened p 1).cancelSpills 1 4)) &&
      (((spilled.opened p 1).cancelSpills 1 4).vi? 1).any (fun x => (tget x.seqs 4).isSome && x.awayPages 4 != 0 &&
      decide (2 * x.pinnedBytes 4 ≤ x.kv.t1.size)) && bitOf (leAt (pPay p) 4 1) 0) = true := by
  decide +kernel

/-- ResidencyCommands: the hypotheses of its clause on kvUnpin. -/
theorem witness_kvUnpin :
    (let p := req 1 0x0501 (le 4 4)
    served.admits p 0x0501 1 && !((served.opened p 1).cancelSpills 1 4).blocked93 1 4 ((served.command p 1).place ((served.opened p 1).cancelSpills 1 4)) &&
      (((served.opened p 1).cancelSpills 1 4).vi? 1).any (fun x => (tget x.seqs 4).isSome) && !bitOf (leAt (pPay p) 4 1) 0) = true := by
  decide +kernel

/-- ResidencyCommands: the hypotheses of its clause on kvEvict. -/
theorem witness_kvEvict :
    (let p := req 1 0x0502 (le 4 4)
    let o := (remote.opened p 1).cancelSpills 1 4
    remote.admits p 0x0502 1 && !o.blocked93 1 4 ((remote.command p 1).place o) && (o.vi? 1).any (fun x =>
      (tget x.seqs 4).any (fun q => !q.held) && x.part.remote != 0 && x.privateResident 4 == [0] &&
      decide (x.kv.t2Bytes + sumNat ((x.privateResident 4).map (fun k => ((tget x.kv.pages k).map (fun p =>
        blockBytes p.mElem + blockBytes p.mScale)).getD 0)) ≤ x.part.remote * 1048576)) &&
    ((((o.startSpill 1 0).vi? 1).bind (fun y => tget y.kv.pages 0)).map Page.state == some .spilling)) = true := by
  decide +kernel

/-- ResidencyCommands: the hypotheses of its clause on kvEvictNone. -/
theorem witness_kvEvictNone :
    (let p := req 1 0x0502 (le 4 4)
    let o := (spilled.opened p 1).cancelSpills 1 4
    spilled.admits p 0x0502 1 && !o.blocked93 1 4 ((spilled.command p 1).place o) && (o.vi? 1).any (fun x =>
      (tget x.seqs 4).any (fun q => !q.held) && x.part.remote != 0 && x.privateResident 4 == [] &&
      decide (x.kv.t2Bytes ≤ x.part.remote * 1048576))) = true := by
  decide +kernel

/-- ResidencyCommands: the hypotheses of its clause on kvPrefetch. -/
theorem witness_kvPrefetch :
    (let p := req 1 0x0503 (le 4 4)
    served.admits p 0x0503 1 && !((served.opened p 1).cancelSpills 1 4).blocked93 1 4 ((served.command p 1).place ((served.opened p 1).cancelSpills 1 4)) &&
      (((served.opened p 1).cancelSpills 1 4).vi? 1).any (fun x => thas x.seqs 4 && x.awayPages 4 == 0)) = true := by
  decide +kernel

/-- ResidencyCommands: the hypotheses of its clause on kvPrefetchAway. -/
theorem witness_kvPrefetchAway :
    (let p := req 1 0x0503 (le 4 4)
    spilled.admits p 0x0503 1 && !((spilled.opened p 1).cancelSpills 1 4).blocked93 1 4 ((spilled.command p 1).place ((spilled.opened p 1).cancelSpills 1 4)) &&
      (((spilled.opened p 1).cancelSpills 1 4).vi? 1).any (fun x => thas x.seqs 4 && x.awayPages 4 != 0)) = true := by
  decide +kernel

/-- ResidencyEvents: the hypotheses of its clause on t1Reclaim. -/
theorem witness_t1Reclaim :
    ((cramped.vi? 1).any (fun x => (cramped.upto 9).needsRoom 1 x) &&
    ((cramped.upto 9).spillCandidates 1 ((cramped.vi? 1).getD Vi.vi0)).find? (fun k =>
      ((((cramped.upto 9).startSpill 1 k).vi? 1).bind (fun y => tget y.kv.pages k)).map Page.state == some .spilling) == some 0) = true := by
  decide +kernel

/-- ResidencyEvents: the hypotheses of its clause on t1ReclaimDrop. -/
theorem witness_t1ReclaimDrop :
    (let x := (shared.vi? 1).getD Vi.vi0
    (shared.upto 9).needsRoom 1 x && ((shared.upto 9).spillCandidates 1 x).isEmpty && !((shared.upto 9).dropCandidates 1 x).isEmpty) = true := by
  decide +kernel

/-- ResidencyEvents: the hypotheses of its clause on spillComplete. -/
theorem witness_spillComplete :
    (let s := after (.t1Reclaim 9 1) cramped
    (s.vi? 1).any (fun x => (x.xfersOf (fun t => t.spills 0)).length == 2)) = true := by
  decide +kernel

/-- ResidencyEvents: the hypotheses of its clause on spillDone. -/
theorem witness_spillDone :
    (let s := after (.t1Reclaim 9 1) cramped
    let t := s.modVi 1 (fun x => x.modConn 0 (fun c => { c with out := [] }))
    (s.vi? 1).any (fun x => (tget x.kv.pages 0).any (fun p => p.state == .spilling && p.refs != [] && p.t1.isSome) &&
      s.moving 1 x (fun t => t.spills 0)) &&
    (t.vi? 1).any (fun x => (tget x.kv.pages 0).any (fun p => p.state == .spilling && p.refs != [] && p.t1.isSome) &&
      !t.moving 1 x (fun t => t.spills 0))) = true := by
  decide +kernel

/-- ResidencyEvents: the hypotheses of its clause on fetchComplete. -/
theorem witness_fetchComplete :
    (let s := after (.kvPrefetch (req 1 0x0503 (le 4 4))) spilled
    (s.vi? 1).any (fun x => (x.xfersOf (fun t => t.fetches 0)).length == 2 && (tget x.kv.pages 0).isSome)) = true := by
  decide +kernel

/-- ResidencyEvents: the hypotheses of its clause on fetchDone. -/
theorem witness_fetchDone :
    (let s := (after (.kvPrefetch (req 1 0x0503 (le 4 4))) spilled).modVi 1 (fun x => x.modConn 0 (fun c => { c with out := [] }))
    (s.vi? 1).any (fun x => (tget x.kv.pages 0).any (fun p => p.state == .fetching && p.refs != [] && p.t1.isSome) &&
      !s.moving 1 x (fun t => t.fetches 0))) = true := by
  decide +kernel

/-- RdmaEvents: the hypotheses of its clause on rdmaResponse. -/
theorem witness_rdmaResponse :
    (let s := after (.kvPrefetch (req 1 0x0503 (le 4 4))) spilled
    (s.vi? 1).any (fun x => (tget x.conns 0).any (fun c => !c.error && c.first.any (fun t => t.purpose == .fetch 0 false)))) = true := by
  decide +kernel

/-- RdmaEvents: the hypotheses of its clause on rdmaResponseNak. -/
theorem witness_rdmaResponseNak :
    ((net.modVi 1 (fun x => x.modConn 0 (fun c => { c with out := [pulled] }))).vi? 1).any (fun x => (tget x.conns 0).any (fun c =>
    !c.error && c.first.any (fun t => t.purpose == .pull 1 0 1))) = true := by
  decide +kernel

/-- RdmaEvents: the hypotheses of its clause on rdmaResponsePeer. -/
theorem witness_rdmaResponsePeer :
    ((net.modVi 1 (fun x => x.modConn 0 (fun c => { c with out := [⟨.pairCheck, false, 0, 0, 1, 1, [], none, true⟩] }))).vi? 1).any (fun x =>
    (tget x.conns 0).any (fun c => !c.error && c.first.any (fun t => t.purpose == .pairCheck && t.viGen == net.viTag 1))) = true := by
  decide +kernel

/-- RdmaEvents: the hypotheses of its clause on rcAckTimeout. -/
theorem witness_rcAckTimeout :
    ((net.modVi 1 (fun x => x.modConn 0 (fun c => { c with out := [pulled], tries := 6 }))).vi? 1).any (fun x =>
    (tget x.conns 0).any (fun c => !c.error && c.out != [] && decide (c.tries < c.retry))) = true := by
  decide +kernel

/-- RdmaEvents: the hypotheses of its clause on rcAckTimeoutLast. -/
theorem witness_rcAckTimeoutLast :
    ((net.modVi 1 (fun x => x.modConn 0 (fun c => { c with out := [pulled], tries := 7 }))).vi? 1).any (fun x =>
    (tget x.conns 0).any (fun c => !c.error && c.out != [] && decide (c.retry ≤ c.tries))) = true := by
  decide +kernel

/-- RdmaEvents: the hypotheses of its clause on transferTimeout. -/
theorem witness_transferTimeout :
    (let s := net.modVi 1 (fun x => x.modConn 0 (fun c => { c with out := [pulled], failSince := some 5 }))
    (s.vi? 1).any (fun x => x.closing.isNone && !s.inReset 1 && (tget x.conns 0).any (fun c => c.out.head?.isSome &&
      s.timeoutFrom 1 x c == some 5 && decide (5 + c.transferNs ≤ max s.now (5 + c.transferNs))))) = true := by
  decide +kernel

/-- RdmaEvents: the hypotheses of its clause on transferTimeoutClosing. -/
theorem witness_transferTimeoutClosing :
    (let s := net.modVi 1 (fun x => { x.modConn 0 (fun c => { c with out := [pulled] }) with closing := some ⟨0, 5, 0, 0⟩ })
    (s.vi? 1).any (fun x => x.closing.isSome && (tget x.conns 0).any (fun c => c.out.head?.isSome &&
      s.timeoutFrom 1 x c == some 5 && decide (5 + c.transferNs ≤ max s.now (5 + c.transferNs))))) = true := by
  decide +kernel

/-- StepCommands: the hypotheses of its clause on seqStep. -/
theorem witness_seqStep :
    (let p := req 1 0x0402 (le 4 4 ++ le 1 0 ++ le 1 0 ++ le 2 1 ++ zeros 16 ++ le 4 2)
    served.admits p 0x0402 1 && staticSeqStep (served.arrived p 1) (cmdOfPacket 1 p) == none &&
    ((served.opened p 1).vi? 1).any (fun x => !x.img.held)) = true := by
  decide +kernel

/-- StepCommands: the hypotheses of its clause on stepAdmit. -/
theorem witness_stepAdmit :
    (let s := after (.seqStep (req 1 0x0402 (le 4 4 ++ le 1 0 ++ le 1 0 ++ le 2 1 ++ zeros 16 ++ le 4 2))) served
    s.steps.all (fun e => !e.2.failIfHeld) &&
    ((sortBy (fun (a b : Nat × Step) => s.admitLt a.2 b.2) (s.steps.filter (fun e => !e.2.inFlight))).find?
      (fun e => s.admission e.1 e.2 != .wait)).any (fun e => match s.admission e.1 e.2 with
        | .go _ => true
        | _ => false)) = true := by
  decide +kernel

/-- StepCommands: the hypotheses of its clause on stepAdmitFail. -/
theorem witness_stepAdmitFail :
    (let s := (after (.seqStep (req 1 0x0402 (le 4 4 ++ le 1 0 ++ le 1 0 ++ le 2 1 ++ zeros 16 ++ le 4 2))) served).modVi 1
      (fun x => x.modSeq 4 (fun q => { q with ctx := 1 }))
    ((sortBy (fun (a b : Nat × Step) => s.admitLt a.2 b.2) (s.steps.filter (fun e => !e.2.inFlight))).find?
      (fun e => s.admission e.1 e.2 != .wait)).any (fun e => match s.admission e.1 e.2 with
        | .fail _ => true
        | _ => false)) = true := by
  decide +kernel

/-- StepCommands: the hypotheses of its clause on stepCommit. -/
theorem witness_stepCommit :
    [StepKind.decode, .recompute, .backward].all (fun k =>
    let s := running k 9 (fun c => { c with done := true })
    (s.step? 0).any (fun t => t.kind == k && t.inFlight && !t.ending && t.toks.all Tok.done && (s.vi? t.vi).any (fun x =>
      (tget x.seqs t.seq).isSome && bufferRoom x t)) && decide (s.pwr.state ≤ 1) && !s.hbmHeld) = true := by
  decide +kernel

/-- StepCommands: the hypotheses of its clause on stepEnd. -/
theorem witness_stepEnd :
    (((running .decode 0 id).modStep 0 (fun t => { t with ending := true, crossed := true })).step? 0 |>.any
    (fun t => t.ending && (t.crossed || t.toks.all Tok.done))) = true := by
  decide +kernel

/-- ScoreCommands: the hypotheses of its clause on scoreForward. -/
theorem witness_scoreForward :
    [(0, 1), (1, 2), (3, 5), (4, 6)].all (fun e => atKind (running .decode e.1 id) e.2) = true := by
  decide +kernel

/-- ScoreCommands: the hypotheses of its clause on scoreBackward. -/
theorem witness_scoreBackward :
    ([(0, 1), (1, 2), (3, 5), (4, 6)].all (fun e => atKind (running .backward e.1 id) e.2) &&
    ((running .backward 1 id).vi? 1).any (fun x => ((running .backward 1 id).step? 0).any (fun t =>
      savedAt (savedItems x t) 0 1 == some (Saved.norm [0, 0] fOne 0))) &&
    ((running .backward 3 id).vi? 1).any (fun x => ((running .backward 3 id).step? 0).any (fun t => t.toks.all (fun c =>
      (fwdSlot x image t c 3 2).1.isSome)))) = true := by
  decide +kernel

/-- TokenCommands: the hypotheses of its clause on tokenForward. -/
theorem witness_tokenForward :
    ([(2, 4), (5, 7), (6, 8), (8, 9)].all (fun e => atKind (running .decode e.1 (fun c => { c with logits := [0] })) e.2)) = true := by
  decide +kernel

/-- TokenCommands: the hypotheses of its clause on tokenBackward. -/
theorem witness_tokenBackward :
    ([(2, 4), (5, 7), (6, 8), (8, 9)].all (fun e => atKind (running .backward e.1 id) e.2) &&
    ((running .backward 8 id).vi? 1).any (fun x => ((running .backward 8 id).step? 0).any (fun t =>
      savedAt (savedItems x t) 0 8 == some (Saved.head [0, 0])))) = true := by
  decide +kernel

/-- TokenCommands: the hypotheses of its clause on headTarget. -/
theorem witness_headTarget :
    (let s := (running .fwdSave 8 (fun c => { c with logits := [0] })).modStep 0 (fun t => { t with targets := [some 1] })
    atKind s 9 && (s.step? 0).any (fun t => t.targets.getD 0 none == some 1 && (t.tok? 0).any (fun c =>
      c.logits != [] && c.sampled.isNone))) = true := by
  decide +kernel

/-- WaveCommands: the hypotheses of its clause on waveClose. -/
theorem witness_waveClose :
    ((served.vi? 1).any (fun x => x.img.image.isSome)) = true := by
  decide +kernel

/-- WaveCommands: the hypotheses of its clause on tritCycle. -/
theorem witness_tritCycle :
    (tkeys (reading.yelm 0).reads != []) = true := by
  decide +kernel

/-- WaveCommands: the hypotheses of its clause on bandReadEnd. -/
theorem witness_bandReadEnd :
    ((reading.yelm 0).doneReads 0 != []) = true := by
  decide +kernel

/-- WaveCommands: the hypotheses of its clause on chainHopReceive. -/
theorem witness_chainHopReceive :
    ((tget waving.waves 0).any (fun w => (w.hops.find? (fun h => h.1 == 0 && h.2.1 == 0 && h.2.2.1 == 1)).isSome &&
    (waving.imageOf w.vi).isSome)) = true := by
  decide +kernel

/-- WaveCommands: the hypotheses of its clause on layerOperationEnd. -/
theorem witness_layerOperationEnd :
    ((tget waving.waves 0).any (fun w => (tget w.toks 0).any (fun t => (waving.imageOf w.vi).any (fun im =>
    decide ((distinct ((projAt im w.proj).places.flatMap (placeChannels im (projAt im w.proj)))).length ≤ t.out.length))))) = true := by
  decide +kernel

/-- WaveCommands: the hypotheses of its clause on transposeRead. -/
theorem witness_transposeRead :
    (backward.step? 0).any (fun t => (backward.vi? 1).any (fun x => (backward.imageOf 1).any (fun im => (t.tok? 0).any (fun c =>
    ((tWants x im t c).find? (fun w => (tPlace x im t.vi 0 0 w).isSome && tget (tPart x im c w 0).left 0 != some 0)).any (fun w =>
      (tPlace x im t.vi 0 0 w).any (fun pl => ((backward.yelm 0).arr 0).idx.any (fun ix => (profileOf ix.fmt ix.profile).any (fun pr =>
        !(tSkip im (projAt im w.proj) pl (tPart x im c w 0).recipe.actTrits w.dy (tReads (projAt im w.proj) pl ix pr)).isEmpty)))) &&
    !t.crossed &&
    ((backward.yelm 0).arr 0).idx.any (fun ix => (profileOf ix.fmt ix.profile).isSome) && t.inFlight && !(backward.yelm 0).resetting &&
    (backward.yelm 0).cal != 2 && ((backward.yelm 0).arr 0).st == .idle && (backward.yelm 0).reads == [] && backward.trainRoom x 0 &&
    !backward.decodeWaits 0 && decide (0 < backward.litLimit 0) && decide (backward.pwr.state ≤ 1))))) = true := by
  decide +kernel

/-- AdapterCommands: the hypotheses of its clause on adpSetCreate. -/
theorem witness_adpSetCreate :
    (let p := req 1 0x0601 (le 2 3 ++ le 2 1 ++ le 2 0 ++ le 2 0 ++ le 2 0 ++ le 1 4 ++ le 1 0 ++ le 4 0x3F800000)
    (roomy.admits p 0x0601 1 && staticAdpSetCreate (roomy.arrived p 1) (cmdOfPacket 1 p) == none &&
      ((roomy.opened p 1).vi? 1).any (fun x => !thas x.sets 3 && !setBlocked 1 x 3 ((roomy.command p 1).place (roomy.opened p 1)) && x.img.image == some image)) = true ∧
    ((roomy.opened p 1).vi? 1).any (fun x => decide (x.digitalUsed + (newSet image (roomy.opened p 1).draws (pPay p)).1.bytes ≤
      x.part.digital * 1048576)) = true) := by
  exact ⟨by decide +kernel, room_of rfl (Nat.le_trans (m := 1048576) (by decide +kernel) (by omega))⟩

/-- AdapterCommands: the hypotheses of its clause on adpSetXfer. -/
theorem witness_adpSetXfer :
    (let p := req 1 0x0602 (le 2 3 ++ le 1 1 ++ le 1 0 ++ le 4 0)
    let o := adapted.opened p 1
    adapted.admits p 0x0602 1 && (o.vi? 1).any (fun x => !setBlocked 1 x 3 ((adapted.command p 1).place o) &&
      (tget x.sets 3).any (fun a => !a.damaged && !a.stale && o.versionRoom 1 x 3 a != .savedUses && o.versionRoom 1 x 3 a != .stepsUse &&
        (tget x.regions 0).any (fun r => r.use == 4 && decide (a.bytes ≤ r.length) && o.connOk 1 r.rc)))) = true := by
  decide +kernel

/-- AdapterCommands: the hypotheses of its clause on adpSetClose. -/
theorem witness_adpSetClose :
    (let p := req 1 0x0603 (le 2 3)
    let o := adapted.opened p 1
    adapted.admits p 0x0603 1 && (o.vi? 1).any (fun x => !setBlocked 1 x 3 ((adapted.command p 1).place o) && thas x.sets 3 &&
      !x.seqs.any (fun q => q.2.set == some 3))) = true := by
  decide +kernel

/-- AdapterCommands: the hypotheses of its clause on adpUpdate. -/
theorem witness_adpUpdate :
    (let p := req 1 0x0606 (le 2 3)
    let o := adapted.opened p 1
    adapted.admits p 0x0606 1 && (o.vi? 1).any (fun x => !setBlocked 1 x 3 ((adapted.command p 1).place o) &&
      (tget x.sets 3).any (fun a => !a.damaged && !a.stale && o.versionRoom 1 x 3 a != .savedUses && o.versionRoom 1 x 3 a != .stepsUse))) = true := by
  decide +kernel

/-- TrainingCommands: the hypotheses of its clause on adpFwdSave. -/
theorem witness_adpFwdSave :
    (let p := req 1 0x0604 (le 4 4 ++ le 2 1 ++ zeros 6 ++ le 4 2 ++ le 4 3)
    adapted.admits p 0x0604 1 && staticAdpFwdSave (adapted.arrived p 1) (cmdOfPacket 1 p) == none &&
    ((adapted.opened p 1).vi? 1).any (fun x => (tget x.seqs 4).any Seq.train && !x.img.held)) = true := by
  decide +kernel

/-- TrainingCommands: the hypotheses of its clause on adpBwd. -/
theorem witness_adpBwd :
    (let p := req 1 0x0605 (le 4 4)
    adapted.admits p 0x0605 1 && !bitOf (leAt (pPay p) 4 1) 0 && ((adapted.opened p 1).vi? 1).any (fun x =>
      (adapted.opened p 1).seqOpen 1 x 4 ((adapted.command p 1).place (adapted.opened p 1)) && !x.img.held)) = true := by
  decide +kernel

/-- TrainingCommands: the hypotheses of its clause on adpBwdDiscard. -/
theorem witness_adpBwdDiscard :
    (let p := req 1 0x0605 (le 4 4 ++ le 1 1)
    let o := adapted.opened p 1
    adapted.admits p 0x0605 1 && bitOf (leAt (pPay p) 4 1) 0 && !o.blocked93 1 4 ((adapted.command p 1).place o) &&
    (o.vi? 1).any (fun x => o.seqOpen 1 x 4 ((adapted.command p 1).place o) && (tget x.seqs 4).any (fun q => q.saved.isSome))) = true := by
  decide +kernel

/-- YelmCommands: the hypotheses of its clause on tileRead. -/
theorem witness_tileRead :
    (let p := req 1 0x0701 (le 2 0 ++ le 1 1 ++ zeros 9 ++ le 2 1 ++ le 2 1)
    served.admits p 0x0701 1 && ((served.opened p 1).vi? 1).any (fun x => tileFinding (served.opened p 1) 1 x (pPay p) false == none &&
      (physYelm 1 x.part (leAt (pPay p) 0 2)).isSome)) = true := by
  decide +kernel

/-- YelmCommands: the hypotheses of its clause on tileWrite. -/
theorem witness_tileWrite :
    (let p := req 1 0x0702 (le 2 0 ++ le 1 1 ++ zeros 9 ++ le 2 1 ++ le 2 1 ++ zeros 2)
    served.admits p 0x0702 1 && ((served.opened p 1).vi? 1).any (fun x => tileFinding (served.opened p 1) 1 x (pPay p) true == none &&
      (physYelm 1 x.part (leAt (pPay p) 0 2)).isSome)) = true := by
  decide +kernel

/-- YelmCommands: the hypotheses of its clause on bandReadStart. -/
theorem witness_bandReadStart :
    ((lighting.mayLight 0).contains 0 && (lighting.nextBand 0 0).any (fun b => (tget lighting.waves b.1).any (fun w =>
    (tget w.toks b.2.1).any (fun t => (lighting.imageOf w.vi).any (fun im =>
      let p := projAt im w.proj
      let xs := bandInputs p (p.places.getD b.2.2.1 ⟨0, 0, 0, 0, 0, 0⟩) b.2.2.2 (bandOf w.recipe p) t.x (outlierRows im p w.recipe t.x).1
      let sa := bandScale xs w.recipe.actTrits
      let q := xs.map (fun v => quantAct v sa w.recipe.actTrits)
      operandOk xs sa q (operandSums q).1 (operandSums q).2 true && !operandOk xs sa q 0 0 false))))) = true := by
  decide +kernel

/-- ImageCommands: the hypotheses of its clause on imgLoad. -/
theorem witness_imgLoad :
    (let p := req 1 0x0301 imgPay
    (imaged net).admits p 0x0301 1 && staticImg false ((imaged net).arrived p 1) (cmdOfPacket 1 p) == none && ((imaged net).opened p 1).vis.any (fun e => e.1 == 1)) = true := by
  decide +kernel

/-- ImageCommands: the hypotheses of its clause on imgSwap. -/
theorem witness_imgSwap :
    (let p := req 1 0x0302 imgPay
    (imaged served).admits p 0x0302 1 && staticImg true ((imaged served).arrived p 1) (cmdOfPacket 1 p) == none && ((imaged served).opened p 1).vis.any (fun e => e.1 == 1)) = true := by
  decide +kernel

/-- ImageCommands: the hypotheses of its clause on imgErase. -/
theorem witness_imgErase :
    (let p := req 1 0x0303 []
    served.admits p 0x0303 1 && ((served.opened p 1).vi? 1).any (fun x => x.img.op.isNone && x.img.gen != 0)) = true := by
  decide +kernel

/-- ImageCommands: the hypotheses of its clause on imgRefresh. -/
theorem witness_imgRefresh :
    (let p := req 1 0x0304 []
    served.admits p 0x0304 1 && ((served.opened p 1).vi? 1).any (fun x => x.img.gen != 0 && (mappedArrays 1 x).any (fun e =>
      !fLt (((served.opened p 1).yelm e.1).arr e.2).margin 0x3EC28F5C#32 && !bitOf (leAt (pPay p) 0 1) 0))) = true := by
  decide +kernel

/-- ImageCommands: the hypotheses of its clause on imgRefreshNone. -/
theorem witness_imgRefreshNone :
    (let p := req 1 0x0304 (le 1 1)
    served.admits p 0x0304 1 && ((served.opened p 1).vi? 1).any (fun x => x.img.gen != 0 && (mappedArrays 1 x).all (fun e =>
      bitOf (leAt (pPay p) 0 1) 0 && !fLt (((served.opened p 1).yelm e.1).arr e.2).margin
        (fClampOr (BitVec.ofNat 32 (leAt (pPay p) 4 4)) 0x3EC28F5C#32 fOne 0x3EC28F5C#32)))) = true := by
  decide +kernel

/-- ImageCommands: the hypotheses of its clause on imgCheckPassEnd. -/
theorem witness_imgCheckPassEnd :
    ([loading, swapping].all (fun s => (((s.upto 9).popImage 1).vi? 1).any (fun x => x.img.op.any (fun w => w.phase == .check)))) = true := by
  decide +kernel

/-- ArrayEvents: the hypotheses of its clause on rowProgram. -/
theorem witness_rowProgram :
    ([jobbed (.program 1) true 0, jobbed (.spareFill 1 2) true 1023].all (fun s => ((s.yelm 0).arr 0).prog.any (fun g =>
    g.erased && g.loaded && decide (g.row < 1024)) && !s.pulsesOff && !(s.yelm 0).resetting &&
    (s.owner 0).any (fun e => e.1 == 1))) = true := by
  decide +kernel

/-- ArrayEvents: the hypotheses of its clause on arrayProgrammed. -/
theorem witness_arrayProgrammed :
    ([jobbed (.program 1) true 1024, jobbed (.spareFill 1 2) true 1024].all (fun s => ((s.yelm 0).arr 0).prog.any (fun g =>
    decide (1024 ≤ g.row)))) = true := by
  decide +kernel

/-- ArrayEvents: the hypotheses of its clause on arrayEraseDone. -/
theorem witness_arrayEraseDone :
    ([jobbed (.erase 1) false 0, jobbed (.program 1) false 0, jobbed (.spareFill 1 2) false 0].all (fun s =>
    ((s.yelm 0).arr 0).prog.any (fun g => !g.erased))) = true := by
  decide +kernel

/-- ArrayEvents: the hypotheses of its clause on spareSwitch. -/
theorem witness_spareSwitch :
    (((retiring.yelm 0).arr 0).retire.any (fun t => t.ready && t.spare == some 1) && (retiring.owner 0).any (fun e =>
    (e.2.1.logicalOf e.2.2 0).isSome) && retiring.waves.isEmpty) = true := by
  decide +kernel

/-- ArrayEvents: the hypotheses of its clause on retireRetry. -/
theorem witness_retireRetry :
    (((retrying.yelm 0).arr 0).retire.any (fun t => t.retry == some 0)) = true := by
  decide +kernel

/-- ArrayEvents: the hypotheses of its clause on swapUnitStart. -/
theorem witness_swapUnitStart :
    ((barred.vi? 1).any (fun x => x.img.op.any (fun w => x.img.image.any (fun old => w.image.any (fun new => w.kind == .swap &&
    w.phase == .barrier && decide (0 < new.units.length) && !w.done.contains 0 && !w.started.contains 0 &&
    barred.mayStart 1 old new w 0))))) = true := by
  decide +kernel

/-- ArrayEvents: the hypotheses of its clause on refreshSliceEnd. -/
theorem witness_refreshSliceEnd :
    ((jobbed (.refresh 1) true 0).yelm 0 |>.arr 0).prog.any (fun g => g.job == .refresh 1) = true := by
  decide +kernel

/-- PrecisionCommands: the hypotheses of its clause on recipeSet. -/
theorem witness_recipeSet :
    (let p := req 1 0x0801 (le 2 0 ++ le 2 3 ++ le 2 128)
    served.admits p 0x0801 1 && ((served.opened p 1).vi? 1).any (fun x => (x.img.latestRecipe 0).isSome)) = true := by
  decide +kernel

/-- PrecisionCommands: the hypotheses of its clause on flagWindowEnd. -/
theorem witness_flagWindowEnd :
    (((served.modVi 1 (fun x => { x with prec := { x.prec with started := true, window := 2, beat := 2 } })).vi? 1).any (fun x =>
    x.prec.started && decide (x.prec.window ≤ x.prec.beat))) = true := by
  decide +kernel

/-- PrecisionCommands: the hypotheses of its clause on clears. -/
theorem witness_clears :
    (!served.gated 3 && bitOf (3#32).toNat 1 && bitOf (3#32).toNat 0 && { served with clk := { served.clk with clkEn := 0 } }.gated 3) = true := by
  decide +kernel

/-- CalibrationCommands: the hypotheses of its clause on calRun. -/
theorem witness_calRun :
    (let p := req 1 0x0802 (le 2 3)
    served.admits p 0x0802 1 && ((served.opened p 1).vi? 1).any (fun x => (physYelm 1 x.part (leAt (pPay p) 0 2)).isSome)) = true := by
  decide +kernel

/-- CalibrationCommands: the hypotheses of its clause on calRunAll. -/
theorem witness_calRunAll :
    (let p := req 1 0x0802 (le 2 0xFFFF)
    served.admits p 0x0802 1 && ((served.opened p 1).vi? 1).any (fun x => leAt (pPay p) 0 2 == 0xFFFF && !(x.yelmsOf 1).isEmpty)) = true := by
  decide +kernel

/-- CalibrationCommands: the hypotheses of its clause on calReq. -/
theorem witness_calReq :
    (!served.gated 8 && decide ((3071#32).toNat % 4096 < Config.yelmCount) && decide (Config.yelmCount ≤ (3072#32).toNat % 4096)) = true := by
  decide +kernel

/-- CalibrationCommands: the hypotheses of its clause on rotationPass. -/
theorem witness_rotationPass :
    (let s := { served with now := served.period * 4000000, cal := { served.cal with rotEn := true, passActive := false } }
    s.cal.rotEn && !s.cal.passActive && (s.upto 0).now % s.period == 0 && decide (s.pwr.state ≤ 1) && s.pwr.want.isNone &&
      decide (s.cal.passStart + s.cal.rotPeriod * 1000000000 ≤ (s.upto 0).now)) = true := by
  decide +kernel

/-- CalibrationCommands: the hypotheses of its clause on yelmCalibrationStart. -/
theorem witness_yelmCalibrationStart :
    (let s := served.requestCal 0
    decide (s.pwr.state ≤ 1) && s.pwr.want.isNone && !s.pulsesOff && s.nextCal 0 == some 0) = true := by
  decide +kernel

/-- CalibrationCommands: the hypotheses of its clause on yelmCalibrationEnd. -/
theorem witness_yelmCalibrationEnd :
    ([true, false].all (fun b =>
    let s := (served.modYelm 0 (fun ye => { ye with cal := 2 })).modCal (fun c => { c with refBad := b })
    (s.yelm 0).cal == 2 && !s.pulsesOff && s.cal.refBad == b)) = true := by
  decide +kernel

/-- CalibrationCommands: the hypotheses of its clause on calStoreWriteDone. -/
theorem witness_calStoreWriteDone :
    ((served.modYelm 0 (fun ye => { ye with cal := 3 })).yelm 0).cal = 3 := by
  decide +kernel

/-- CalibrationCommands: the hypotheses of its clause on calTableRead. -/
theorem witness_calTableRead :
    (let p := req 1 0x0803 (le 2 3 ++ le 1 19 ++ le 1 255)
    served.admits p 0x0803 1 && ((served.opened p 1).vi? 1).any (fun x => (physYelm 1 x.part (leAt (pPay p) 0 2)).isSome) &&
      decide (leAt (pPay p) 2 1 ≤ 19) && leAt (pPay p) 3 1 == 255) = true := by
  decide +kernel

/-- ErrorCommands: the hypotheses of its clause on errDrain. -/
theorem witness_errDrain :
    base.admits (req 0 0x0A03 (le 2 5)) 0x0A03 0 = true := by
  decide +kernel

/-- ErrorCommands: the hypotheses of its clause on cperExport. -/
theorem witness_cperExport :
    ([adapted, adapted.modVi 1 (fun x => { x with ring := { x.ring with recs := [recOf 0x0201 1 1 5] } })].all (fun s =>
    let p := req 1 0x0A04 (le 4 0 ++ le 4 0 ++ le 8 0 ++ le 8 1024)
    let o := s.opened p 1
    s.admits p 0x0A04 1 && (o.vi? 1).any (fun x => (tget x.regions (leAt (pPay p) 0 4)).any (fun r => r.use == 4 &&
      decide (leAt (pPay p) 8 8 + leAt (pPay p) 16 8 ≤ r.length) && o.connOk 1 r.rc)))) = true := by
  decide +kernel

/-- ErrorCommands: the hypotheses of its clause on cperSome. -/
theorem witness_cperSome :
    (let g := [recOf 0x0201 1 1 5].filter (fun e => decide (2 ≤ e.code / 256) && decide (e.code / 256 ≤ 4))
    (cperFit 1024 (g.map (cperBytes State.reset.time))).flatten.length != 0) = true := by
  decide +kernel

/-- ErrorCommands: the hypotheses of its clause on testPackLoad. -/
theorem witness_testPackLoad :
    (let s := base.modVi 0 (fun x => { x with regions := [(0, ⟨0, 0, 5, 0, 36864⟩)], conns := [(0, conn)] })
    let p := req 0 0x0A01 (le 4 0 ++ le 4 0 ++ le 8 0 ++ le 8 4096)
    let o := s.opened p 0
    s.admits p 0x0A01 0 && (o.vi? 0).any (fun x => (tget x.regions (leAt (pPay p) 0 4)).any (fun r => r.use == 0 &&
      decide (leAt (pPay p) 8 8 + leAt (pPay p) 16 8 ≤ r.length))) && decide (leAt (pPay p) 16 8 ≤ Config.packBytes) &&
      decide (o.err.packs.length < Config.packMax) && o.connOk 0 0) = true := by
  decide +kernel

/-- ErrorCommands: the hypotheses of its clause on testPackRun. -/
theorem witness_testPackRun :
    (let s := base.modErr (fun b => { b with packs := [(0, ⟨7, [], 0⟩)] })
    let p := req 0 0x0A02 (le 4 7 ++ le 2 3071 ++ le 2 9)
    s.admits p 0x0A02 0 && ((tvals (s.opened p 0).err.packs).find? (fun k => k.id == leAt (pPay p) 0 4)).isSome &&
      decide (leAt (pPay p) 4 2 < Config.yelmCount)) = true := by
  decide +kernel

/-- ErrorCommands: the hypotheses of its clause on testEnd. -/
theorem witness_testEnd :
    (let s := base.modErr (fun b => { b with runs := [⟨0, 7, [(3, 1)], [], []⟩] })
    s.serving && (s.err.runs.find? (fun r => r.pack == 7 && r.left.contains (3, 1))).isSome) = true := by
  decide +kernel

/-- ResetCommands: the hypotheses of its clause on reset. -/
theorem witness_reset :
    (let p := req 1 0x0A05 (le 1 0 ++ le 1 0 ++ le 2 3)
    served.admits p 0x0A05 1 && ((served.opened p 1).vi? 1).any (fun x =>
      (served.opened p 1).resetFinding 1 x (leAt (pPay p) 0 1) (leAt (pPay p) 2 2) == (stOk, 3))) = true := by
  decide +kernel

/-- ResetCommands: the hypotheses of its clause on resetEnd. -/
theorem witness_resetEnd :
    ([(0, 3), (3, 1)].all (fun d => let s := served.startReset d.1 d.2 0 []
    (s.err.resets.find? (fun r => r.domain == d.1 && (r.target == d.2 || decide (4 ≤ d.1)))).any (fun op => s.viQuiet op.target))) = true := by
  decide +kernel

/-- ResetCommands: the hypotheses of its clause on resetEndDevice. -/
theorem witness_resetEndDevice :
    ([4, 5].all (fun d => [false, true].all (fun b =>
    let s := (served.startReset d 0 0 []).modSec (fun k => { k with
      slots := List.replicate 2 ⟨!b, k.minSvn, 0, 0, 0, []⟩ })
    (s.err.resets.find? (fun r => r.domain == d && (r.target == 0 || decide (4 ≤ d)))).isSome && s.pins.sysResetL && s.pins.pwrOk &&
      s.sec.boot.romLoader == b))) = true := by
  decide +kernel

/-- ResetCommands: the hypotheses of its clause on replay. -/
theorem witness_replay :
    ((served.vi? 1).isSome && served.serving && !served.err.outOfService && !served.inReset 1) = true := by
  decide +kernel

/-- ResetCommands: the hypotheses of its clause on unknownOpcode. -/
theorem witness_unknownOpcode :
    (let p := req 1 0x0777 []
    !opKnown (pOpcode p) && served.comesIn p && (served.entered p).check p == .reply 1 stUnknownOpcode) = true := by
  decide +kernel

/-- FaultEvents: the hypotheses of its clause on eccError. -/
theorem witness_eccError :
    (decide (served.pwr.state ≤ 1) && served.pins.mainUp) = true := by
  decide +kernel

/-- FaultEvents: the hypotheses of its clause on residueFail. -/
theorem witness_residueFail :
    ((running .decode 0 id).step? 0).any Step.inFlight = true := by
  decide +kernel

/-- FaultEvents: the hypotheses of its clause on heartbeat. -/
theorem witness_heartbeat :
    base.serving = true := by
  decide +kernel

/-- FaultEvents: the hypotheses of its clause on heartbeatLost. -/
theorem witness_heartbeatLost :
    ([none, some 3].all (fun r => let s := base.modErr (fun b => { b with missed := 8, sinceRidge := r })
    s.serving && decide (8 ≤ s.err.missed) && !s.err.outOfService && s.err.sinceRidge == r)) = true := by
  decide +kernel

/-- PowerCommands: the hypotheses of its clause on pwrCapSet. -/
theorem witness_pwrCapSet :
    ([200, 850].all (fun w => base.admits (req 0 0x0D01 (le 2 w)) 0x0D01 0) &&
    decide ((base.opened (req 0 0x0D01 (le 2 850)) 0).pwr.capEnf ≤ 850) && decide (200 < (base.opened (req 0 0x0D01 (le 2 200)) 0).pwr.capEnf)) = true := by
  decide +kernel

/-- PowerCommands: the hypotheses of its clause on thermSet. -/
theorem witness_thermSet :
    base.admits (req 0 0x0D02 (le 1 90)) 0x0D02 0 = true := by
  decide +kernel

/-- PowerCommands: the hypotheses of its clause on pwrStateSet. -/
theorem witness_pwrStateSet :
    ([0, 2, 3].all (fun n => base.admits (req 0 0x0D03 (le 1 n)) 0x0D03 0 && leAt (pPay (req 0 0x0D03 (le 1 n))) 0 1 == n)) = true := by
  decide +kernel

/-- PowerCommands: the hypotheses of its clause on governorTick. -/
theorem witness_governorTick :
    (decide (base.pwr.state ≤ 1) && base.pins.mainUp && decide (60 < Config.dieCount)) = true := by
  decide +kernel

/-- PowerCommands: the hypotheses of its clause on powerStateEntry. -/
theorem witness_powerStateEntry :
    ([2, 3].all (fun n => let s := base.modPwr (fun b => { b with want := some (n, []) })
    s.pwr.want == some (n, []) && decide (s.pwr.state ≤ 1) && s.drained)) = true := by
  decide +kernel

/-- PowerCommands: the hypotheses of its clause on powerStateExit. -/
theorem witness_powerStateExit :
    ([2, 3].all (fun n => let s := base.modPwr (fun b => { b with state := n, waking := true })
    s.pwr.waking && s.pwr.state == n && s.pins.pwrOk && s.pins.sysResetL)) = true := by
  decide +kernel

/-- BrakeAndClockEvents: the hypotheses of its clause on pbrakeRelease. -/
theorem witness_pbrakeRelease :
    (!base.pwr.brakeOn && (base.modPwr (fun b => { b with brakeOn := true })).pwr.brakeOn) = true := by
  decide +kernel

/-- BrakeAndClockEvents: the hypotheses of its clause on refLoss. -/
theorem witness_refLoss :
    ([0, 1, 2].all (fun r => lget (after (.refReturn 5 r) base).clk.refOk r false)) = true := by
  decide +kernel

/-- BrakeAndClockEvents: the hypotheses of its clause on refReturn. -/
theorem witness_refReturn :
    ([0, 1, 2].all (fun r => !lget base.clk.refOk r false)) = true := by
  decide +kernel

/-- SupplyEvents: the hypotheses of its clause on pwrOkFall. -/
theorem witness_pwrOkFall :
    (base.pwr.state != 3 && base.pins.mainUp && base.pins.vddAon && base.pins.pwrOk) = true := by
  decide +kernel

/-- SupplyEvents: the hypotheses of its clause on pwrOkFallHeld. -/
theorem witness_pwrOkFallHeld :
    (after (.pwrOkFall 5) base).pins.mainUp = false := by
  decide +kernel

/-- SupplyEvents: the hypotheses of its clause on powerUp. -/
theorem witness_powerUp :
    (after (.powerLoss 5) base).pins.vddAon = false := by
  decide +kernel

/-- SupplyEvents: the hypotheses of its clause on sysResetLRelease. -/
theorem witness_sysResetLRelease :
    (let s := after (.pwrOkRise 6) (after (.pwrOkFall 5) base)
    !s.pins.mainUp && s.pins.pwrOk && s.pins.vddAon && s.pwr.state != 3) = true := by
  decide +kernel

/-- SidebandCommands: the hypotheses of its clause on sidebandReads. -/
theorem witness_sidebandReads :
    ([base.modPwr (fun b => { b with state := 2 }), base.modErr (fun b => { b with outOfService := true })].all (fun s =>
    s.sidebandRuns ⟨5, true, []⟩ noBytes true && s.sidebandRuns ⟨5, true, []⟩ noBytes false && !s.mon.trip &&
      s.sidebandRuns ⟨5, true, [1]⟩ (fun _ => true) true)) = true := by
  decide +kernel

/-- SidebandCommands: the hypotheses of its clause on sidebandRegister. -/
theorem witness_sidebandRegister :
    (let r : SbRequest := ⟨5, true, le 4 0x50000 ++ le 1 1⟩
    base.sidebandRuns r (fun d => d.length == 5) true && sbInRange (leAt r.data 0 4) (clampN (leAt r.data 4 1) 1 16) &&
      !(base.sbWaits || base.sec.romLoader || base.pwr.state == 3 || !base.pins.mainUp)) = true := by
  decide +kernel

/-- SidebandCommands: the hypotheses of its clause on sidebandAddress. -/
theorem witness_sidebandAddress :
    (let r : SbRequest := ⟨5, true, addrBytes (adr 7)⟩
    tenants.sidebandRuns r (fun d => d.length == 48) false && !notUnicast (addrAt r.data 0).ipv6 &&
      !tenants.tenants.any (fun e => addrClash e.2.addr (addrAt r.data 0))) = true := by
  decide +kernel

/-- SidebandCommands: the hypotheses of its clause on sidebandRecovery. -/
theorem witness_sidebandRecovery :
    (let s := base.modSec (fun b => { b with romLoader := true, recovery := some (256, []) })
    s.sidebandRuns ⟨5, true, le 4 100⟩ (fun d => d.length == 4) false && s.recoverable && decide (100 ≤ Config.firmwareBytes) &&
    s.sidebandRuns ⟨5, true, le 4 0 ++ le 2 7⟩ (fun d => decide (5 ≤ d.length) && decide (d.length ≤ 244)) false &&
    s.sidebandRuns ⟨5, true, []⟩ noBytes false) = true := by
  decide +kernel

/-- SidebandCommands: the hypotheses of its clause on sidebandUnknown. -/
theorem witness_sidebandUnknown :
    [0x01, 0x02, 0x03, 0x10, 0x11, 0x20, 0x21, 0x30, 0x31, 0x32].contains 0x40 = false := by
  decide +kernel

/-- SentinelEvents: the hypotheses of its clause on monitorConversion. -/
theorem witness_monitorConversion :
    ([0, 1, 2, 12, 13].all (fun e => base.seqRuns e) && base.pins.vddAon && base.chanOn 18) = true := by
  decide +kernel

/-- SentinelEvents: the hypotheses of its clause on wakeAt. -/
theorem witness_wakeAt :
    (let s := base.modMon (fun b => { b with wakeArmed := true, wakeAt := 5 })
    s.mon.wakeArmed && decide (s.mon.wakeAt ≤ (s.upto 5).now)) = true := by
  decide +kernel

/-- SentinelEvents: the hypotheses of its clause on wakeAtHiWrite. -/
theorem witness_wakeAtHiWrite :
    (let s := base.modMon (fun b => { b with wakeLo := 5 })
    let t := (0#32).toNat % 2 ^ 32 * 2 ^ 32 + s.mon.wakeLo
    t != 0 && decide ((s.upto 4).now < t) && decide (t ≤ (s.upto 5).now) && decide (s.pwr.state ≤ 1) &&
      decide (1 < (s.modPwr (fun b => { b with state := 2 })).pwr.state)) = true := by
  decide +kernel

/-- SentinelEvents: the hypotheses of its clause on wakePacket. -/
theorem witness_wakePacket :
    (let s := tenants.modPwr (fun b => { b with state := 2 })
    let f := { echo with sloson := some (req 1 0x0E01 (le 4 0 ++ le 2 1)), body := .other 0xBA04 }
    decide (f.lport = s.wakePort) && ((s.upto f.ts).rxPort f.lport f.rx).1 && f.sloson.any (fun p => ((s.upto f.ts).rxPort f.lport f.rx).2.wakeOk p)) = true := by
  decide +kernel

/-- RegisterCommands: the hypotheses of its clause on regRead. -/
theorem witness_regRead :
    (let p := req 1 0x0E01 (le 4 0x20008 ++ le 2 4)
    served.admits p 0x0E01 1 && ((served.opened p 1).vi? 1).any (fun x => rangeRefusal 1 x (leAt (pPay p) 0 4) (clampN (leAt (pPay p) 4 2) 1 64) == none)) = true := by
  decide +kernel

/-- RegisterCommands: the hypotheses of its clause on regWrite. -/
theorem witness_regWrite :
    (let p := { req 1 0x0E02 (le 4 0x30008 ++ le 2 1 ++ zeros 2 ++ le 4 7) with pull := none }
    served.admits p 0x0E02 1 && ((served.opened p 1).vi? 1).any (fun x => rangeRefusal 1 x (leAt (pPay p) 0 4) (leAt (pPay p) 4 2) == none)) = true := by
  decide +kernel

/-- RegisterCommands: the hypotheses of its clause on diagEcho. -/
theorem witness_diagEcho :
    served.admits (req 1 0x0E03 [1, 2, 3]) 0x0E03 1 = true := by
  decide +kernel

/-- RegisterCommands: the hypotheses of its clause on cntClear. -/
theorem witness_cntClear :
    ((served.vi? 1).any (fun x => (physYelm 1 x.part 15).any (fun y => bitOf served.clk.ywinEn (y / 256))) && bitOf (1#32).toNat 0) = true := by
  decide +kernel

/-- RegisterCommands: the hypotheses of its clause on clocks. -/
theorem witness_clocks :
    (!served.gated 1 && !served.gated 5 && !served.gated 10) = true := by
  decide +kernel

/-- SecurityCommands: the hypotheses of its clause on attestGet. -/
theorem witness_attestGet :
    ([false, true].all (fun b => let s := served.modSec (fun k => { k with pufFail := b })
    s.admits (req 1 0x0C01 []) 0x0C01 1 && (s.opened (req 1 0x0C01 []) 1).sec.pufFail == b && ((s.opened (req 1 0x0C01 []) 1).vi? 1).isSome)) = true := by
  decide +kernel

/-- SecurityCommands: the hypotheses of its clause on attestBatchClose. -/
theorem witness_attestBatchClose :
    (let s := base.modSec (fun k => { k with batchStart := some 0, batchS := 1 })
    s.sec.batchStart == some 0 && decide (0 + s.sec.batchS * 1000000000 ≤ (s.upto 1000000000).now)) = true := by
  decide +kernel

/-- SecurityCommands: the hypotheses of its clause on lmsTreeDerived. -/
theorem witness_lmsTreeDerived :
    (base.modSec (fun k => { k with treeWork := true })).sec.treeWork = true := by
  decide +kernel

/-- SecurityCommands: the hypotheses of its clause on macsecKey. -/
theorem witness_macsecKey :
    ([(0, 0), (1, 7)].all (fun d => let p := req 0 0x0C02 (le 1 0 ++ le 1 d.1 ++ le 1 d.2 ++ le 1 3 ++ zeros 32 ++ le 32 7)
    base.admits p 0x0C02 0 && (base.opened p 0).portExists (leAt (pPay p) 0 1) && decide (leAt (pPay p) 1 1 ≤ 1) &&
      decide (leAt (pPay p) 3 1 ≤ 3) && decide (leAt (pPay p) 2 1 ≤ 7))) = true := by
  decide +kernel

/-- SecurityCommands: the hypotheses of its clause on fwUpdate. -/
theorem witness_fwUpdate :
    (let s := base.modVi 0 (fun x => { x with regions := [(0, ⟨0, 0, 5, 0, 36864⟩)], conns := [(0, conn)] })
    let p := req 0 0x0C03 (le 4 0 ++ le 4 0 ++ le 8 0 ++ le 8 4096)
    s.admits p 0x0C03 0 && staticFwUpdate (s.arrived p 0) (cmdOfPacket 0 p) == none && ((s.opened p 0).vi? 0).any (fun x =>
      (tget x.regions (leAt (pPay p) 0 4)).isSome && !x.jrnl.entries.any (fun e => e.2.opcode == 0x0C03 && e.2.state == .running &&
        e.1 != s.place p 0)) && (s.opened p 0).connOk 0 0) = true := by
  decide +kernel

/-- SecurityCommands: the hypotheses of its clause on fwSlotWritten. -/
theorem witness_fwSlotWritten :
    (base.modSec (fun k => { k with fwPackage := some (1, 0, []) })).sec.fwPackage = some (1, 0, []) := by
  decide +kernel

/-- SecurityCommands: the hypotheses of its clause on securityRegisters. -/
theorem witness_securityRegisters :
    (!base.gated 10 && bitOf (3#32).toNat 0 && bitOf (3#32).toNat 1) = true := by
  decide +kernel

/-- PairCommands: the hypotheses of its clause on pairJoin. -/
theorem witness_pairJoin :
    ([0, 1].all (fun role =>
    let s := (served.modVi 1 (fun x => { x with seqs := [], queues := x.queues.take 1, part := { x.part with digital := 128 } })).modTime (fun t => { t.modSrc 2 (fun r => { r with
      locked := true, lockStamp := 1, lastSeen := some 5 }) with srcEn := 4, pref := 2, active := 2 })
    let p := req 1 0x0B01 (le 2 1 ++ le 1 role ++ le 1 0 ++ le 2 1 ++ le 2 500 ++ le 2 1)
    s.admits p 0x0B01 1 && (pairTarget (s.opened p 1) (s.command p 1)).any (fun e => e.1 == 1 && thas e.2.conns (leAt (pPay p) 4 2) &&
      decide (leAt (pPay p) 2 1 ≤ 1) && decide (leAt (pPay p) 8 2 ≤ 255) &&
      (s.opened p 1).joinOk e.2 (leAt (pPay p) 2 1)))) = true := by
  decide +kernel

/-- PairCommands: the hypotheses of its clause on pairLeave. -/
theorem witness_pairLeave :
    (let s := paired 1 2
    let p := req 1 0x0B02 (le 2 1)
    s.admits p 0x0B02 1 && (pairTarget (s.opened p 1) (s.command p 1)).any (fun e => e.2.pair.role != 0 && decide (e.2.pair.state < 5))) = true := by
  decide +kernel

/-- PairCommands: the hypotheses of its clause on pairTakeover. -/
theorem witness_pairTakeover :
    (let s := paired 2 2
    let p := req 0 0x0B03 (le 2 1)
    s.admits p 0x0B03 0 && (pairTarget (s.opened p 0) (s.command p 0)).any (fun e => e.2.pair.role == 2 && e.2.pair.state == 2 &&
      !e.2.digestDiff)) = true := by
  decide +kernel

/-- PairCommands: the hypotheses of its clause on pairUnmirrored. -/
theorem witness_pairUnmirrored :
    ([(2, 1), (4, 0)].all (fun d => let s := paired 1 d.1
    let p := req 0 0x0B04 (le 2 1 ++ le 1 d.2)
    s.admits p 0x0B04 0 && (pairTarget (s.opened p 0) (s.command p 0)).any (fun e => e.2.pair.role == 1 && e.2.pair.state == d.1 &&
      leAt (pPay p) 2 1 == d.2 && (d.2 == 1 || (s.opened p 0).pairUp e.2)))) = true := by
  decide +kernel

/-- PairEvents: the hypotheses of its clause on mirrorRecord. -/
theorem witness_mirrorRecord :
    ([true, false].all (fun b => ((paired 2 2).vi? 1).any (fun x => x.pair.former.isNone && x.pair.role == 2 && x.pair.state == 2 &&
    x.pair.expect == 0 && b == b))) = true := by
  decide +kernel

/-- PairEvents: the hypotheses of its clause on ack. -/
theorem witness_ack :
    ([2, 3].all (fun n => (((paired 1 n).modPair 1 (fun p => { p with sending := true, nextSeqno := 1 })).vi? 1).any (fun x =>
    x.pair.former.isNone && x.pair.role == 1 && x.pair.state == n && x.pair.sending && decide (0 < x.pair.nextSeqno)))) = true := by
  decide +kernel

/-- PairEvents: the hypotheses of its clause on pairHome. -/
theorem witness_pairHome :
    (((paired 1 2).vi? 1).any (fun x => decide (x.pair.lastSent + x.pair.leaseMs * 125000 ≤ ((paired 1 2).upto 100000000).now) &&
    x.pair.role == 1 && x.pair.state == 2 && decide (x.pair.leaseEnd ≤ ((paired 1 2).upto 100000000).now))) = true := by
  decide +kernel

/-- PairEvents: the hypotheses of its clause on pairMirror. -/
theorem witness_pairMirror :
    (((paired 2 6).vi? 1).any (fun x => x.pair.role == 2 && x.pair.state == 6 &&
    decide (x.pair.takeStart + 2 * x.pair.leaseMs * 1000000 ≤ ((paired 2 6).upto 2000000000).now))) = true := by
  decide +kernel

/-- PairEvents: the hypotheses of its clause on pairJoining. -/
theorem witness_pairJoining :
    ((((paired 2 1).modPair 1 (fun p => { p with joinEntry := some (1, 0) })).vi? 1).any (fun x => x.pair.role == 2 && x.pair.state == 1 &&
    x.pair.joinEntry.isSome && x.pair.expect == 0 && decide (x.pair.joinStart + 10000000000 ≤ ((paired 2 1).upto 10000000000).now))) = true := by
  decide +kernel

/-- BeatBoundary: the hypotheses of its clause on beatBoundary. -/
theorem witness_beatBoundary :
    (let o := fun (s : State) => (({ s with now := s.comingBoundary } : State).modTime (fun t => { t with boundary := s.comingBoundary })).timeStep.periodChange
    base.pins.vddAon && decide ((o base).pwr.state ≤ 1) && (o base).pins.mainUp &&
    decide (1 < (o (base.modPwr (fun b => { b with state := 2 }))).pwr.state) && !{ base.pins with vddAon := false }.vddAon) = true := by
  decide +kernel

/-- StepRunsExec: the hypotheses of its clause on stepFront. -/
theorem witness_stepFront :
    (({ State.reset with pending := [.heartbeat 1, .heartbeat 2] } : State).pending = .heartbeat 1 :: [.heartbeat 2]) := by
  decide +kernel

/-- StepRunsExec: the hypotheses of its clause on stepEmpty. -/
theorem witness_stepEmpty :
    State.reset.pending = [] := by
  decide +kernel

/-- EveryStepKeeps: the hypotheses of its clause on everyStepKeeps. -/
theorem witness_everyStepKeeps :
    (let s := { served with pending := [.heartbeat 9], hbm := memWrite [] 5 [1, 2, 3] }
    Memory.wf s) = true := by
  decide +kernel

/-- RequestChecks: the hypotheses of its clause on requestUnserved. -/
theorem witness_requestUnserved :
    (let p := req 1 0x0202 (le 2 1)
    let s := { tenants with pins := { tenants.pins with mainUp := false } }
    pOpcode p == 0x0202 && !s.comesIn p) = true := by
  decide +kernel

/-- RequestChecks: the hypotheses of its clause on requestReply. -/
theorem witness_requestReply :
    (let p := reqOn 1 9 0x0202 (le 2 1)
    pOpcode p == 0x0202 && tenants.comesIn p && decide ((tenants.entered p).check p = .reply 1 stNoObject)) = true := by
  decide +kernel

/-- RequestChecks: the hypotheses of its clause on requestDuplicate. -/
theorem witness_requestDuplicate :
    (let p := req 1 0x0202 (le 2 1)
    let s := tenants.modVi 1 (fun x => x.modQueue 0 (fun q => { q with win := ⟨some (pPsn p), [pPsn p]⟩ }))
    s.comesIn p && decide ((s.entered p).check p = .duplicate 1)) = true := by
  decide +kernel

/-- RequestChecks: the hypotheses of its clause on requestBehind. -/
theorem witness_requestBehind :
    (let p := req 1 0x0202 (le 2 1)
    let s := tenants.modVi 1 (fun x => x.modQueue 0 (fun q => { q with win := ⟨some (pPsn p + 70000), [pPsn p + 70000]⟩ }))
    s.comesIn p && decide ((s.entered p).check p = .drop)) = true := by
  decide +kernel

/-- RequestChecks: the hypotheses of its clause on requestIgnored. -/
theorem witness_requestIgnored :
    (let p := { req 1 0x0202 (le 2 1) with pull := some (1, 0) }
    tenants.comesIn p && decide ((tenants.entered p).check p = .ignore)) = true := by
  decide +kernel

/-- RequestChecks: the hypotheses of its clause on requestCounted. -/
theorem witness_requestCounted :
    (let p := req 1 0x0202 (le 2 1)
    let a := { p with dstPort := 9 }
    let b := { p with lport := 5 }
    let c := { req 2 0x0202 (le 2 1) with dstIp := p.dstIp }
    tenants.comesIn p && decide ((tenants.entered p).check a = .dropOther) && decide ((tenants.entered p).check b = .dropNoVi) &&
      decide ((tenants.entered p).check c = .dropMismatch)) = true := by
  decide +kernel

/-- RequestTaken: the hypotheses of its clause on requestStatic. -/
theorem witness_requestStatic :
    (let s := served
    let p := req 1 0x0402 (le 4 99 ++ zeros 20)
    s.comesIn p && decide ((s.entered p).check p = .pass 1) && (staticSeqStep (s.arrived p 1) (cmdOfPacket 1 p)).isSome &&
      ((s.arrived p 1).vi? 1).any (fun x => thas x.queues (pQueue p))) = true := by
  decide +kernel

/-- RequestTaken: the hypotheses of its clause on requestFull. -/
theorem witness_requestFull :
    ([0, 65].all (fun n => let s := tenants.modVi 1 (fun x => { x with part := { x.part with jrnl := n } })
    let p := req 1 0x0E03 []
    s.comesIn p && decide ((s.entered p).check p = .pass 1) && (commandOf (pOpcode p)).any (fun c => (c.1 (s.arrived p 1) (cmdOfPacket 1 p)).isNone) &&
      ((s.arrived p 1).vi? 1).any (fun x => thas x.queues (pQueue p) && (x.fits (entrySize (pOpcode p) p) == (n != 0))))) = true := by
  decide +kernel

/-- RefusalLeavesNothing: the hypotheses of its clause on answered. -/
theorem witness_answered :
    ((tenants.vi? 1).isSome && (tenants.vi? 0).isSome) = true := by
  decide +kernel

/-- AcceptedRequest: the hypotheses of its clause on acceptedRequest. -/
theorem witness_acceptedRequest :
    (tenants.admits (req 1 0x0E03 []) 0x0E03 1 && net.admits (req 1 0x0402 (zeros 24)) 0x0402 1) = true := by
  decide +kernel

/-- AcceptedOnce: the hypotheses of its clause on acceptedOnce. -/
theorem witness_acceptedOnce :
    (tenants.admits (req 1 0x0E03 []) 0x0E03 1 && !unjournaled 0x0E03 && (req 1 0x0E03 []).pull.isNone) = true := by
  decide +kernel

/-- OutcomeOnce: the hypotheses of its clause on outcomeOnce. -/
theorem witness_outcomeOnce :
    ([EState.accepted, .recorded].all (fun st => ((served.modVi 1 (fun x => { x with jrnl := { x.jrnl with entries := [(0, { entryOf (req 1 0x0E03 []) (Queue.zero 1) with state := st })] } })).entry? 1 0).any
      (fun n => n.state == st))) = true := by
  decide +kernel

/-- JournalSpace: the hypotheses of its clause on journalTail. -/
theorem witness_journalTail :
    (let p := req 1 0x0E03 []
    tenants.admits p 0x0E03 1 && ((tenants.arrived p 1).vi? 1).any (fun x => x.jrnl.entries.all (fun e => decide (e.1 < x.jrnl.next)))) = true := by
  decide +kernel

/-- JournalSpace: the hypotheses of its clause on journalHead. -/
theorem witness_journalHead :
    (let x := { Vi.vi0 with jrnl := { Vi.vi0.jrnl with entries := [(0, { entryOf (req 1 0x0E03 []) (Queue.zero 1) with state := .retired }), (1, entryOf (req 1 0x0E03 []) (Queue.zero 1))] } }
    x.jrnl.entries.any (fun e => e.2.state != .retired)) = true := by
  decide +kernel

/-- JournalSpace: the hypotheses of its clause on journalRoom. -/
theorem witness_journalRoom :
    (let s := tenants.modVi 1 (fun x => { x with part := { x.part with jrnl := 0 } })
    let p := req 1 0x0E03 []
    s.comesIn p && decide ((s.entered p).check p = .pass 1) && (commandOf (pOpcode p)).any (fun c => (c.1 (s.arrived p 1) (cmdOfPacket 1 p)).isNone) &&
      ((s.arrived p 1).vi? 1).any (fun x => thas x.queues (pQueue p) && decide (x.part.jrnl * 1048576 < x.jrnl.used + entrySize (pOpcode p) p))) = true := by
  decide +kernel

/-- PsnWindow: the hypotheses of its clause on psnFresh. -/
theorem witness_psnFresh :
    (let w : Window := ⟨some 10, [10, 9]⟩
    w.h == some 10 && psnPlace w 12 == .fresh && psnPlace w 9 == .duplicate && psnPlace w 8 == .fresh && psnPlace w (10 + 2 ^ 31) == .behind && (Window.empty.h).isNone) = true := by
  decide +kernel

/-- ErrorRing: the hypotheses of its clause on ringFull. -/
theorem witness_ringFull :
    (let r := recOf 0x0501 2 1 9
    let g : Sys2Proof.Machine.Ring := { Sys2Proof.Machine.Ring.empty with recs := [recOf 0x0502 2 1 9] }
    (!g.recs.any (coalesces State.reset r)) && decide (1 ≤ g.recs.length) && g.recs[0]?.isSome) = true := by
  decide +kernel

/-- ErrorRing: the hypotheses of its clause on ringTenant. -/
theorem witness_ringTenant :
    ((recOf 0x0501 2 1 9).vi != 0 && (tenants.vi? 1).isSome) = true := by
  decide +kernel

/-- ProfileCodes: the hypotheses of its clause on profileOther. -/
theorem witness_profileOther :
    (([(1, 0x20), (2, 0x10), (3, 0x34), (4, 0x30), (0, 0)] : List (Nat × Nat)).all (fun c => (profileOf c.1 c.2).isNone)) = true := by
  decide +kernel

/-- MemoryBytes: the hypotheses of its clause on memoryBytes. -/
theorem witness_memoryBytes :
    (memWf [(3, 1), (5, 2)] && memWf (memWrite [(3, 1)] 4 [0, 7])) = true := by
  decide +kernel

/-- BalancedTernary: the hypotheses of its clause on balancedTernary. -/
theorem witness_balancedTernary :
    (decide ((-13 : Int).natAbs ≤ tritMax 3) && decide ((40 : Int).natAbs ≤ tritMax 4) && ([-1, 0, 1] : List Int).all (fun t => t == -1 || t == 0 || t == 1)) = true := by
  decide +kernel

/-- TritPacking: the hypotheses of its clause on tritPacking. -/
theorem witness_tritPacking :
    (decide (packByte [1, 1, 1, 1, 1] < 243) && decide (unpackByte 242 = some [1, 1, 1, 1, 1])) = true := by
  decide +kernel

/-- BuddyBlocks: the hypotheses of its clause on buddyTake. -/
theorem witness_buddyTake :
    ((Arena.ofBytes 67108864).take? 3).isSome = true := by
  decide +kernel

/-- BuddyBlocks: the hypotheses of its clause on buddyNone. -/
theorem witness_buddyNone :
    (((Arena.ofBytes 0).take? 3).isNone && decide (4096 + blockBytes 0 ≤ (Arena.ofBytes 134217728).size) && decide ((Arena.ofBytes 4096).size < 4096 + blockBytes 0) &&
    (Arena.ofBytes 134217728).free.Nodup) = true := by
  decide +kernel

/-- BeatPeriod: the hypotheses of its clause on beatShort. -/
theorem witness_beatShort :
    (let s := { State.reset with time := { State.reset.time with beatLog2 := 9 } }
    decide (State.reset.time.beatLog2 ≤ 6) && decide (6 < s.time.beatLog2) && decide (s.period = 64000000)) = true := by
  decide +kernel

/-- SidebandAnswers: the hypotheses of its clause on sidebandBad. -/
theorem witness_sidebandBad :
    (let s := { tenants with pins := { tenants.pins with vddAon := false } }
    let w := tenants.modErr (fun b => { b with resets := [⟨4, 0, 0, 0, [], [], []⟩] })
    sidebandRows.length == 10 && !s.pins.vddAon && w.pins.vddAon && w.sbWaits && !noBytes [1] && noBytes []) = true := by
  decide +kernel

/-- PassedRequest: the hypotheses of its clause on passedRequest. -/
theorem witness_passedRequest :
    (let p := req 1 0x0E03 []
    let w := { reqOn 1 1 0x0E03 [] with pull := some (1, 1) }
    let s := net.modVi 1 (fun x => x.modQueue 1 (fun q => { q with tickets := [⟨w.ts, w.lport, w.bytes⟩] }))
    decide (tenants.check p = .pass 1) && decide (tenants.check (req 0 0x0202 (le 2 1)) = .pass 0) && decide (s.check w = .pass 1)) = true := by
  decide +kernel

/-- FreeNumbers: the hypotheses of its clause on freeNumbers. -/
theorem witness_freeNumbers :
    ([(0, 1), (1, 7), (3, 9)] : Tbl Nat).length < 4 ∧ tpick ([(0, 1), (1, 7), (3, 9)] : Tbl Nat) 3 4 = 2 ∧ thas ([(0, 1), (1, 7), (3, 9)] : Tbl Nat) 2 = false := by
  decide

/-! ### Ill-formed commands: each check of WellFormed refuses one -/

theorem test_wellFormed_request : (Instr.diagEcho (req 1 0x0E03 [])).wellFormed = true := by decide +kernel
theorem test_illFormed_lport : (Instr.diagEcho { req 1 0x0E03 [] with lport := 8 }).wellFormed = false := by decide +kernel
theorem test_illFormed_vlan : (Instr.diagEcho { req 1 0x0E03 [] with vlan := 4096 }).wellFormed = false := by decide +kernel
theorem test_illFormed_srcPort : (Instr.diagEcho { req 1 0x0E03 [] with srcPort := 65536 }).wellFormed = false := by decide +kernel
theorem test_illFormed_dstPort : (Instr.diagEcho { req 1 0x0E03 [] with dstPort := 65536 }).wellFormed = false := by decide +kernel
theorem test_illFormed_sideband : (Instr.idRead ⟨5, true, zeros 256⟩).wellFormed = false := by decide +kernel
theorem test_illFormed_sidebandCode : (Instr.unknownSidebandCode ⟨5, true, []⟩ 256).wellFormed = false := by decide +kernel
theorem test_illFormed_frame_lport : (Instr.rxFrame { echo with lport := 8 }).wellFormed = false := by decide +kernel
theorem test_illFormed_frame_vlan : (Instr.rxFrame { echo with vlan := 4096 }).wellFormed = false := by decide +kernel
theorem test_illFormed_frame_pcp : (Instr.rxFrame { echo with rx := { echo.rx with pcp := some 8 } }).wellFormed = false := by decide +kernel
theorem test_illFormed_frame_dscp : (Instr.rxFrame { echo with rx := { echo.rx with dscp := some 64 } }).wellFormed = false := by decide +kernel
theorem test_illFormed_vi : (Instr.replay 5 65536).wellFormed = false := by decide +kernel
theorem test_illFormed_yelm : (Instr.tritCycle 5 4096).wellFormed = false := by decide +kernel
theorem test_illFormed_array : (Instr.bandReadEnd 5 0 1024).wellFormed = false := by decide +kernel
theorem test_illFormed_fetchPort : (Instr.pullFetchResponse 5 1 0 8 []).wellFormed = false := by decide +kernel
theorem test_illFormed_port : (Instr.portModeWrite 5 0 2 0).wellFormed = false := by decide +kernel
theorem test_illFormed_entry : (Instr.seqCfgWrite 5 0 32 0).wellFormed = false := by decide +kernel
theorem test_illFormed_pfc : (Instr.pfcFrame 5 0 8 true).wellFormed = false := by decide +kernel
theorem test_illFormed_link : (Instr.linkUp 5 8).wellFormed = false := by decide +kernel
theorem test_illFormed_monitor : (Instr.monitorConversion 5 32 0 [] true).wellFormed = false := by decide +kernel
theorem test_illFormed_die : (Instr.thermalSample 5 200 0).wellFormed = false := by decide +kernel
theorem test_illFormed_rails : (Instr.governorTick 5 []).wellFormed = false := by decide +kernel
theorem test_illFormed_ref : (Instr.refLoss 5 3).wellFormed = false := by decide +kernel
theorem test_illFormed_master : (Instr.announceTimeout 5 2).wellFormed = false := by decide +kernel
theorem test_illFormed_phase : (Instr.trefPps 5 1000000000).wellFormed = false := by decide +kernel
theorem test_illFormed_domain : (Instr.resetEnd 5 6 0).wellFormed = false := by decide +kernel

/-! ### The table gives no row bits -/

theorem test_decode_none (n w : Nat) : decodeTableWord n w = none := rfl
theorem test_fetch_none (n w : Nat) : State.reset.withFetchWord n w = State.reset := rfl

/-! ### A step outlives its sequence (R152, R347) -/

theorem test_closed_step_reads :
    (((running .decode 2 id).freeSeq 1 4).vi? 1).any (fun x => !thas x.seqs 4 &&
      (((running .decode 2 id).freeSeq 1 4).step? 0).any (fun t => t.closed && (x.seqOf t).isSome)) = true := by
  decide +kernel

/-! ### Worked examples of the spec -/

/-- R18: output channel 5 under profile (2, 1) lies in columns 15, 16 and 17. -/
theorem test_columns : (Profile.mk [2, 1]).columns 5 = [[15, 16], [17]] := by decide
/-- R32: the example stream packs into 0xA7. -/
theorem test_pack : packByte [1, 0, -1, -1, 1] = 0xA7 := by decide
/-- R14: the trits of 5 are +, -, -, the lowest first here. -/
theorem test_trits : trits 3 5 = [-1, -1, 1] := by decide
/-- R37: trit-column 1,032 is converter 129, tap 0. -/
theorem test_tap : tapOf 1032 = (129, 0) := by decide
/-- R304: the default beat is 1 ms. -/
theorem test_beat : State.reset.period = 1000000 := by decide

end Sys2Proof.Tests
end

section
/-! PROOFS. Balanced ternary (R14, R19, R21) and its packing into bytes (R32). -/
namespace Sys2Proof.Machine

/-- R14: what a trit may hold. -/
abbrev IsTrit (t : Int) : Prop := t = -1 ∨ t = 0 ∨ t = 1

/-! ### The range of n trits -/

theorem two_mul_tritMax_add_one (n : Nat) : 2 * tritMax n + 1 = 3 ^ n := by
  obtain ⟨m, hm⟩ : Odd (3 ^ n) := Odd.pow (by decide)
  simp only [tritMax, hm]
  omega

theorem tritMax_succ (n : Nat) : tritMax (n + 1) = 3 * tritMax n + 1 := by
  have h := two_mul_tritMax_add_one n
  have h' := two_mul_tritMax_add_one (n + 1)
  rw [pow_succ] at h'
  omega

/-! ### One trit taken off an integer -/

theorem isTrit_lowTrit (v : Int) : IsTrit (lowTrit v) := by
  unfold lowTrit
  omega

theorem lowTrit_add_three_mul {t : Int} (ht : IsTrit t) (m : Int) : lowTrit (t + 3 * m) = t := by
  unfold lowTrit
  omega

theorem lowTrit_add_three_mul_div (v : Int) : lowTrit v + 3 * ((v - lowTrit v) / 3) = v := by
  unfold lowTrit
  omega

theorem natAbs_sub_lowTrit_div_le {n : Nat} {v : Int} (hv : v.natAbs ≤ tritMax (n + 1)) :
    ((v - lowTrit v) / 3).natAbs ≤ tritMax n := by
  have hsplit := lowTrit_add_three_mul_div v
  have ht := isTrit_lowTrit v
  rw [tritMax_succ] at hv
  omega

/-! ### The trits of an integer -/

theorem length_trits (n : Nat) (v : Int) : (trits n v).length = n := by
  induction n generalizing v with
  | zero => rfl
  | succ n ih => simp [trits, ih]

theorem isTrit_of_mem_trits {n : Nat} {v t : Int} (h : t ∈ trits n v) : IsTrit t := by
  induction n generalizing v with
  | zero => simp [trits] at h
  | succ n ih =>
    obtain rfl | h := List.mem_cons.1 h
    · exact isTrit_lowTrit v
    · exact ih h

theorem tritVal_trits {n : Nat} {v : Int} (hv : v.natAbs ≤ tritMax n) : tritVal (trits n v) = v := by
  induction n generalizing v with
  | zero =>
    have h0 : tritMax 0 = 0 := rfl
    simp only [trits, tritVal]
    omega
  | succ n ih =>
    rw [trits, tritVal, ih (natAbs_sub_lowTrit_div_le hv), lowTrit_add_three_mul_div]

/-! ### The value of a list of trits -/

theorem natAbs_tritVal_le {ts : List Int} (h : ∀ t ∈ ts, IsTrit t) : (tritVal ts).natAbs ≤ tritMax ts.length := by
  induction ts with
  | nil => exact Nat.zero_le _
  | cons t ts ih =>
    obtain ⟨ht, hts⟩ := List.forall_mem_cons.1 h
    have hrest := ih hts
    rw [tritVal, List.length_cons, tritMax_succ]
    omega

/-- The representation is unique: trits are the trits of their value. -/
theorem trits_tritVal {ts : List Int} (h : ∀ t ∈ ts, IsTrit t) : trits ts.length (tritVal ts) = ts := by
  induction ts with
  | nil => rfl
  | cons t ts ih =>
    obtain ⟨ht, hts⟩ := List.forall_mem_cons.1 h
    have hrest : (t + 3 * tritVal ts - t) / 3 = tritVal ts := by omega
    rw [List.length_cons, tritVal, trits, lowTrit_add_three_mul ht, hrest, ih hts]

theorem tritVal_map_neg (ts : List Int) : tritVal (ts.map (fun t => -t)) = -tritVal ts := by
  induction ts with
  | nil => rfl
  | cons t ts ih =>
    rw [List.map_cons, tritVal, tritVal, ih]
    ring

theorem tritVal_take_add_drop (ts : List Int) (k : Nat) :
    tritVal (ts.take k) + 3 ^ k * tritVal (ts.drop k) = tritVal ts := by
  induction ts generalizing k with
  | nil => simp [tritVal]
  | cons t ts ih =>
    cases k with
    | zero => simp [tritVal]
    | succ k =>
      rw [List.take_succ_cons, List.drop_succ_cons, tritVal, tritVal, ← ih k, pow_succ]
      ring

/-- At most k trits stay below 3^k / 2, so what truncation drops is less than half a step. -/
theorem two_mul_natAbs_tritVal_take_lt {ts : List Int} (h : ∀ t ∈ ts, IsTrit t) (k : Nat) :
    2 * (tritVal (ts.take k)).natAbs < 3 ^ k := by
  have hval := natAbs_tritVal_le (fun t ht => h t (List.mem_of_mem_take ht) : ∀ t ∈ ts.take k, IsTrit t)
  have hmax := two_mul_tritMax_add_one (ts.take k).length
  have hpow : 3 ^ (ts.take k).length ≤ 3 ^ k := Nat.pow_le_pow_right (by decide) (List.length_take_le k ts)
  omega

theorem two_mul_natAbs_sub_drop_lt {ts : List Int} (h : ∀ t ∈ ts, IsTrit t) (k : Nat) :
    2 * (tritVal ts - 3 ^ k * tritVal (ts.drop k)).natAbs < 3 ^ k := by
  have hsplit := tritVal_take_add_drop ts k
  rw [← hsplit, add_sub_cancel_right]
  exact two_mul_natAbs_tritVal_take_lt h k

/-- Settles O54: existence and uniqueness by induction on the trits, each step taking off the low trit; truncation by the
bound on the value of the trits it drops. -/
theorem balancedTernary : Obligations.BalancedTernary := by
  unfold Obligations.BalancedTernary
  refine ⟨fun n v hv => ⟨length_trits n v, fun t => isTrit_of_mem_trits, tritVal_trits hv⟩, fun ts h => ?_, by decide⟩
  exact ⟨natAbs_tritVal_le h, trits_tritVal h, tritVal_map_neg ts, two_mul_natAbs_sub_drop_lt h⟩

/-! ### Packing (R32): a byte is the value of its five trits, moved up by 121 -/

theorem tritMax_five : tritMax 5 = 121 := by decide

/-- Base-3 digits less 1 are the trits of the number moved down by the largest value. -/
theorem trits_sub_tritMax (n m : Nat) :
    trits n ((m : Int) - tritMax n) = (List.range n).map (fun i => ((m / 3 ^ i % 3 : Nat) : Int) - 1) := by
  induction n generalizing m with
  | zero => rfl
  | succ n ih =>
    have hlow : lowTrit ((m : Int) - tritMax (n + 1)) = ((m % 3 : Nat) : Int) - 1 := by
      rw [tritMax_succ, lowTrit]
      omega
    have hrest : ((m : Int) - tritMax (n + 1) - (((m % 3 : Nat) : Int) - 1)) / 3 = ((m / 3 : Nat) : Int) - tritMax n := by
      rw [tritMax_succ]
      omega
    rw [trits, hlow, hrest, ih, List.range_succ_eq_map]
    simp [Nat.div_div_eq_div_mul, pow_succ']

theorem unpackByte_eq_trits {b : Nat} (hb : b < 243) : unpackByte b = some (trits 5 ((b : Int) - 121)) := by
  rw [unpackByte, if_neg (by omega), ← trits_sub_tritMax, tritMax_five, Nat.cast_ofNat]

theorem unpackByte_eq_none {b : Nat} (hb : 243 ≤ b) : unpackByte b = none := if_pos hb

theorem packByte_eq_tritVal {u : List Int} (hu : u.length = 5) : packByte u = (tritVal u + 121).toNat := by
  match u, hu with
  | [a, b, c, d, e], _ =>
    simp only [packByte, tritVal, List.range_succ, List.range_zero, List.nil_append, List.cons_append, List.foldl_cons,
      List.foldl_nil, List.getD_cons_zero, List.getD_cons_succ]
    congr 1
    push_cast
    ring

theorem natAbs_tritVal_le_of_five {u : List Int} (hu : u.length = 5) (h : ∀ t ∈ u, IsTrit t) : (tritVal u).natAbs ≤ 121 := by
  have hval := natAbs_tritVal_le h
  rwa [hu, tritMax_five] at hval

theorem packByte_lt {u : List Int} (hu : u.length = 5) (h : ∀ t ∈ u, IsTrit t) : packByte u < 243 := by
  have hval := natAbs_tritVal_le_of_five hu h
  rw [packByte_eq_tritVal hu]
  omega

theorem unpackByte_packByte {u : List Int} (hu : u.length = 5) (h : ∀ t ∈ u, IsTrit t) :
    unpackByte (packByte u) = some u := by
  have hval := natAbs_tritVal_le_of_five hu h
  have hback : ((packByte u : Nat) : Int) - 121 = tritVal u := by
    rw [packByte_eq_tritVal hu]
    omega
  rw [unpackByte_eq_trits (packByte_lt hu h), hback, ← hu, trits_tritVal h]

theorem packByte_trits {b : Nat} (hb : b < 243) : packByte (trits 5 ((b : Int) - 121)) = b := by
  have hrange : ((b : Int) - 121).natAbs ≤ tritMax 5 := by
    rw [tritMax_five]
    omega
  rw [packByte_eq_tritVal (length_trits 5 _), tritVal_trits hrange]
  omega

/-- Settles O55: a byte is the value of its five trits plus 121, so both directions are those of the balanced-ternary
representation in 5 trits. -/
theorem tritPacking : Obligations.TritPacking := by
  unfold Obligations.TritPacking
  refine ⟨fun a b c d e h => ⟨packByte_lt rfl h, unpackByte_packByte rfl h⟩, fun n hn => ?_, fun n => unpackByte_eq_none,
    by decide⟩
  exact ⟨trits 5 ((n : Int) - 121), unpackByte_eq_trits hn, length_trits 5 _, packByte_trits hn⟩

end Sys2Proof.Machine
end

section
/-! PROOFS. Tile commands and the start of a band read (R43, R83, R85–R87, R321). -/
namespace Sys2Proof.Machine

/-! ### What an update leaves of yelms, arrays and waves -/

@[simp] theorem yelm_modYelm_self (s : State) (y : Nat) (f : Yelm → Yelm) : (s.modYelm y f).yelm y = f (s.yelm y) := by
  simp [State.modYelm, State.yelm, tgetD, tget_tset]

@[simp] theorem yelm_upto (s : State) (ts y : Nat) : (s.upto ts).yelm y = s.yelm y := rfl
@[simp] theorem imageOf_upto (s : State) (ts v : Nat) : (s.upto ts).imageOf v = s.imageOf v := rfl
@[simp] theorem step?_upto (s : State) (ts k : Nat) : (s.upto ts).step? k = s.step? k := rfl
@[simp] theorem modYelm_waves (s : State) (y : Nat) (f : Yelm → Yelm) : (s.modYelm y f).waves = s.waves := rfl

@[simp] theorem arr_modArr_self (ye : Yelm) (a : Nat) (f : Arr → Arr) : (ye.modArr a f).arr a = f (ye.arr a) := by
  simp [Yelm.modArr, Yelm.setArr, Yelm.arr, tgetD, tget_tset]

theorem tget_modWave_self {s : State} {k : Nat} {w : Wave} (h : tget s.waves k = some w) (f : Wave → Wave) :
    tget (s.modWave k f).waves k = some (f w) := by
  rw [State.modWave_waves, tget_tmod, if_pos rfl, h, Option.map_some]

/-! ### A read starts on its array (R42, R43) -/

theorem arr_startRead_self (ye : Yelm) (a : Nat) (r : Read) : ((ye.startRead a r).arr a).st = .lit :=
  congrArg Arr.st (arr_modArr_self ye a (fun b => { b with st := .lit }))

/-- R43, R71: a read that starts takes the trims of its yelm and, under ACC_HOLD, what its accumulator slot holds. -/
theorem tget_startRead_self (ye : Yelm) (a : Nat) (r : Read) :
    tget (ye.startRead a r).reads a = some { r with
      adds := ye.accHold, hold := if ye.accHold then tgetD ye.acc (bankOf a) [] else [], trims := ye.trims, latched := true } := by
  simp [Yelm.startRead, tget_tset]

/-- R42: the operation of a token on a yelm has a band less to read and one more in progress. -/
def Wave.runBand (w : Wave) (slot y place row0 : Nat) : Wave :=
  { w with ops := tmod w.ops (slot * 4096 + y) (fun o =>
    { o with bands := o.bands.erase (place, row0), running := o.running ++ [(place, row0)] }) }

/-- R43, R120, R321: an array that may be lit for its next band reads it when the operand check passes. -/
theorem exec_bandReadStart {s : State} {ts y a wid slot place row0 : Nat} {w : Wave} {t : WaveTok} {x : Vi} {im : Image}
    (hlight : ((s.upto ts).mayLight y).contains a = true) (hnext : (s.upto ts).nextBand y a = some (wid, slot, place, row0))
    (hw : tget s.waves wid = some w) (ht : tget w.toks slot = some t) (hx : s.vi? w.vi = some x) (him : s.imageOf w.vi = some im)
    (d1 d2 : Int) (crcOk : Bool) :
    exec (.bandReadStart ts y a d1 d2 crcOk) s = .next (
      let o := bandOperands im w t place row0
      if operandOk o.1 o.2.1 o.2.2 d1 d2 crcOk = true then
        ((s.upto ts).modWave wid (fun w => w.runBand slot y place row0)).modYelm y
          (fun ye => ye.startRead a (Read.begin im w t wid slot place row0))
      else (s.upto ts).operandFails im x wid slot y a row0 w t) := by
  simp only [exec, execBandReadStart, hlight, hnext, State.upto_waves, hw, ht, vi?_upto, hx, imageOf_upto, him, Bool.not_true,
    Bool.false_eq_true, if_false]
  cases operandOk (bandOperands im w t place row0).1 (bandOperands im w t place row0).2.1 (bandOperands im w t place row0).2.2
    d1 d2 crcOk <;> rfl

/-! ### Tile commands (R86, R87) -/

/-- R86, R87: a tile command without findings waits at its yelm, and answers later. -/
theorem effTile_of_noFinding {s : State} {c : Cmd} {x : Vi} {y : Nat} {write : Bool} (hx : s.vi? c.vi = some x)
    (hf : tileFinding s c.vi x c.pay write = none) (hy : physYelm c.vi x.part (leAt c.pay 0 2) = some y) :
    effTile write s c = ((s.modYelm y (fun ye => { ye with tiles := ye.tiles ++ [(c.vi, c.entry)] })).pumpTiles y, none) := by
  simp only [effTile, hx, hf, hy, Option.getD_some]

theorem takeAs_tile {s : State} {p : Packet} {op v y : Nat} {x : Vi} {write : Bool} (h : s.admits p op v = true)
    (hx : (s.opened p v).vi? v = some x) (hf : tileFinding (s.opened p v) v x (pPay p) write = none)
    (hy : physYelm v x.part (leAt (pPay p) 0 2) = some y) :
    s.takeAs op p noStatic (effTile write) =
      ((s.opened p v).modYelm y (fun ye => { ye with tiles := ye.tiles ++ [(v, s.place p v)] })).pumpTiles y := by
  rw [takeAs_admits (effTile write) h rfl]
  exact runEffect_later (effTile_of_noFinding (c := s.command p v) hx hf hy)

/-- Settles O21: a tile command is queued at its yelm by its effect; a band read goes by the operand check. -/
theorem yelmCommands : Obligations.YelmCommands := by
  unfold Obligations.YelmCommands
  refine ⟨fun s p v y x h hx hf hy => congrArg _ (takeAs_tile h hx hf hy),
    fun s p v y x h hx hf hy => congrArg _ (takeAs_tile h hx hf hy), ?bandReadStart⟩
  case bandReadStart =>
    intro s ts y a wid slot place row0 d1 d2 crcOk w t x im o hlight hnext hw ht hx him p band n xs sa q
    have hexec := exec_bandReadStart hlight hnext hw ht hx him d1 d2 crcOk
    refine ⟨fun hok => ⟨_, hexec.trans (congrArg _ (if_pos hok)), ?lit, ?reads⟩, ?fails⟩
    case lit =>
      rw [yelm_modYelm_self]
      exact arr_startRead_self ..
    case reads =>
      rw [yelm_modYelm_self, tget_startRead_self]
      rfl
    case fails => exact fun hbad => hexec.trans (congrArg _ (if_neg (Bool.eq_false_iff.1 hbad)))

end Sys2Proof.Machine
end

section
/-! PROOFS. Waves, trit cycles, chain hops and transpose reads (R42, R45, R57, R75, R81, R107, R109, R178, R184). -/
namespace Sys2Proof.Machine

/-! ### Closing a wave, and a cycle of the reads -/

/-- R107: the operations of the wave that was closed, if one was, start. -/
theorem exec_waveClose {s : State} {v : Nat} {x : Vi} {im : Image} (hx : s.vi? v = some x) (him : x.img.image = some im)
    (ts proj : Nat) :
    let o := s.upto ts
    let o' := o.closeWave v x im proj (o.waveQueue v x im proj)
    exec (.waveClose ts v proj) s = .next (((tget o'.waves s.nextWave).map (fun w =>
      w.ops.foldl (fun s e => s.opDone im o.nextWave (e.1 / 4096) (e.1 % 4096)) o')).getD o') := by
  intro o o'
  simp only [exec, execWaveClose, vi?_upto, hx, him, State.upto_nextWave]
  cases tget o'.waves s.nextWave <;> rfl

/-- R42: a yelm on which reads are in progress goes on by a cycle. -/
theorem exec_tritCycle {s : State} {y : Nat} (h : (tkeys (s.yelm y).reads).reverse ≠ []) (ts : Nat) :
    let o := (tkeys (s.yelm y).reads).reverse.foldl (fun s a => s.cycleRead y a) (s.upto ts)
    let lit := ((((s.yelm y).reads.filter (fun r => !r.2.todo.isEmpty)).map (fun r => r.1 % 1024)).eraseDups).length
    exec (.tritCycle ts y) s = .next (o.modYelm y (fun ye => { ye with litNow := if o.pulsesOff then 0 else lit })) :=
  congrArg Host.Outcome.next (if_neg h)

/-! ### A partial sum comes in (R81) -/

theorem map_eq_some_true_iff_any {α : Type} (r : Option α) (p : α → Bool) : r.map p = some true ↔ r.any p = true := by
  rw [Option.map_eq_some_iff, Option.any_eq_true]

/-- R81: a hop taken in by a wave: its sum is received unless one with a later restart count stands. -/
def Wave.takeHop (w : Wave) (h : Nat × Nat × Nat × Nat × Ch24) (slot y ch : Nat) : Wave :=
  { w with
    hops := w.hops.erase h
    ops := tmod w.ops (slot * 4096 + y) (fun o => if (tget o.recv ch).any (fun r => decide (h.2.2.2.1 ≤ r.1)) then o
      else { o with recv := tset o.recv ch (h.2.2.2.1, h.2.2.2.2) }) }

/-- R81: a hop that a wave holds is taken in, which may show in the receive buffer of the yelm, and its channel moves on. -/
theorem exec_chainHopReceive {s : State} {wave slot y ch : Nat} {w : Wave} {h : Nat × Nat × Nat × Nat × Ch24} {im : Image}
    (hw : tget s.waves wave = some w) (hh : w.hops.find? (fun h => h.1 == slot && h.2.1 == y && h.2.2.1 == ch) = some h)
    (him : s.imageOf w.vi = some im) (ts : Nat) :
    ∃ o : State, exec (.chainHopReceive ts wave slot y ch) s = .next (o.chainStep im wave slot y ch) ∧
      o.waves = ((s.upto ts).modWave wave (fun w => w.takeHop h slot y ch)).waves := by
  simp only [exec, execChainHopReceive, State.upto_waves, hw, hh, imageOf_upto, him, map_eq_some_true_iff_any]
  refine ⟨_, rfl, ?_⟩
  split <;> rfl

/-! ### A token leaves its wave (R109) -/

theorem exec_layerOperationEnd {s : State} {wave slot : Nat} {w : Wave} {t : WaveTok} {im : Image} (hw : tget s.waves wave = some w)
    (ht : tget w.toks slot = some t) (him : s.imageOf w.vi = some im)
    (hall : (distinct ((projAt im w.proj).places.flatMap (placeChannels im (projAt im w.proj)))).length ≤ t.out.length) (ts : Nat) :
    let p := projAt im w.proj
    let w' := { w with
      toks := tdel w.toks slot, ops := w.ops.filter (fun o => o.1 / 4096 != slot)
      hops := w.hops.filter (fun h => h.1 != slot), adp := tdel w.adp slot }
    let o := { s.upto ts with waves := if w'.toks = [] then tdel s.waves wave else tset s.waves wave w' }
    let left := sumNat ((w.ops.filter (fun o => o.1 / 4096 == slot)).map (fun o => o.2.allot))
    exec (.layerOperationEnd ts wave slot) s =
      .next (((o.modTok t.step t.tok (fun c => { c with share := c.share + left })).count w.vi p.unit cTokens 1).deliver im t p) := by
  simp only [exec, execLayerOperationEnd, State.upto_waves, hw, ht, imageOf_upto, him, if_neg hall.not_gt]

/-! ### Transpose reads (R57, R58, R178, R184) -/

/-- R57, R184: when a yelm may start a transpose read of an array for a step. -/
theorem mayTranspose_iff (s : State) (x : Vi) (t : Step) (y a : Nat) :
    s.mayTranspose x t y a = true ↔
      t.inFlight = true ∧ t.crossed = false ∧ (s.yelm y).resetting = false ∧ (s.yelm y).cal ≠ 2 ∧
        ((s.yelm y).arr a).st = .idle ∧ (s.yelm y).reads = [] ∧ s.trainRoom x y = true ∧ s.decodeWaits y = false ∧
        0 < s.litLimit y ∧ s.pwr.state ≤ 1 := by
  simp [State.mayTranspose, and_assoc]

/-- R58, R178: the reads of an array that are still to be made begin with one: it is made, and counted. -/
theorem transposeStep_cons {im : Image} {p : Proj} {pl : Place} {ix : ArrayIdx} {pr : Profile} {a : Nat} {part : TPart} {dy : List F32}
    {rd : (Nat × Nat) × (Nat × Nat)} {rest : List ((Nat × Nat) × (Nat × Nat))}
    (h : tSkip im p pl part.recipe.actTrits dy ((tReads p pl ix pr).drop
      ((tReads p pl ix pr).length - (tget part.left a).getD (tReads p pl ix pr).length)) = rd :: rest) (s : State) (v y : Nat) :
    let n := part.recipe.actTrits
    let r := tRead im p pl pr ((s.yelm y).arr a) (s.yelm y).trims a n s.draws dy part.dx rd.1 rd.2
    s.transposeStep im p pl ix pr v y a part dy =
      ({ part with dx := r.1, left := tset part.left a (tSkip im p pl n dy rest).length },
        ((({ s with draws := r.2.2 } : State).modYelm y (fun ye => { ye with
          transposeCycles := ye.transposeCycles + n })).count v p.unit cTbands 1).count v p.unit cTovr (b2n r.2.1)) := by
  simp only [State.transposeStep, h]

/-- R178, R179: a transpose read puts the part it leaves in its place, and completes its role once every array is through. -/
theorem exec_transposeRead {s s' : State} {ts y a k i : Nat} {t : Step} {x : Vi} {im : Image} {c : Tok} {w : TWant} {pl : Place}
    {ix : ArrayIdx} {pr : Profile} {part' : TPart} (ht : s.step? k = some t) (hx : s.vi? t.vi = some x)
    (him : s.imageOf t.vi = some im) (hc : t.tok? i = some c)
    (hwant : (tWants x im t c).find? (fun w => (tPlace x im t.vi y a w).isSome && tget (tPart x im c w y).left a != some 0) = some w)
    (hpl : tPlace x im t.vi y a w = some pl) (hix : ((s.yelm y).arr a).idx = some ix) (hpr : profileOf ix.fmt ix.profile = some pr)
    (hmay : s.mayTranspose x t y a = true)
    (hstep : (s.upto ts).transposeStep im (projAt im w.proj) pl ix pr t.vi y a (tPart x im c w y) w.dy = (part', s')) :
    let ps := putPart c.partials part'
    let o := s'.modTok k i (fun c => { c with partials := ps })
    exec (.transposeRead ts y a k i) s = .next
      (if partsDone ps w.role < (projAt im w.proj).places.length then o
        else o.transposeDone im x k i t { c with partials := ps } w) := by
  have hmay' : (s.upto ts).mayTranspose x t y a = true := hmay
  simp only [exec, execTransposeRead, step?_upto, ht, vi?_upto, hx, imageOf_upto, him, hc, hwant, yelm_upto, hix, hpl, hpr, hmay',
    hstep, Bool.not_true, Bool.false_eq_true, if_false]

/-- Settles O18: each command goes on past its guards, which its hypotheses meet, to its own effect. -/
theorem waveCommands : Obligations.WaveCommands := by
  unfold Obligations.WaveCommands
  refine ⟨fun s ts v proj x im hx him => exec_waveClose hx him ts proj, fun s ts y h => exec_tritCycle h ts,
    fun s ts y a => rfl, ?chainHop, fun s ts wave slot w t im hw ht him hall => exec_layerOperationEnd hw ht him hall ts,
    ?transpose⟩
  case chainHop =>
    intro s ts wave slot y ch w h im hw hh him
    obtain ⟨o, hexec, hwaves⟩ := exec_chainHopReceive hw hh him ts
    exact ⟨o, hexec, hwaves ▸ tget_modWave_self hw _⟩
  case transpose =>
    intro s ts y a k i t x im c w pl ix pr rd rest ht hx him hc hwant hpl hix hpr hfly hcross hreset hcal hidle hreads hroom hdecode
      hlit hpwr p part n all hskip
    have hmay := (mayTranspose_iff s x t y a).2 ⟨hfly, hcross, hreset, hcal, hidle, hreads, hroom, hdecode, hlit, hpwr⟩
    exact exec_transposeRead ht hx him hc hwant hpl hix hpr hmay (transposeStep_cons hskip (s.upto ts) t.vi y)

end Sys2Proof.Machine
end

section
/-! PROOFS. Register commands and single registers with a row of their own (R89, R233, R259, R295, R296, R319, R420, R423,
R443). -/
namespace Sys2Proof.Machine

/-! ### Requests answered at once (R271) -/

/-- R266, R271: an admitted request without a static check, whose effect answers now, is completed with that answer. -/
theorem takeAs_completes {s t : State} {p : Packet} {op v st : Nat} {eff : Effect} {pay : List Byte} (h : s.admits p op v = true)
    (heff : eff (s.opened p v) (s.command p v) = (t, some (st, pay))) :
    s.takeAs op p noStatic eff = s.completes p v t st pay :=
  (takeAs_admits eff h rfl).trans (runEffect_now heff)

/-! ### REG_READ and REG_WRITE of a range that is not refused (R295) -/

theorem effRegRead_of_not_refused {s : State} {c : Cmd} {x : Vi} (hx : s.vi? c.vi = some x)
    (hr : rangeRefusal c.vi x (leAt c.pay 0 4) (clampN (leAt c.pay 4 2) 1 64) = none) :
    effRegRead s c =
      let a := leAt c.pay 0 4
      let n := clampN (leAt c.pay 4 2) 1 64
      ((s.readRange c.vi a n).2, some (stOk, regHead a n ++ (s.readRange c.vi a n).1)) := by
  simp only [effRegRead, hx, hr]

theorem exec_regRead {s : State} {p : Packet} {v : Nat} {x : Vi} (h : s.admits p 0x0E01 v = true)
    (hx : (s.opened p v).vi? v = some x)
    (hr : rangeRefusal v x (leAt (pPay p) 0 4) (clampN (leAt (pPay p) 4 2) 1 64) = none) :
    exec (.regRead p) s = .next (
      let a := leAt (pPay p) 0 4
      let n := clampN (leAt (pPay p) 4 2) 1 64
      let r := (s.opened p v).readRange v a n
      s.completes p v r.2 stOk (regHead a n ++ r.1)) :=
  congrArg Host.Outcome.next (takeAs_completes h (effRegRead_of_not_refused (c := s.command p v) hx hr))

/-- R295: the registers from an address on, written in ascending order with the words of the payload. -/
def State.writeRange (s : State) (v a n : Nat) (pay : List Byte) : State :=
  (List.range n).foldl (fun s i => s.writeReg v (a + 4 * i) (leAt pay (8 + 4 * i) 4)) s

theorem effRegWrite_of_not_refused {s : State} {c : Cmd} {x : Vi} (hx : s.vi? c.vi = some x)
    (hr : rangeRefusal c.vi x (leAt c.pay 0 4) (leAt c.pay 4 2) = none) :
    effRegWrite s c =
      let a := leAt c.pay 0 4
      let n := leAt c.pay 4 2
      let o := s.writeRange c.vi a n c.pay
      (o, some (stOk, regHead a n ++ (List.range n).flatMap (fun i => le 4 (o.readReg c.vi (a + 4 * i))))) := by
  simp only [effRegWrite, State.writeRange, hx, hr]

theorem exec_regWrite {s : State} {p : Packet} {v : Nat} {x : Vi} (h : s.admits p 0x0E02 v = true)
    (hx : (s.opened p v).vi? v = some x) (hr : rangeRefusal v x (leAt (pPay p) 0 4) (leAt (pPay p) 4 2) = none) :
    exec (.regWrite p) s = .next (
      let a := leAt (pPay p) 0 4
      let n := leAt (pPay p) 4 2
      let o := (s.opened p v).writeRange v a n (pPay p)
      s.completes p v o stOk (regHead a n ++ (List.range n).flatMap (fun i => le 4 (o.readReg v (a + 4 * i))))) :=
  congrArg Host.Outcome.next (takeAs_completes h (effRegWrite_of_not_refused (c := s.command p v) hx hr))

/-! ### The window of a yelm (R89, R296, R420) -/

/-- R296: the window of yelm n is the 0x1000 bytes from 0x100000 + 0x1000 n on. -/
theorem windowOfAddr_yelm {n o : Nat} (hn : n < 3072) (ho : o < 0x1000) :
    windowOfAddr (0x100000 + 0x1000 * n + o) = some n := by
  rw [windowOfAddr, if_pos (by omega)]
  exact congrArg some (by omega)

/-- R296, R420: a VI that has the yelm writes into its window while the window has a clock. -/
theorem writeReg_yelm {s : State} {v n y o : Nat} {x : Vi} (hx : s.vi? v = some x) (hn : n < 3072) (ho : o < 0x1000)
    (hy : physYelm v x.part n = some y) (hclk : bitOf s.clk.ywinEn (y / 256) = true) (val : Nat) :
    s.writeReg v (0x100000 + 0x1000 * n + o) val = s.modYelm y (fun ye => writeYelm ye o val) := by
  have hoff : (0x100000 + 0x1000 * n + o) % 0x1000 = o := by omega
  simp only [State.writeReg, hx, windowOfAddr_yelm hn ho, hy, hclk, hoff, if_true]

/-- R89: CNT_CLEAR with bit 0 set clears the seven counters. -/
theorem writeYelm_cntClear {val : Nat} (hbit : bitOf val 0 = true) (ye : Yelm) :
    writeYelm ye 0x05C val = { ye with counts := List.replicate 7 0 } :=
  if_pos hbit

theorem exec_cntClear {s : State} {v n y : Nat} {x : Vi} {value : Reg} (hx : s.vi? v = some x) (hn : n < 3072)
    (hy : physYelm v x.part n = some y) (hclk : bitOf s.clk.ywinEn (y / 256) = true) (hbit : bitOf value.toNat 0 = true)
    (ts : Nat) :
    exec (.cntClear ts v n value) s =
      .next ((s.upto ts).modYelm y (fun ye => { ye with counts := List.replicate 7 0 })) := by
  have hwrite := writeReg_yelm (s := s.upto ts) (o := 0x05C) hx hn (by decide) hy hclk value.toNat
  simp only [writeYelm_cntClear hbit] at hwrite
  exact congrArg _ hwrite

/-! ### A port's control register and the latching reads, their block not gated (R233, R319, R420, R423, R443) -/

@[simp] theorem gated_upto (s : State) (ts block : Nat) : (s.upto ts).gated block = s.gated block := rfl

/-- R420: the control register of a port is written by VI 0 while its block has a clock. -/
theorem exec_portModeWrite {s : State} (h : s.gated 1 = false) (ts port : Nat) (value : Reg) :
    exec (.portModeWrite ts 0 port value) s = .next ((s.upto ts).writePort 0 port value.toNat) := by
  simp only [exec, execPortModeWrite, gated_upto, h, Bool.false_eq_true, if_false]

/-- R423: ENERGY_MJ_LO stands in block 5. -/
theorem latch_energyMjLo {s : State} (h : s.gated 5 = false) (v : Nat) : s.latch v 0x50014 = s.readEnergyLo v :=
  if_neg (Bool.eq_false_iff.1 h)

/-- R443: TX_PN_LO stands in block 10. -/
theorem latch_txPnLo {s : State} (h : s.gated 10 = false) (v : Nat) : s.latch v 0xA0150 = s.readTxPnLo v :=
  if_neg (Bool.eq_false_iff.1 h)

theorem exec_energyMjLoRead {s : State} (h : s.gated 5 = false) (ts v : Nat) :
    exec (.energyMjLoRead ts v) s = .next ((s.upto ts).readEnergyLo v) :=
  congrArg _ (latch_energyMjLo (s := s.upto ts) h v)

theorem exec_txPnLoRead {s : State} (h : s.gated 10 = false) (ts v : Nat) :
    exec (.txPnLoRead ts v) s = .next ((s.upto ts).readTxPnLo v) :=
  congrArg _ (latch_txPnLo (s := s.upto ts) h v)

/-- Settles O34: the three requests answer at once with what their effect makes; a single register is written or latched where
neither its window nor its block is gated. -/
theorem registerCommands : Obligations.RegisterCommands := by
  unfold Obligations.RegisterCommands
  exact ⟨fun s p v x h hx hr => exec_regRead h hx hr, fun s p v x h hx hr => exec_regWrite h hx hr,
    fun s p v h => congrArg _ (takeAs_completes h rfl),
    fun s ts v n y x value hx hn hy hclk hbit => exec_cntClear hx hn hy hclk hbit ts,
    fun s ts port value h => exec_portModeWrite h ts port value,
    fun s ts v hpwr hsec => ⟨exec_energyMjLoRead hpwr ts v, exec_txPnLoRead hsec ts v⟩⟩

end Sys2Proof.Machine
end

section
/-! PROOFS. Requests that open, share, close and query sequences (R93, R118, R148, R156, R280, R283). -/
namespace Sys2Proof.Machine

/-- R266, R271: an admitted request that check 14 does not reject and whose effect answers later leaves what its effect makes. -/
theorem takeAs_later {s t : State} {p : Packet} {op v : Nat} {chk : StaticCheck} {eff : Effect} (h : s.admits p op v = true)
    (hchk : chk (s.arrived p v) (cmdOfPacket v p) = none) (heff : eff (s.opened p v) (s.command p v) = (t, none)) :
    s.takeAs op p chk eff = t :=
  (takeAs_admits eff h hchk).trans (runEffect_later heff)

/-! ### SEQ_OPEN (R118, R148, R280) -/

/-- R280: the adapter set that a SEQ_OPEN names. -/
def openSet (pay : List Byte) : Option Nat := if leAt pay 20 2 = 0xFFFF then none else some (leAt pay 20 2)

/-- R148, R280: how many committed positions of its source a SEQ_OPEN shares. -/
def openShared (pay : List Byte) (par : Option Seq) : Nat :=
  (par.map (fun a => min (leAt pay 8 4) (min a.p (openCtx pay)))).getD 0

/-- R118, R280: the sequence that a SEQ_OPEN at a stamp makes, before it shares positions of a source. -/
def openedSeq (pay : List Byte) (ts : Stamp) (x : Vi) : Seq :=
  { p := 0, ctx := openCtx pay, pagePos := openPos pay, fmt := openFmt pay, train := bitOf (leAt pay 19 1) 0, set := openSet pay,
    samp := samplingAt pay 22 24, tokens := [], last := none, pinned := false, lastCpl := 0, opened := ts,
    pages := x.layers.map (fun _ => []), saved := none }

/-- R280: a SEQ_OPEN with a source, or none, meets none of the findings. -/
structure OpenFits (s : State) (pay : List Byte) (x : Vi) (par : Option Seq) : Prop where
  name : leAt pay 0 4 ≠ 0xFFFFFFFF
  format : openFmt pay ≤ 1
  source : leAt pay 4 4 = 0xFFFFFFFF ∨ par.isSome = true
  set : leAt pay 20 2 ≠ 0xFFFF → (tget x.sets (leAt pay 20 2)).map AdpSet.damaged = some false
  fresh : thas x.seqs (leAt pay 0 4) = false
  training : bitOf (leAt pay 19 1) 0 = true → leAt pay 20 2 ≠ 0xFFFF
  image : x.img.gen ≠ 0
  agrees : ∀ a ∈ par, a.train = false ∧ a.pagePos = openPos pay ∧ a.fmt = openFmt pay ∧ a.set = openSet pay
  number : sumNat (s.vis.map (fun e => e.2.seqs.length)) < Config.maxSequences
  room : x.digitalUsed + Config.seqBytes (openShared pay par) ≤ x.part.digital * 1048576

namespace OpenFits
variable {s : State} {pay : List Byte} {x : Vi} {par : Option Seq}

/-- R280: nothing that the request names is missing. -/
theorem object (h : OpenFits s pay x par) (hpar : tget x.seqs (leAt pay 4 4) = par) :
    ¬ (leAt pay 0 4 = 0xFFFFFFFF ∨ 1 < openFmt pay ∨ (leAt pay 4 4 ≠ 0xFFFFFFFF ∧ (!thas x.seqs (leAt pay 4 4)) = true) ∨
      (leAt pay 20 2 ≠ 0xFFFF ∧ ((tget x.sets (leAt pay 20 2)).map AdpSet.damaged != some false) = true)) := by
  have hsource : leAt pay 4 4 ≠ 0xFFFFFFFF → thas x.seqs (leAt pay 4 4) = true := fun hne => by
    rw [thas, hpar]
    exact h.source.resolve_left hne
  rintro (hname | hformat | ⟨hne, hmissing⟩ | ⟨hne, hdamaged⟩)
  · exact h.name hname
  · exact h.format.not_gt hformat
  · simp [hsource hne] at hmissing
  · simp [h.set hne] at hdamaged

theorem permitted (h : OpenFits s pay x par) :
    (thas x.seqs (leAt pay 0 4) || (bitOf (leAt pay 19 1) 0 && leAt pay 20 2 == 0xFFFF) || x.img.gen == 0) = false := by
  have htrain := h.training
  simpa [h.fresh, h.image] using htrain

theorem like_source {a : Seq} (h : OpenFits s pay x (some a)) :
    (a.train || a.pagePos != openPos pay || a.fmt != openFmt pay || a.set != openSet pay) = false := by
  obtain ⟨htrain, hpos, hfmt, hset⟩ := h.agrees a rfl
  simp [htrain, hpos, hfmt, hset]

theorem resource (h : OpenFits s pay x par) :
    ¬ (Config.maxSequences ≤ sumNat (s.vis.map (fun e => e.2.seqs.length)) ∨
      x.part.digital * 1048576 < x.digitalUsed + Config.seqBytes (openShared pay par)) :=
  not_or.2 ⟨h.number.not_ge, h.room.not_gt⟩

end OpenFits

/-- R280: a SEQ_OPEN without findings makes its sequence, which shares what it may of its source, and tells the pair. -/
theorem doSeqOpen_of_fits {s : State} {c : Cmd} {x : Vi} {par : Option Seq} (hpar : tget x.seqs (leAt c.pay 4 4) = par)
    (h : OpenFits s c.pay x par) :
    doSeqOpen s c x =
      (let q := leAt c.pay 0 4
       let src := leAt c.pay 4 4
       let n := openShared c.pay par
       let sq := openedSeq c.pay c.ts x
       let o := s.modVi c.vi (fun x => { x with seqs := tset x.seqs q sq })
       (((par.map (fun a => o.sharePages c.vi src q a n)).getD o).emit c.vi (some q) false
          (.seqOpen (seqOpenBytes q (if par.isSome then src else 0xFFFFFFFF) n sq)),
        some (stOk, openReply c.pay n))) := by
  have hobject := h.object hpar
  have hpermitted := h.permitted
  have hresource := h.resource
  simp only [thas, hpar] at hobject hpermitted
  cases par with
  | none =>
    simp only [openShared, Option.map_none, Option.getD_none] at hresource
    simp only [doSeqOpen, thas, hpar, if_neg hobject, hpermitted, if_neg hresource]
    rfl
  | some a =>
    have hlike := h.like_source
    simp only [openShared, Option.map_some, Option.getD_some] at hresource
    simp only [openSet] at hlike
    simp only [doSeqOpen, thas, hpar, if_neg hobject, hpermitted, hlike, if_neg hresource]
    rfl

/-- R93, R148, R165: a SEQ_OPEN without a source, or whose turn has come, waits for no command of it; nor for one of the set it
names. -/
theorem effSeqOpen_of_fits {s o : State} {c : Cmd} {y x : Vi} {par : Option Seq} (ho : s.cancelSpills c.vi (leAt c.pay 4 4) = o)
    (hy : s.vi? c.vi = some y) (hx : o.vi? c.vi = some x)
    (hsource : leAt c.pay 4 4 = 0xFFFFFFFF ∨ (par.isSome = true ∧ o.blocked93 c.vi (leAt c.pay 4 4) (c.place o) = false))
    (hset : leAt c.pay 20 2 ≠ 0xFFFF → setBlocked c.vi y (leAt c.pay 20 2) (c.place o) = false) :
    effSeqOpen s c = doSeqOpen o c x := by
  have hturn : ¬ (leAt c.pay 4 4 ≠ 0xFFFFFFFF ∧
      (thas y.seqs (leAt c.pay 4 4) = true ∨ o.seqComing c.vi (leAt c.pay 4 4) (c.place o) = true) ∧
      o.blocked93 c.vi (leAt c.pay 4 4) (c.place o) = true) := by
    rintro ⟨hne, -, hblocked⟩
    simp [(hsource.resolve_left hne).2] at hblocked
  have hfree : ¬ (leAt c.pay 20 2 ≠ 0xFFFF ∧ setBlocked c.vi y (leAt c.pay 20 2) (c.place o) = true) := by
    rintro ⟨hne, hblocked⟩
    simp [hset hne] at hblocked
  simp only [effSeqOpen, hy, ho, hx, if_neg hturn, if_neg hfree, Option.getD_some]

/-! ### SEQ_FORK (R148) -/

/-- R148: what the child of a fork takes over from its parent, but for the pages. -/
def forkedSeq (sq : Seq) (ts : Stamp) : Seq := { sq with pinned := false, lastCpl := 0, opened := ts, saved := none }

theorem effSeqFork_shares {s o : State} {c : Cmd} {q child : Nat} {x : Vi} {sq : Seq} (hq : leAt c.pay 0 4 = q)
    (hchild : leAt c.pay 4 4 = child) (ho : s.cancelSpills c.vi q = o) (hx : o.vi? c.vi = some x) (hsq : tget x.seqs q = some sq)
    (hturn : o.blocked93 c.vi q (c.place o) = false) (hname : child ≠ 0xFFFFFFFF) (hfresh : thas x.seqs child = false)
    (htrain : sq.train = false) (hnumber : sumNat (o.vis.map (fun e => e.2.seqs.length)) < Config.maxSequences)
    (hroom : x.digitalUsed + Config.seqBytes sq.tokens.length ≤ x.part.digital * 1048576) :
    effSeqFork s c =
      (((o.modVi c.vi (fun x => { x with seqs := tset x.seqs child (forkedSeq sq c.ts) })).sharePages c.vi q child sq sq.p).emit
          c.vi (some q) false (.seqFork child),
        some (stOk, le 4 child ++ le 4 sq.p)) := by
  have hpermit : ¬ (thas x.seqs child = true ∨ sq.train = true) := by simp [hfresh, htrain]
  have hfits := not_or.2 ⟨hnumber.not_ge, hroom.not_gt⟩
  simp only [effSeqFork, hq, hchild, ho, hx, hsq, hturn, if_neg hname, if_neg hpermit, if_neg hfits, Bool.false_eq_true, if_false]
  rfl

/-! ### SEQ_CLOSE and SEQ_QUERY (R156, R283, R347, R348) -/

/-- R156, R347: a SEQ_CLOSE abandons the steps of its sequence, frees its pages, and answers when those steps have ended. -/
theorem effSeqClose_closes {s : State} {c : Cmd} {x : Vi} (hx : s.vi? c.vi = some x) (hsq : thas x.seqs (leAt c.pay 0 4) = true) :
    let r := s.closeSeq c.vi (leAt c.pay 0 4)
    effSeqClose s c = ((r.1.modVi c.vi (fun x => { x with
      ends := x.ends ++ [⟨c.entry, r.2, some (leAt c.pay 0 4), none, r.2.length⟩] })).endWaits c.vi, none) := by
  simp only [effSeqClose, hx, hsq, Bool.not_true, Bool.false_eq_true, if_false]

/-- R283: what a SEQ_QUERY reports of a sequence. -/
def seqReport (s : State) (v q : Nat) (x : Vi) (sq : Seq) : List Byte :=
  le 4 q ++ le 4 sq.p ++ le 1 (b2n (s.steps.any (fun e => e.2.vi == v && e.2.seq == q && e.2.adm.isSome && !e.2.closed))) ++
    le 1 (b2n sq.pinned) ++ le 1 (b2n sq.train) ++ zeros 1 ++ le 4 (x.countPages q [.resident, .spilling]) ++
    le 4 (x.countPages q [.spilled, .fetching]) ++ le 4 (x.countPages q [.dropped]) ++ le 2 (sq.set.getD 0xFFFF) ++ zeros 2 ++
    le 8 sq.lastCpl

theorem effSeqQuery_reports {s o : State} {c : Cmd} {q : Nat} {x : Vi} {sq : Seq} (hq : leAt c.pay 0 4 = q)
    (ho : s.cancelSpills c.vi q = o) (hx : o.vi? c.vi = some x) (hsq : tget x.seqs q = some sq) :
    effSeqQuery s c = (o, some (stOk, seqReport o c.vi q x sq)) := by
  simp only [effSeqQuery, seqReport, hq, ho, hx, hsq]

/-- Settles O11: each request goes on past its guards, which its hypotheses meet, to its own effect. -/
theorem sequenceCommands : Obligations.SequenceCommands := by
  unfold Obligations.SequenceCommands
  refine ⟨?opens, ?forks, ?closes, ?queries⟩
  case opens =>
    intro s p v y x par h pay q src o place ctx pos train set setOpt m n sq fresh hy hx hpar hsource hset hname hformat hsound hfresh
      htraining himage hagrees hnumber hroom
    have hfits : OpenFits o pay x par := ⟨hname, hformat, hsource.imp_right And.left, hsound, hfresh, htraining, himage, hagrees,
      hnumber, hroom⟩
    exact congrArg Host.Outcome.next (takeAs_completes h ((effSeqOpen_of_fits (c := s.command p v) rfl hy hx hsource hset).trans
      (doSeqOpen_of_fits (c := s.command p v) hpar hfits)))
  case forks =>
    intro s p v x sq h q o child hx hsq hturn hname hfresh htrain hnumber hroom
    exact congrArg Host.Outcome.next (takeAs_completes h
      (effSeqFork_shares (c := s.command p v) rfl rfl rfl hx hsq hturn hname hfresh htrain hnumber hroom))
  case closes =>
    intro s p v x h o q r hx hsq
    exact congrArg Host.Outcome.next (takeAs_later h rfl (effSeqClose_closes (c := s.command p v) hx hsq))
  case queries =>
    intro s p v x sq h q o hx hsq
    exact congrArg Host.Outcome.next (takeAs_completes h (effSeqQuery_reports (c := s.command p v) rfl rfl hx hsq))

end Sys2Proof.Machine
end

section
/-! PROOFS. Requests about the residency of a sequence: KV_PIN, KV_EVICT and KV_PREFETCH (R93, R145, R147, R153–R155). -/
namespace Sys2Proof.Machine

/-- R266, R271: an admitted request whose effect answers now in one case, and in the other later. -/
theorem takeAs_now_or_later {s t u : State} {p : Packet} {op v st : Nat} {eff : Effect} {pay : List Byte} {now : Prop} [Decidable now]
    (h : s.admits p op v = true)
    (heff : eff (s.opened p v) (s.command p v) = if now then (t, some (st, pay)) else (u, none)) :
    (now → s.takeAs op p noStatic eff = s.completes p v t st pay) ∧ (¬ now → s.takeAs op p noStatic eff = u) :=
  ⟨fun hnow => takeAs_completes h (heff.trans (if_pos hnow)), fun hlater => takeAs_later h rfl (heff.trans (if_neg hlater))⟩

/-- R153, R154, R155: the answer to a residency command: its sequence, and how many pages it concerns. -/
def kvReply (q n : Nat) : List Byte := le 4 q ++ le 4 n

/-- R271: a command that is not done yet runs on, with the answer that it will give. -/
def State.runsOn (s : State) (c : Cmd) (pay : List Byte) : State :=
  s.modEntry c.vi c.entry (fun e => { e with state := .running, payload := pay })

/-- R153: the state in which a KV_PIN has pinned its sequence, and what is away comes back. -/
def State.pinSeq (s : State) (c : Cmd) (q away : Nat) : State :=
  ((s.modVi c.vi (fun x => x.modSeq q (fun sq => { sq with pinned := true }))).emit c.vi (some q) (decide (away ≠ 0))
    (.kvPin true)).touchSeq c.vi q (c.place s)

/-- R154: the state in which an eviction has started the spills of some pages. -/
def State.spillAll (s : State) (v : Nat) (ks : List Nat) : State := ks.foldl (fun s k => s.startSpill v k) s

section Effects
variable {s o : State} {c : Cmd} {q : Nat} {x : Vi} {sq : Seq} (hq : leAt c.pay 0 4 = q) (ho : s.cancelSpills c.vi q = o)
  (hx : o.vi? c.vi = some x) (hturn : o.blocked93 c.vi q (c.place o) = false)
include hq ho hx hturn

/-! ### KV_PIN (R153) -/

theorem effKvPin_unpins (hsq : tget x.seqs q = some sq) (hoff : bitOf (leAt c.pay 4 1) 0 = false) :
    effKvPin s c = ((o.modVi c.vi (fun x => x.modSeq q (fun sq => { sq with pinned := false }))).emit c.vi (some q) false
      (.kvPin false), some (stOk, le 4 q ++ zeros 4)) := by
  simp only [effKvPin, hq, ho, hx, hturn, hsq, hoff, Bool.not_false, Bool.false_eq_true, if_false, if_true]

/-- R153: a KV_PIN that keeps within half of T1 pins; it answers now where nothing is away, else it runs on. -/
theorem effKvPin_pins (hsq : tget x.seqs q = some sq) (hon : bitOf (leAt c.pay 4 1) 0 = true)
    (hroom : sq.held = true ∨ 2 * x.pinnedBytes q ≤ x.kv.t1.size) :
    effKvPin s c =
      if x.awayPages q = 0 then (o.pinSeq c q (x.awayPages q), some (stOk, kvReply q 0))
      else ((o.pinSeq c q (x.awayPages q)).runsOn c (kvReply q (x.awayPages q)), none) := by
  have hfits : ¬ ((!sq.held) = true ∧ 2 * x.pinnedBytes q > x.kv.t1.size) := by
    rintro ⟨hfree, hover⟩
    exact hover.not_ge (hroom.resolve_left (by simpa using hfree))
  simp only [effKvPin, hq, ho, hx, hturn, hsq, hon, if_neg hfits, Bool.not_true, Bool.false_eq_true, if_false]
  rfl

/-! ### KV_EVICT (R154) -/

/-- R154: a KV_EVICT that finds remote room for the unshared pages, every one of which then spills, answers now where there is
none, else it runs on. -/
theorem effKvEvict_spills {ks : List Nat} (hks : x.privateResident q = ks) (hsq : tget x.seqs q = some sq) (hfree : sq.held = false)
    (hremote : x.part.remote ≠ 0)
    (hroom : x.kv.t2Bytes + sumNat (ks.map (fun k =>
      ((tget x.kv.pages k).map (fun p => blockBytes p.mElem + blockBytes p.mScale)).getD 0)) ≤ x.part.remote * 1048576)
    (hall : ∀ k ∈ ks, (((o.spillAll c.vi ks).vi? c.vi).bind (fun y => tget y.kv.pages k)).map Page.state = some .spilling) :
    effKvEvict s c =
      if ks = [] then (o, some (stOk, kvReply q 0)) else ((o.spillAll c.vi ks).runsOn c (kvReply q ks.length), none) := by
  have hfits := not_or.2 ⟨hremote, hroom.not_gt⟩
  have hspill := List.all_eq_true.2 fun k hk => beq_iff_eq.2 (hall k hk)
  unfold State.spillAll at hspill
  simp only [effKvEvict, hq, ho, hx, hturn, hsq, hks, hfree, if_neg hfits, hspill, Bool.not_true, Bool.false_eq_true, if_false]
  rfl

/-! ### KV_PREFETCH (R155) -/

theorem effKvPrefetch_fetches (hsq : thas x.seqs q = true) :
    effKvPrefetch s c =
      if x.awayPages q = 0 then (o.touchSeq c.vi q (c.place o), some (stOk, kvReply q 0))
      else ((o.touchSeq c.vi q (c.place o)).runsOn c (kvReply q (x.awayPages q)), none) := by
  simp only [effKvPrefetch, hq, ho, hx, hturn, hsq, Bool.not_true, Bool.false_eq_true, if_false]
  rfl

end Effects

/-- Settles O12: each request goes on past its guards, which its hypotheses meet; it answers at once where it has nothing to wait
for. -/
theorem residencyCommands : Obligations.ResidencyCommands := by
  unfold Obligations.ResidencyCommands
  refine ⟨?pin, ?evict, ?prefetch⟩
  case pin =>
    intro s p v x sq h q o away o' hx hturn hsq
    refine ⟨fun hoff => congrArg Host.Outcome.next (takeAs_completes h
      (effKvPin_unpins (c := s.command p v) rfl rfl hx hturn hsq hoff)), fun hon hroom => ?_⟩
    obtain ⟨hnow, hlater⟩ := takeAs_now_or_later h (effKvPin_pins (c := s.command p v) rfl rfl hx hturn hsq hon hroom)
    exact ⟨fun hnone => congrArg Host.Outcome.next (hnow hnone), fun haway => congrArg Host.Outcome.next (hlater haway)⟩
  case evict =>
    intro s p v x sq h q o ks t hx hsq hturn hfree hremote hroom hall
    obtain ⟨hnow, hlater⟩ := takeAs_now_or_later h
      (effKvEvict_spills (c := s.command p v) rfl rfl hx hturn rfl hsq hfree hremote hroom hall)
    exact ⟨fun hnone => congrArg Host.Outcome.next (hnow hnone), fun hsome => congrArg Host.Outcome.next (hlater hsome)⟩
  case prefetch =>
    intro s p v x h q o o' hx hturn hsq
    obtain ⟨hnow, hlater⟩ := takeAs_now_or_later h (effKvPrefetch_fetches (c := s.command p v) rfl rfl hx hturn hsq)
    exact ⟨fun hnone => congrArg Host.Outcome.next (hnow hnone), fun haway => congrArg Host.Outcome.next (hlater haway)⟩

end Sys2Proof.Machine
end

section
/-! PROOFS. Steps on their way through the device: SEQ_STEP, ADP_FWD_SAVE and ADP_BWD that add one, STEP_ADMIT, STEP_COMMIT and
STEP_END (R90, R91, R94, R96–R98, R100, R106, R139, R141, R168, R173, R208, R281). -/
namespace Sys2Proof.Machine

/-! ### A step-class request that no barrier turns away (R208) -/

/-- R208: a request meets no barrier, or has not asked to fail there. -/
theorem not_failsHeld {x : Vi} {c : Cmd} (h : x.img.held = true → c.failIfHeld = false) :
    ¬ (x.img.held = true ∧ c.failIfHeld = true) := fun ⟨hheld, hfail⟩ => by simp [h hheld] at hfail

/-- R281: the kind of step that a SEQ_STEP asks for. -/
def stepKindAt (pay : List Byte) : StepKind :=
  if leAt pay 4 1 = 0 then .decode else if leAt pay 4 1 = 1 then .prefill else .verify

theorem effSeqStep_adds {s : State} {c : Cmd} {x : Vi} (hx : s.vi? c.vi = some x) (h : x.img.held = true → c.failIfHeld = false) :
    effSeqStep s c = ((s.touchSeq c.vi (leAt c.pay 0 4) (c.place s)).addStep
      { Step.waiting c.vi (leAt c.pay 0 4) (stepKindAt c.pay) (some c.entry) (c.place s) (tokensAt c.pay 24 (leAt c.pay 6 2)) with
        failIfHeld := c.failIfHeld, sample := bitOf (leAt c.pay 5 1) 0
        samp := if bitOf (leAt c.pay 5 1) 1 then some (samplingAt c.pay 8 12) else none }, none) := by
  simp only [effSeqStep, stepKindAt, hx, if_neg (not_failsHeld h)]

theorem effAdpFwdSave_adds {s : State} {c : Cmd} {x : Vi} (hx : s.vi? c.vi = some x)
    (htrain : (tget x.seqs (leAt c.pay 0 4)).map Seq.train ≠ some false) (h : x.img.held = true → c.failIfHeld = false) :
    effAdpFwdSave s c = ((s.touchSeq c.vi (leAt c.pay 0 4) (c.place s)).addStep
      { Step.waiting c.vi (leAt c.pay 0 4) .fwdSave (some c.entry) (c.place s) (fwdTokens c.pay) with
        failIfHeld := c.failIfHeld, targets := fwdTargets c.pay
        lossScale := fClampOr (BitVec.ofNat 32 (leAt c.pay 8 4)) 0 0x47800000#32 0 }, none) := by
  simp only [effAdpFwdSave, hx, if_neg htrain, if_neg (not_failsHeld h)]

theorem effAdpBwd_adds {s : State} {c : Cmd} {x : Vi} (hx : s.vi? c.vi = some x)
    (hopen : s.seqOpen c.vi x (leAt c.pay 0 4) (c.place s) = true) (hkeep : bitOf (leAt c.pay 4 1) 0 = false)
    (h : x.img.held = true → c.failIfHeld = false) :
    effAdpBwd s c = ((s.touchSeq c.vi (leAt c.pay 0 4) (c.place s)).addStep
      { Step.waiting c.vi (leAt c.pay 0 4) .backward (some c.entry) (c.place s) [] with failIfHeld := c.failIfHeld }, none) := by
  simp only [effAdpBwd, hx, hopen, hkeep, if_neg (not_failsHeld h), Bool.not_true, Bool.false_eq_true, if_false]

/-- R172: an ADP_BWD with DISCARD frees the saved area in its turn. -/
theorem effAdpBwd_discards {s : State} {c : Cmd} {x : Vi} (hx : s.vi? c.vi = some x)
    (hopen : s.seqOpen c.vi x (leAt c.pay 0 4) (c.place s) = true) (hdiscard : bitOf (leAt c.pay 4 1) 0 = true)
    (hturn : s.blocked93 c.vi (leAt c.pay 0 4) (c.place s) = false)
    (hsaved : ((tget x.seqs (leAt c.pay 0 4)).bind Seq.saved).isSome = true) :
    effAdpBwd s c = (s.modVi c.vi (fun x => x.modSeq (leAt c.pay 0 4) (fun sq => { sq with saved := none })),
      some (stOk, bwdReply c.pay 0 0 0)) := by
  have hnone := Option.isNone_eq_false_iff.2 hsaved
  simp only [effAdpBwd, hx, hopen, hdiscard, hturn, hnone, Bool.not_true, Bool.false_eq_true, if_false, if_true]

/-- Settles O20: ADP_FWD_SAVE and ADP_BWD add the step that their effect makes; a discard answers at once. -/
theorem trainingCommands : Obligations.TrainingCommands := by
  unfold Obligations.TrainingCommands
  refine ⟨?fwdSave, ?bwd⟩
  case fwdSave =>
    intro s p v x h hchk o q place hx htrain hheld
    exact congrArg Host.Outcome.next (takeAs_later h hchk (effAdpFwdSave_adds (c := s.command p v) hx htrain hheld))
  case bwd =>
    intro s p v x h o q place hx hopen
    exact ⟨fun hkeep hheld => congrArg Host.Outcome.next (takeAs_later h rfl
        (effAdpBwd_adds (c := s.command p v) hx hopen hkeep hheld)),
      fun hdiscard hturn hsaved => congrArg Host.Outcome.next (takeAs_completes h
        (effAdpBwd_discards (c := s.command p v) hx hopen hdiscard hturn hsaved))⟩

/-! ### STEP_ADMIT (R94, R96, R97) -/

/-- R208: no step that waits has asked to fail at a barrier that its VI is held at. -/
def State.NoneFailsHeld (s : State) : Prop :=
  ∀ e ∈ s.steps, e.2.inFlight = false → e.2.failIfHeld = true → (s.vi? e.2.vi).map (fun x => x.img.held) ≠ some true

theorem heldSteps_eq_nil {s : State} (h : s.NoneFailsHeld) :
    (s.steps.filter (fun e => !e.2.inFlight)).filter
      (fun e => e.2.failIfHeld && (s.vi? e.2.vi).map (fun x => x.img.held) == some true) = [] := by
  refine List.filter_eq_nil_iff.2 fun e he => ?_
  obtain ⟨hmem, hwaits⟩ := List.mem_filter.1 he
  have hbarrier := h e hmem (by simpa using hwaits)
  simpa using hbarrier

/-- R96: the first waiting step, in the order of R96, whose admission does not wait. -/
def State.nextAdmission (s : State) : Option (Nat × Step) :=
  (sortBy (fun (a b : Nat × Step) => s.admitLt a.2 b.2) (s.steps.filter (fun e => !e.2.inFlight))).find?
    (fun e => s.admission e.1 e.2 != .wait)

theorem admitNext_admits {s : State} {k : Nat} {t : Step} {p : Plan} (hheld : s.NoneFailsHeld) (hnext : s.nextAdmission = some (k, t))
    (hgo : s.admission k t = .go p) : s.admitNext = s.admitStep k t p := by
  unfold State.nextAdmission at hnext
  simp only [State.admitNext, heldSteps_eq_nil hheld, List.foldl_nil, hnext, hgo]

theorem admitNext_fails {s : State} {k st : Nat} {t : Step} (hheld : s.NoneFailsHeld) (hnext : s.nextAdmission = some (k, t))
    (hfail : s.admission k t = .fail st) : s.admitNext = (s.dropSaved t).failStep k st := by
  unfold State.nextAdmission at hnext
  simp only [State.admitNext, heldSteps_eq_nil hheld, List.foldl_nil, hnext, hfail]

/-! ### STEP_COMMIT (R98, R106, R141) and STEP_END (R106, R347) -/

/-- R98, R147, R177: the commit of a step, as its kind has it. -/
def State.commitAs (s : State) (k : Nat) (t : Step) (x : Vi) (sq : Seq) : State :=
  if t.kind = .recompute then s.commitRecompute k t x sq
  else if t.kind = .backward then s.commitBackward k t x sq
  else s.commitForward k t x sq

/-- R98, R106: a step in flight that is not to end and whose positions have all finished commits as its kind does. -/
theorem exec_stepCommit {s : State} {k : Nat} {t : Step} {x : Vi} {sq : Seq} (ht : s.step? k = some t) (hx : s.vi? t.vi = some x)
    (hsq : tget x.seqs t.seq = some sq) (hfly : t.inFlight = true) (hends : t.ending = false) (hdone : t.toks.all Tok.done = true)
    (hpwr : s.pwr.state ≤ 1) (hhbm : s.hbmHeld = false) (hroom : bufferRoom x t = true) (ts : Nat) :
    exec (.stepCommit ts k) s = .next (((s.upto ts).commitAs k t x sq).afterStep t.vi) := by
  have hpass : ¬ ((!t.inFlight) = true ∨ t.ending = true ∨ (!t.toks.all Tok.done) = true ∨ 1 < (s.upto ts).pwr.state ∨
      (s.upto ts).hbmHeld = true ∨ (!bufferRoom x t) = true) := by
    have hhbm' : (s.upto ts).hbmHeld = false := hhbm
    simp [hfly, hends, hdone, hpwr, hhbm', hroom]
  simp only [exec, execStepCommit, step?_upto, ht, vi?_upto, hx, hsq, if_neg hpass, State.commitAs]
  cases t.kind <;> rfl

/-- R106, R347: a step that is marked to end does so at a layer boundary or once its tokens are done. -/
theorem exec_stepEnd {s : State} {k : Nat} {t : Step} (ht : s.step? k = some t) (hends : t.ending = true)
    (hstop : t.crossed = true ∨ t.toks.all Tok.done = true) (ts : Nat) :
    let o := s.upto ts
    exec (.stepEnd ts k) s = .next ((if o.endsForReset t = false then o.failStep k stAbandoned
      else if t.entry = none then o.requeue k else o.dropStep k).afterStep t.vi) := by
  have hboundary : (t.crossed || t.toks.all Tok.done) = true := Bool.or_eq_true_iff.2 hstop
  simp only [exec, execStepEnd, step?_upto, ht, hends, hboundary, Bool.not_true, Bool.false_eq_true, or_self, if_false,
    Bool.not_eq_true', Option.isNone_iff_eq_none]

/-- Settles O15: a SEQ_STEP adds its step; a waiting step is admitted, or answered, as its admission comes out; a step commits or
ends as its kind and its mark say. -/
theorem stepCommands : Obligations.StepCommands := by
  unfold Obligations.StepCommands
  refine ⟨?add, ?admission, ?commit, fun s ts k t ht hends hstop => exec_stepEnd ht hends hstop ts⟩
  case add =>
    intro s p v x h hchk o pay place kind hx hheld
    exact congrArg Host.Outcome.next (takeAs_later h hchk (effSeqStep_adds (c := s.command p v) hx hheld))
  case admission =>
    intro s ts k t o hheld hnext
    exact ⟨fun p hgo => congrArg Host.Outcome.next (admitNext_admits (s := o) hheld hnext hgo),
      fun st hfail => congrArg Host.Outcome.next (admitNext_fails (s := o) hheld hnext hfail)⟩
  case commit =>
    intro s ts k t x sq ht hx hsq hfly hends hdone hpwr hhbm hroom o
    have hexec := exec_stepCommit ht hx hsq hfly hends hdone hpwr hhbm hroom ts
    simp only [State.commitAs] at hexec
    exact ⟨fun hre => by rwa [if_pos hre] at hexec, fun hbw => by rwa [if_neg (by simp [hbw]), if_pos hbw] at hexec,
      fun hre hbw => by rwa [if_neg hre, if_neg hbw] at hexec⟩

end Sys2Proof.Machine
end

section
/-! PROOFS. Tokens at the descriptors of scores: EMBED, NORM, ACT and RESID (R105, R114–R116, R174, R175). -/
namespace Sys2Proof.Machine

section Descriptors
variable {s : State} {ts step tok : Nat} {t : Step} {im : Image} {c : Tok} {d : Desc} {x : Vi}

/-! ### EMBED (R114) -/

theorem exec_embed_forward (hr : (s.upto ts).ready step tok 1 = some (im, t, c, d)) (hk : t.kind ≠ .backward) :
    exec (.embed ts step tok) s = .next ((s.upto ts).finishDesc im step tok (fun c => { c with
      slot0 := (bfVec im.digital (leAt d 16 8 + 2 * (t.tokens.getD tok 0 * dOut d)) (dOut d)).map
        (fun e => ⟨bMul e (bfAt d 28), 0⟩) })) := by
  simp only [exec, execEmbed, hr, if_neg hk]

theorem exec_embed_backward (hr : (s.upto ts).ready step tok 1 = some (im, t, c, d)) (hk : t.kind = .backward) :
    exec (.embed ts step tok) s = .next ((s.upto ts).finishDesc im step tok id) := by
  simp only [exec, execEmbed, hr, if_pos hk]

/-! ### NORM (R115, R175) -/

theorem exec_norm_forward (hr : (s.upto ts).ready step tok 2 = some (im, t, c, d)) (hx : s.vi? t.vi = some x)
    (hk : t.kind ≠ .backward) :
    let xs := c.slot0.map cToF
    let st := normStats (leAt d 36 1) (dF32 d 32) xs
    exec (.norm ts step tok) s = .next
      (((s.upto ts).keep step t c.pos c.desc (.norm (c.slot0.map Comp.hi) st.1 st.2)).finishDesc im step tok (fun c =>
        { c with slots := tset c.slots (dDst d) (normOf x im t.adp d xs st.1 st.2) })) := by
  simp only [exec, execNorm, hr, vi?_upto, hx, if_neg hk]

/-- R175, R180: the gradient of the gain is staged where the bound set holds one. -/
theorem exec_norm_backward {ys : List F32} {r mu : F32} (hr : (s.upto ts).ready step tok 2 = some (im, t, c, d))
    (hx : s.vi? t.vi = some x) (hk : t.kind = .backward)
    (hsaved : savedAt (savedItems x t) c.pos c.desc = some (.norm ys r mu)) :
    let b := normBack (leAt d 36 1) ys r mu (normGain x im t.adp d) (slotGrad c (dDst d) (dIn d))
    ∃ o', exec (.norm ts step tok) s = .next (o'.finishDesc im step tok (fun c => dropGrad
        { c with grad0 := ((resGrad c (dIn d)).zip b.1).map (fun e => cAdd e.1 e.2) } (dDst d))) ∧
      (o' = s.upto ts ∨ ∃ i, o' = (s.upto ts).stage step i b.2) := by
  intro b
  simp only [exec, execNorm, hr, vi?_upto, hx, if_pos hk, hsaved]
  refine ⟨_, rfl, ?_⟩
  split
  case h_1 i _ _ => exact .inr ⟨i, rfl⟩
  case h_2 => exact .inl rfl

/-! ### ACT (R116, R174) -/

theorem exec_act_forward (hr : (s.upto ts).ready step tok 5 = some (im, t, c, d)) (hk : t.kind ≠ .backward) :
    exec (.act ts step tok) s = .next ((s.upto ts).finishDesc im step tok (fun c =>
      { c with
        slots := tset c.slots (dDst d)
          (actOut (leAt d 16 1) (tgetD c.slots (dSrc d) []) (tgetD c.slots (dSrc2 d) [])) })) := by
  simp only [exec, execAct, hr, if_neg hk]

/-- R174: with the values of its sources, an ACT adds to their gradients. -/
theorem exec_act_backward {a b : List Bf16} (hr : (s.upto ts).ready step tok 5 = some (im, t, c, d)) (hx : s.vi? t.vi = some x)
    (hk : t.kind = .backward) (ha : (fwdSlot x im t c c.desc (dSrc d)).1 = some a)
    (hb : (if gated (leAt d 16 1) then (fwdSlot x im t c c.desc (dSrc2 d)).1 else some []) = some b) :
    let g := actBack (leAt d 16 1) a b (slotGrad c (dDst d) (dOut d))
    exec (.act ts step tok) s = .next ((s.upto ts).finishDesc im step tok (fun c =>
      let c := addGrad (dropGrad c (dDst d)) (dSrc d) g.1
      if gated (leAt d 16 1) then addGrad c (dSrc2 d) g.2 else c)) := by
  simp only [exec, execAct, hr, if_pos hk, vi?_upto, hx, ha, hb]

/-! ### RESID (R116, R174) -/

theorem exec_resid_forward (hr : (s.upto ts).ready step tok 6 = some (im, t, c, d)) (hk : t.kind ≠ .backward) :
    exec (.resid ts step tok) s = .next ((s.upto ts).finishDesc im step tok (fun c =>
      { c with
        slot0 := (c.slot0.zip (tgetD c.slots (dSrc d) [])).map (fun e => cAdd e.1 (fMul (ofBf e.2) (ofBf (bfAt d 16)))) })) := by
  simp only [exec, execResid, hr, if_neg hk]

theorem exec_resid_backward (hr : (s.upto ts).ready step tok 6 = some (im, t, c, d)) (hk : t.kind = .backward) :
    exec (.resid ts step tok) s = .next ((s.upto ts).finishDesc im step tok (fun c =>
      addGrad c (dSrc d) ((resGrad c (dIn d)).map (fun g => fMul (ofBf (bfAt d 16)) (cToF g))))) := by
  simp only [exec, execResid, hr, if_pos hk]

end Descriptors

/-- Settles O16: a token that may run its descriptor runs it, forward or backward as the kind of its step says. -/
theorem scoreCommands : Obligations.ScoreCommands := by
  unfold Obligations.ScoreCommands
  intro s ts step tok t im c x ht him hx hc hfly hcross hdone hpwr hhbm o d row xs st f m
  have hready : ∀ kind, dKind d = kind → o.ready step tok kind = some (im, t, c, d) := fun kind =>
    ready_of s ts ht him hc hfly hcross hdone hpwr hhbm
  exact ⟨fun hd => exec_embed_forward (hready 1 hd), fun hd => exec_embed_backward (hready 1 hd),
    fun hd => exec_norm_forward (hready 2 hd) hx, fun ys r mu hd => exec_norm_backward (hready 2 hd) hx,
    fun hd => exec_act_forward (hready 5 hd), fun a b hd => exec_act_backward (hready 5 hd) hx,
    fun hd => exec_resid_forward (hready 6 hd), fun hd => exec_resid_backward (hready 6 hd)⟩

end Sys2Proof.Machine
end

section
/-! PROOFS. Tokens at the descriptors of attention, experts and the head: ATTN, ROUTE, EXPERTS and HEAD (R105, R110–R113,
R117–R119, R127, R169, R174, R177). -/
namespace Sys2Proof.Machine

section Descriptors
variable {s : State} {ts step tok : Nat} {t : Step} {im : Image} {c : Tok} {d : Desc} {x : Vi} {sq : Seq}

/-! ### ATTN (R105, R127, R176, R177) -/

theorem exec_attn_forward (hr : (s.upto ts).ready step tok 4 = some (im, t, c, d)) (hx : s.vi? t.vi = some x)
    (hsq : x.seqOf t = some sq) (hk : t.kind ≠ .backward) (hpast : ∀ e ∈ t.toks.take tok, e.done = true ∨ c.desc < e.desc) :
    exec (.attn ts step tok) s = .next ((s.upto ts).attnForward im x sq step tok t c d) := by
  have hall : ((t.toks.take tok).all (fun e => e.done || decide (c.desc < e.desc))) = true := by simpa using hpast
  simp only [exec, execAttn, hr, vi?_upto, hx, hsq, if_neg hk, if_pos hall]

/-- R177: backward, the later positions come first. -/
theorem exec_attn_backward (hr : (s.upto ts).ready step tok 4 = some (im, t, c, d)) (hx : s.vi? t.vi = some x)
    (hsq : x.seqOf t = some sq) (hk : t.kind = .backward)
    (hpast : ∀ e ∈ t.toks.drop (tok + 1), e.done = true ∨ e.desc < c.desc) :
    exec (.attn ts step tok) s = .next ((s.upto ts).attnBackward im x sq step tok t c d) := by
  have hall : ((t.toks.drop (tok + 1)).all (fun e => e.done || decide (e.desc < c.desc))) = true := by simpa using hpast
  simp only [exec, execAttn, hr, vi?_upto, hx, hsq, if_pos hk, if_pos hall]

/-! ### ROUTE (R110, R112) -/

/-- R110: the experts that a ROUTE chooses for a token, with their gates. -/
def routeChoice (im : Image) (d : Desc) (c : Tok) : List (Nat × F32) :=
  routeOf (routerLogits (tgetD c.slots (dSrc d) []) (bfVec im.digital (leAt d 16 8) (dIn d * leAt d 32 2)) (leAt d 32 2))
    (bfTable im.digital (leAt d 24 8) (leAt d 32 2)) (leAt d 34 1) (leAt d 35 1) (dF32 d 36)

theorem exec_route_forward (hr : (s.upto ts).ready step tok 7 = some (im, t, c, d)) (hx : s.vi? t.vi = some x)
    (hk : t.kind ≠ .backward) :
    let ch := routeChoice im d c
    let o := (s.upto ts).keep step t c.pos c.desc (.route ch)
    let rs : List Choice :=
      ch.map (fun g => ⟨g.1, g.2, o.pickReplica t.vi x im (expertOf im (expertsOf im c.desc d) g.1), none, none, none, none, none⟩)
    exec (.route ts step tok) s = .next (o.finishDesc im step tok (fun c => { c with lists := tset c.lists (dLayer d) rs })) := by
  simp only [exec, execRoute, routeChoice, hr, vi?_upto, hx, if_neg hk]

theorem exec_route_backward (hr : (s.upto ts).ready step tok 7 = some (im, t, c, d)) (hx : s.vi? t.vi = some x)
    (hk : t.kind = .backward) : exec (.route ts step tok) s = .next ((s.upto ts).finishDesc im step tok id) := by
  simp only [exec, execRoute, hr, vi?_upto, hx, if_pos hk]

/-! ### EXPERTS (R113, R174) -/

theorem exec_experts_forward (hr : (s.upto ts).ready step tok 8 = some (im, t, c, d)) (hk : t.kind ≠ .backward)
    (hout : ∀ r ∈ c.routes, r.out.isSome = true) :
    exec (.experts ts step tok) s = .next ((s.upto ts).finishDesc im step tok (fun c =>
      let g := c.routes.foldl (fun acc r => (acc.zip (r.out.getD [])).map (fun e =>
        cAddPair e.1 ⟨fMul r.gate e.2.hi, fMul r.gate e.2.lo⟩)) c.slot0
      { c with slot0 := g, routes := [] })) := by
  simp only [exec, execExperts, hr, if_neg hk, if_pos (List.all_eq_true.2 hout)]

theorem exec_experts_backward (hr : (s.upto ts).ready step tok 8 = some (im, t, c, d)) (hk : t.kind = .backward)
    (hdx : ∀ r ∈ c.routes, r.dx.isSome = true) :
    exec (.experts ts step tok) s = .next ((s.upto ts).finishDesc im step tok (fun c =>
      let g := c.routes.foldl (fun acc r => (acc.zip (r.dx.getD [])).map (fun e => cAdd e.1 (ofBf e.2)))
        (List.replicate (dIn d) Comp.zero)
      { addGrad c (dSrc d) (g.map cToF) with routes := [] })) := by
  simp only [exec, execExperts, hr, if_pos hk, if_pos (List.all_eq_true.2 hdx)]

/-! ### HEAD (R117, R119, R168–R170) -/

/-- R119: the output of the projection is in, and the token has neither been sampled nor taken its loss. -/
theorem not_head_waits (hz : c.logits ≠ []) (hnew : c.sampled = none) : ¬ (c.logits = [] ∨ c.sampled.isSome = true) := by
  simp [hz, hnew]

/-- R117, R119: a position without a target of training is sampled from its capped logits. -/
theorem exec_head_sample (hr : (s.upto ts).ready step tok 9 = some (im, t, c, d)) (hx : s.vi? t.vi = some x)
    (hk : t.kind ≠ .backward) (hfree : t.kind ≠ .fwdSave ∨ t.targets.getD tok none = none) (hz : c.logits ≠ [])
    (hnew : c.sampled = none) :
    let z := headLogits x im t d c.logits
    exec (.head ts step tok) s = .next (({ s.upto ts with draws := s.draws + 1 } : State).finishDesc im step tok (fun c =>
      { c with logits := z, sampled := some (sampleToken z (sampOf x t) (uniform (Config.draw s.draws))) })) := by
  simp only [exec, execHead, hr, vi?_upto, hx, if_neg hk, if_neg (not_head_waits hz hnew)]
  split
  case h_1 y hsave hy =>
    exact absurd hfree (not_or.2 ⟨not_not_intro hsave, by simp only [hy, reduceCtorEq, not_false_eq_true]⟩)
  case h_2 => rfl

/-- R169, R170: a position with a target takes its loss; the gradient of a bound bias is staged. -/
theorem exec_head_target {y : Nat} (hr : (s.upto ts).ready step tok 9 = some (im, t, c, d)) (hx : s.vi? t.vi = some x)
    (hk : t.kind = .fwdSave) (hy : t.targets.getD tok none = some y) (hz : c.logits ≠ []) (hnew : c.sampled = none) :
    let l := lossOf (headLogits x im t d c.logits) y t.lossScale (dF32 d 28)
    ∃ o' : State, exec (.head ts step tok) s = .next ((o'.modStep step (fun t => { t with loss := cAdd t.loss l.1 })).modTok step tok
        (fun c => { c with logits := l.2, sampled := some (y, l.1) })) ∧
      (o' = s.upto ts ∨ ∃ i, o' = (s.upto ts).stage step i l.2) := by
  intro l
  simp only [exec, execHead, hr, vi?_upto, hx, if_neg (not_head_waits hz hnew), hk, hy]
  refine ⟨_, rfl, ?_⟩
  split
  case h_1 i _ _ =>
    split
    · exact .inl rfl
    · exact .inr ⟨i, rfl⟩
  case h_2 => exact .inl rfl

theorem exec_head_backward {g : List Bf16} (hr : (s.upto ts).ready step tok 9 = some (im, t, c, d)) (hx : s.vi? t.vi = some x)
    (hk : t.kind = .backward) (hsaved : savedAt (savedItems x t) c.pos c.desc = some (.head g)) :
    exec (.head ts step tok) s = .next ((s.upto ts).finishDesc im step tok (fun c => addGrad c (dSrc d) (g.map ofBf))) := by
  simp only [exec, execHead, hr, vi?_upto, hx, if_pos hk, hsaved]

end Descriptors

/-- Settles O17: a token that may run its descriptor runs it, forward or backward as the kind of its step says. -/
theorem tokenCommands : Obligations.TokenCommands := by
  unfold Obligations.TokenCommands
  intro s ts step tok t im c x ht him hx hc hfly hcross hdone hpwr hhbm o d n ch o' rs z got
  have hready : ∀ kind, dKind d = kind → o.ready step tok kind = some (im, t, c, d) := fun kind =>
    ready_of s ts ht him hc hfly hcross hdone hpwr hhbm
  exact ⟨fun sq hd => exec_attn_forward (hready 4 hd) hx, fun sq hd => exec_attn_backward (hready 4 hd) hx,
    fun hd => exec_route_forward (hready 7 hd) hx, fun hd => exec_route_backward (hready 7 hd) hx,
    fun hd => exec_experts_forward (hready 8 hd), fun hd => exec_experts_backward (hready 8 hd),
    fun hd => exec_head_sample (hready 9 hd) hx, fun y hd => exec_head_target (hready 9 hd) hx,
    fun g hd => exec_head_backward (hready 9 hd) hx⟩

end Sys2Proof.Machine
end

section
/-! PROOFS. The bytes of HBM: reading back what was written, and equal contents as equal data (R131, R135, R158). -/
namespace Sys2Proof.Machine

/-! ### Writing bytes (R131) -/

theorem memGet_memWrite_outside {m : List Host.Cell} (h : memWf m = true) {a k : Nat} {bs : List Byte}
    (hk : k < a ∨ a + bs.length ≤ k) : memGet (memWrite m a bs) k = memGet m k := by
  induction bs generalizing m a with
  | nil => rfl
  | cons b bs ih =>
    rw [List.length_cons] at hk
    rw [memWrite, ih (memWf_memSet h a b) (by omega), memGet_memSet h, if_neg (by omega)]

theorem memGet_memWrite_inside {m : List Host.Cell} (h : memWf m = true) {a i : Nat} {bs : List Byte} (hi : i < bs.length) :
    memGet (memWrite m a bs) (a + i) = bs[i] := by
  induction bs generalizing m a i with
  | nil => cases hi
  | cons b bs ih =>
    have hset := memWf_memSet h a b
    rw [memWrite]
    cases i with
    | zero => rw [memGet_memWrite_outside hset (by omega), memGet_memSet h, if_pos (Nat.add_zero a),
        List.getElem_cons_zero]
    | succ i => rw [show a + (i + 1) = a + 1 + i by omega, ih hset (Nat.lt_of_succ_lt_succ hi), List.getElem_cons_succ]

theorem memRead_memWrite {m : List Host.Cell} (h : memWf m = true) (a : Nat) (bs : List Byte) :
    memRead (memWrite m a bs) a bs.length = bs := by
  refine List.ext_getElem (by simp [memRead]) fun i _ hi => ?_
  simp only [memRead, List.getElem_map, List.getElem_range, memGet_memWrite_inside h hi]

/-! ### Equal contents are equal data -/

theorem memGet_eq_zero {m : List Host.Cell} {k : Nat} (h : ∀ c ∈ m, c.1 ≠ k) : memGet m k = 0 := by
  induction m with
  | nil => rfl
  | cons c m ih =>
    obtain ⟨hc, hm⟩ := List.forall_mem_cons.1 h
    rw [memGet, if_neg (Ne.symm hc), ih hm]

theorem memGet_of_mem {m : List Host.Cell} (h : memWf m = true) {c : Host.Cell} (hc : c ∈ m) : memGet m c.1 = c.2 := by
  obtain ⟨-, hrise⟩ := (memWf_iff m).1 h
  clear h
  induction m with
  | nil => cases hc
  | cons d m ih =>
    obtain ⟨hd, hm⟩ := List.pairwise_cons.1 hrise
    obtain rfl | hc := List.mem_cons.1 hc
    · rw [memGet, if_pos rfl]
    · rw [memGet, if_neg (hd c hc).ne', ih hc hm]

/-- In canonical form the cells are exactly the addresses that do not read 0, each with what it reads. -/
theorem mem_iff_memGet {m : List Host.Cell} (h : memWf m = true) (c : Host.Cell) : c ∈ m ↔ memGet m c.1 = c.2 ∧ c.2 ≠ 0 := by
  constructor
  · exact fun hc => ⟨memGet_of_mem h hc, ((memWf_iff m).1 h).1 c hc⟩
  · rintro ⟨hread, hne⟩
    by_contra hc
    refine hne (hread.symm.trans (memGet_eq_zero fun d hd heq => hc ?_))
    have hval : d.2 = c.2 := (memGet_of_mem h hd).symm.trans (heq ▸ hread)
    rwa [← show d = c from Prod.ext heq hval]

theorem memWf_ext {m m' : List Host.Cell} (h : memWf m = true) (h' : memWf m' = true) (hread : ∀ k, memGet m k = memGet m' k) :
    m = m' := by
  have hirrefl : Std.Irrefl (fun a b : Host.Cell => a.1 < b.1) := ⟨fun a => lt_irrefl a.1⟩
  have hanti : Std.Antisymm (fun a b : Host.Cell => a.1 < b.1) := ⟨fun a b hab hba => absurd hab hba.not_gt⟩
  refine ((memWf_iff m).1 h).2.eq_of_mem_iff ((memWf_iff m').1 h').2 fun c => ?_
  rw [mem_iff_memGet h, mem_iff_memGet h', hread]

/-- Settles O53: a write by induction on its bytes, a zeroed range by the law of `memZero`, and equality because a canonical list
is strictly rising and holds exactly the cells that do not read 0. -/
theorem memoryBytes : Obligations.MemoryBytes := by
  unfold Obligations.MemoryBytes
  refine ⟨fun m a bs h => ?_, fun m a n h => ?_, fun m m' => memWf_ext⟩
  · exact ⟨memWf_memWrite h bs a, memRead_memWrite h a bs, fun k => memGet_memWrite_outside h⟩
  · exact ⟨memWf_memZero h a n, memGet_memZero m a n⟩

end Sys2Proof.Machine
end

section
/-! PROOFS. The buddy allocator: the block a request takes, and the free bytes before and after (R132). -/
namespace Sys2Proof.Machine

/-! ### The first element that no other precedes -/

theorem bestBy_eq_none {α : Type} {lt : α → α → Bool} {xs : List α} : bestBy lt xs = none ↔ xs = [] := by
  cases xs <;> simp [bestBy]

section Best
variable {α : Type} {lt : α → α → Bool} (hasymm : ∀ ⦃a b⦄, lt a b = true → lt b a = false)
  (htrans : ∀ ⦃a b c⦄, lt a b = false → lt b c = false → lt a c = false)
include hasymm htrans

/-- Choosing the better one element by element ends with one of them, which neither the start nor any element precedes. -/
theorem foldl_better_spec (xs : List α) (x : α) :
    xs.foldl (fun b y => if lt y b then y else b) x ∈ x :: xs ∧
      ∀ y ∈ x :: xs, lt y (xs.foldl (fun b y => if lt y b then y else b) x) = false := by
  induction xs generalizing x with
  | nil =>
    have hirrefl : lt x x = false := Bool.eq_false_iff.2 fun hx => by simp [hasymm hx] at hx
    simpa using hirrefl
  | cons y ys ih =>
    rw [List.foldl_cons]
    cases hyx : lt y x with
    | true =>
      obtain ⟨hmem, hbest⟩ := ih y
      refine ⟨List.mem_cons_of_mem x hmem, List.forall_mem_cons.2 ⟨?_, hbest⟩⟩
      exact htrans (hasymm hyx) (hbest y List.mem_cons_self)
    | false =>
      rw [if_neg Bool.false_ne_true]
      obtain ⟨hmem, hbest⟩ := ih x
      obtain ⟨hx, hys⟩ := List.forall_mem_cons.1 hbest
      refine ⟨?_, List.forall_mem_cons.2 ⟨hx, List.forall_mem_cons.2 ⟨htrans hyx hx, hys⟩⟩⟩
      exact List.mem_cons.2 ((List.mem_cons.1 hmem).imp_right (List.mem_cons_of_mem y))

theorem bestBy_spec {xs : List α} {best : α} (h : bestBy lt xs = some best) : best ∈ xs ∧ ∀ y ∈ xs, lt y best = false := by
  cases xs with
  | nil => cases h
  | cons x xs =>
    obtain rfl := Option.some.inj h
    exact foldl_better_spec hasymm htrans xs x

end Best

/-- R132: a block comes before another by its order, then by its address. -/
theorem blockLt_iff (x y : Nat × Nat) : blockLt x y = true ↔ x.1 < y.1 ∨ (x.1 = y.1 ∧ x.2 < y.2) := by
  simp [blockLt]

theorem blockLt_eq_false_iff (x y : Nat × Nat) : blockLt x y = false ↔ y.1 < x.1 ∨ (y.1 = x.1 ∧ y.2 ≤ x.2) := by
  rw [← Bool.not_eq_true, blockLt_iff]
  omega

theorem blockLt_asymm ⦃x y : Nat × Nat⦄ (h : blockLt x y = true) : blockLt y x = false := by
  rw [blockLt_iff] at h
  rw [blockLt_eq_false_iff]
  omega

theorem blockLt_false_trans ⦃x y z : Nat × Nat⦄ (hxy : blockLt x y = false) (hyz : blockLt y z = false) :
    blockLt x z = false := by
  rw [blockLt_eq_false_iff] at *
  omega

/-! ### Bytes of a list of free blocks -/

/-- The bytes of a list of blocks. -/
def blockListBytes (bs : List (Nat × Nat)) : Nat := (bs.map (fun b => blockBytes b.1)).sum

theorem freeBytes_eq (a : Arena) : a.freeBytes = blockListBytes a.free := List.sum_eq_foldl.symm

@[simp] theorem blockListBytes_nil : blockListBytes [] = 0 := rfl

@[simp] theorem blockListBytes_cons (m off : Nat) (bs : List (Nat × Nat)) :
    blockListBytes ((m, off) :: bs) = blockBytes m + blockListBytes bs := rfl

theorem blockListBytes_append (bs cs : List (Nat × Nat)) : blockListBytes (bs ++ cs) = blockListBytes bs + blockListBytes cs := by
  simp [blockListBytes]

theorem blockListBytes_remove {bs : List (Nat × Nat)} (hnd : bs.Nodup) {m off : Nat} (hb : (m, off) ∈ bs) :
    blockBytes m + blockListBytes (bs.filter (fun b => b != (m, off))) = blockListBytes bs := by
  rw [← hnd.erase_eq_filter (m, off)]
  exact (((List.perm_cons_erase hb).map (fun b => blockBytes b.1)).sum_eq).symm

theorem blockBytes_succ (m : Nat) : blockBytes (m + 1) = blockBytes m + blockBytes m := by
  rw [blockBytes, blockBytes, pow_succ]
  omega

/-- Of a block that is halved n times, the halves left over and the last one make up the whole. -/
theorem blockListBytes_halves (m n off : Nat) :
    blockListBytes ((List.range n).map (fun i => (m + i, off + blockBytes (m + i)))) + blockBytes m = blockBytes (m + n) := by
  induction n with
  | zero => simp
  | succ n ih =>
    rw [List.range_succ, List.map_append, blockListBytes_append, ← Nat.add_assoc m, blockBytes_succ, ← ih, List.map_singleton,
      blockListBytes_cons, blockListBytes_nil]
    omega

/-! ### Taking a block -/

theorem take?_eq_none_iff {a : Arena} {m : Nat} : a.take? m = none ↔ ∀ b ∈ a.free, b.1 < m := by
  have hlarge : a.take? m = none ↔ bestBy blockLt (a.free.filter (fun b => decide (m ≤ b.1))) = none := by
    unfold Arena.take?
    split <;> simp [*]
  rw [hlarge, bestBy_eq_none, List.filter_eq_nil_iff]
  simp

/-- R132: a request that is met takes the smallest block large enough, the lowest among equals, and leaves its halves. -/
theorem take?_eq_some {a a' : Arena} {m off : Nat} (h : a.take? m = some (off, a')) :
    ∃ k, m ≤ k ∧ (k, off) ∈ a.free ∧ (∀ b ∈ a.free, m ≤ b.1 → k < b.1 ∨ (k = b.1 ∧ off ≤ b.2)) ∧
      a'.free = (List.range (k - m)).map (fun i => (m + i, off + blockBytes (m + i))) ++ a.free.filter (fun b => b != (k, off)) := by
  unfold Arena.take? at h
  split at h
  next => cases h
  next k start hbest =>
    obtain ⟨rfl, rfl⟩ := Prod.mk.inj (Option.some.inj h)
    obtain ⟨hmem, hmin⟩ := bestBy_spec blockLt_asymm blockLt_false_trans hbest
    obtain ⟨hfree, hlarge⟩ := List.mem_filter.1 hmem
    refine ⟨k, of_decide_eq_true hlarge, hfree, fun b hb hmb => ?_, rfl⟩
    exact (blockLt_eq_false_iff b (k, start)).1 (hmin b (List.mem_filter.2 ⟨hb, decide_eq_true hmb⟩))

/-! ### Giving a block back -/

theorem blockListBytes_giveBlock {free : List (Nat × Nat)} (hnd : free.Nodup) (m off fuel : Nat) :
    blockListBytes (giveBlock free m off fuel) = blockListBytes free + blockBytes m := by
  induction fuel generalizing free m off with
  | zero => exact Nat.add_comm ..
  | succ fuel ih =>
    unfold giveBlock
    split
    next hmerge =>
      have hbuddy := blockListBytes_remove hnd (List.contains_iff_mem.1 hmerge.2)
      rw [ih (hnd.filter _), blockBytes_succ, ← hbuddy]
      omega
    next => exact Nat.add_comm ..

/-- Settles O56: the block taken is the first that no other precedes, and its halves left over with the block asked for make it up
again; a merge replaces two blocks by one of their bytes together. -/
theorem buddyBlocks : Obligations.BuddyBlocks := by
  unfold Obligations.BuddyBlocks
  refine ⟨fun a a' m off h => ?take, fun a m => take?_eq_none_iff.1, fun a m off hnd hfits => ?give, fun a m off hpast => ?past⟩
  case take =>
    obtain ⟨k, hmk, hfree, hmin, hafter⟩ := take?_eq_some h
    refine ⟨⟨k, hmk, hfree, hmin⟩, fun hnd => ?_⟩
    have htaken := blockListBytes_remove hnd hfree
    have hhalves := blockListBytes_halves m (k - m) off
    rw [Nat.add_sub_cancel' hmk] at hhalves
    rw [freeBytes_eq, freeBytes_eq, hafter, blockListBytes_append]
    omega
  case give =>
    rw [Arena.give, if_pos hfits, freeBytes_eq, freeBytes_eq, blockListBytes_giveBlock hnd]
  case past =>
    rw [Arena.give, if_neg hpast.not_ge]

end Sys2Proof.Machine
end

section
/-! PROOFS. Events about the residency of pages: T1_RECLAIM, SPILL_COMPLETE and FETCH_COMPLETE (R143–R146, R158). -/
namespace Sys2Proof.Machine

section Events
variable {s : State} {v k : Nat} {x : Vi} {p : Page} {b : BlockPair}

/-! ### T1_RECLAIM (R143) -/

theorem exec_t1Reclaim (hx : s.vi? v = some x) (hrole : x.pair.role ≠ 2) {ts : Nat} (hroom : (s.upto ts).needsRoom v x = true) :
    exec (.t1Reclaim ts v) s = .next ((s.upto ts).reclaimT1 v) := by
  simp only [exec, execT1Reclaim, vi?_upto, hx, hrole, hroom, Bool.not_true, Bool.false_eq_true, or_self, if_false]

/-- R143 item 1: the first candidate whose spill can start. -/
def State.firstSpill (s : State) (v : Nat) (x : Vi) : Option Nat :=
  (s.spillCandidates v x).find? (fun k =>
    (((s.startSpill v k).vi? v).bind (fun y => tget y.kv.pages k)).map Page.state == some .spilling)

theorem reclaimT1_spills (hx : s.vi? v = some x) (hspill : s.firstSpill v x = some k) : s.reclaimT1 v = s.startSpill v k := by
  unfold State.firstSpill at hspill
  simp only [State.reclaimT1, hx, hspill]

theorem reclaimT1_drops {e : Nat × Page} {es : List (Nat × Page)} (hx : s.vi? v = some x) (hspill : s.firstSpill v x = none)
    (hdrop : s.dropCandidates v x = e :: es) : s.reclaimT1 v = s.dropIndex v e.2.index e.2.refs := by
  unfold State.firstSpill at hspill
  simp only [State.reclaimT1, hx, hspill, hdrop]

/-! ### SPILL_COMPLETE (R144) -/

theorem exec_spillComplete (hx : s.vi? v = some x) (ts k : Nat) :
    exec (.spillComplete ts v k) s = .next ((x.xfersOf (fun t => t.spills k)).foldl (fun s e =>
      (s.popXfer v e.1 e.2).spillDone v k (e.2.viGen == s.viTag v)) (s.upto ts)).wake := by
  simp only [exec, execSpillComplete, State.spillEnds, vi?_upto, hx]

theorem spillDone_moving (hx : s.vi? v = some x) (hp : tget x.kv.pages k = some p) (hst : p.state = .spilling) (hrefs : p.refs ≠ [])
    (hmove : s.moving v x (fun t => t.spills k) = true) (current : Bool) : s.spillDone v k current = s := by
  simp only [State.spillDone, hx, hp, hst, hrefs, hmove, ne_eq, not_true_eq_false, or_self, if_false, if_true]

/-- R144, R158: with its last transfer a page that is spilling gives its T1 blocks up. -/
theorem spillDone_last (hx : s.vi? v = some x) (hp : tget x.kv.pages k = some p) (hst : p.state = .spilling) (hrefs : p.refs ≠ [])
    (hb : p.t1 = some b) (hlast : s.moving v x (fun t => t.spills k) = false) :
    s.spillDone v k true = (s.freeT1 v p.mElem p.mScale b).modVi v (fun x =>
      x.modPage k (fun p => { p with state := .spilled, t1 := none })) := by
  simp only [State.spillDone, hx, hp, hst, hrefs, hb, hlast, ne_eq, not_true_eq_false, or_self, Bool.not_true, Bool.false_eq_true,
    if_false]

/-! ### FETCH_COMPLETE (R145) -/

theorem exec_fetchComplete (hx : s.vi? v = some x) (hp : tget x.kv.pages k = some p) (ts : Nat) (data : List Byte) :
    exec (.fetchComplete ts v k data) s = .next ((x.xfersOf (fun t => t.fetches k)).foldl (fun s e =>
      let scale := e.2.purpose == .fetch k true
      let o := s.popXfer v e.1 e.2
      if e.2.viGen = s.viTag v then (o.fetchBlock v k scale (if scale then data.drop (blockBytes p.mElem) else data)).fetchDone v k true
      else o.fetchDone v k false) (s.upto ts)).wake := by
  simp only [exec, execFetchComplete, State.fetchEnds, vi?_upto, hx, hp, Option.map_some, Option.getD_some]
  congr 3
  funext s e
  by_cases htag : e.2.viGen = s.viTag v
  · simp only [htag, beq_self_eq_true, if_true]
  · simp only [beq_eq_false_iff_ne.2 htag, htag, Bool.false_eq_true, if_false]

theorem fetchBlock_fetching (hx : s.vi? v = some x) (hp : tget x.kv.pages k = some p) (hst : p.state = .fetching)
    (hb : p.t1 = some b) (scale : Bool) (data : List Byte) :
    s.fetchBlock v k scale data = { s with
      hbm := memWrite s.hbm (t1Base v + if scale then b.scale else b.elem)
        (bytesAt data 0 (blockBytes (if scale then p.mScale else p.mElem))) } := by
  simp only [State.fetchBlock, hx, Option.bind_some, hp, hst, hb]

theorem fetchDone_last (hx : s.vi? v = some x) (hp : tget x.kv.pages k = some p) (hst : p.state = .fetching) (hrefs : p.refs ≠ [])
    (hlast : s.moving v x (fun t => t.fetches k) = false) :
    s.fetchDone v k true = s.modVi v (fun x =>
      (x.freeT2 p).modPage k (fun p => { p with state := .resident, t2 := none })) := by
  simp only [State.fetchDone, hx, hp, hst, hrefs, hlast, ne_eq, not_true_eq_false, or_self, Bool.false_eq_true, if_false, if_true]

end Events

/-- Settles O13: T1_RECLAIM by what its search for a spill finds; the two completions fold over the transfers of the page, of which
the last one changes its state. -/
theorem residencyEvents : Obligations.ResidencyEvents := by
  unfold Obligations.ResidencyEvents
  refine ⟨?spills, ?drops, fun s ts v k x hx => exec_spillComplete hx ts k, ?spillDone,
    fun s ts v k data x p hx hp => exec_fetchComplete hx hp ts data, ?fetchDone⟩
  case spills =>
    intro s ts v k x hx hrole hroom hspill
    rw [exec_t1Reclaim hx hrole hroom, reclaimT1_spills (s := s.upto ts) hx hspill]
  case drops =>
    intro s ts v x p ps hx hrole hroom hspill hdrop
    rw [exec_t1Reclaim hx hrole hroom, reclaimT1_drops (s := s.upto ts) hx hspill hdrop]
  case spillDone =>
    intro s v k x p b hx hp hst hrefs hb
    exact ⟨spillDone_moving hx hp hst hrefs, spillDone_last hx hp hst hrefs hb⟩
  case fetchDone =>
    intro s v k x p b hx hp hst hrefs hb
    exact ⟨fetchBlock_fetching hx hp hst hb, fetchDone_last hx hp hst hrefs⟩

end Sys2Proof.Machine
end

section
/-! PROOFS. How the RDMA transfers of the device end: RDMA_RESPONSE, RC_ACK_TIMEOUT and TRANSFER_TIMEOUT (R145, R244, R245,
R346, R347, R469). -/
namespace Sys2Proof.Machine

section Events
variable {s : State} {v rc : Nat} {x : Vi} {c : Conn} {t : Xfer}

/-! ### RDMA_RESPONSE (R145, R245, R469) -/

/-- R245: what a response does to the oldest request of its connection. -/
def State.answered (s : State) (v rc : Nat) (x : Vi) (t : Xfer) : RdmaReply → State
  | .ok data => if t.purpose = .pairCheck then s else s.xferOk v rc x t data
  | .peer f =>
    if t.purpose = .pairCheck then
      if t.viGen = s.viTag v then (s.popXfer v rc t).pairChecked v (some f) else s.popXfer v rc t
    else s
  | .nak =>
    match t.purpose with
    | .fetch _ _ => if x.closing.isSome then s.popXfer v rc t else s.fetchAgain v rc t
    | _ => (s.popXfer v rc t).xferFails v t
  | .rnr => s.rnrRetry v rc t

theorem exec_rdmaResponse (hx : s.vi? v = some x) (hc : tget x.conns rc = some c) (herr : c.error = false) (ht : c.first = some t)
    (ts : Nat) (r : RdmaReply) : exec (.rdmaResponse ts v rc r) s = .next ((s.upto ts).answered v rc x t r).wake := by
  simp only [exec, execRdmaResponse, vi?_upto, hx, hc, Option.bind_some, herr, Bool.false_eq_true, if_false, ht]
  cases r with
  | peer f => simp only [State.answered, beq_iff_eq]
  | ok data => rfl
  | nak => rfl
  | rnr => rfl

theorem answered_nak_of_not_fetch (hk : ∀ k b, t.purpose ≠ .fetch k b) :
    s.answered v rc x t .nak = (s.popXfer v rc t).xferFails v t := by
  -- The equation of the arm for every other purpose asks for `hk`.
  simp only [State.answered]

theorem answered_nak_of_fetch {k : Nat} {b : Bool} (hk : t.purpose = .fetch k b) :
    s.answered v rc x t .nak = if x.closing.isSome then s.popXfer v rc t else s.fetchAgain v rc t := by
  simp only [State.answered, hk]

/-! ### RC_ACK_TIMEOUT (R244, R245) -/

theorem failing_failSince (c : Conn) (now : Nat) : c.failing now = { c with failSince := some (c.failSince.getD now) } := by
  unfold Conn.failing
  cases c.failSince <;> rfl

theorem exec_rcAckTimeout (hx : s.vi? v = some x) (hc : tget x.conns rc = some c) (herr : c.error = false) (hout : c.out ≠ [])
    (ts : Nat) : exec (.rcAckTimeout ts v rc) s = .next (
      if c.tries < c.retry then
        ((s.upto ts).modVi v (fun x => x.modConn rc (fun c =>
          { c with tries := c.tries + 1, failSince := some (c.failSince.getD (max s.now ts)) }))).resend v rc
      else ((s.upto ts).connError v rc).wake) := by
  simp only [exec, execRcAckTimeout, vi?_upto, hx, Option.bind_some, hc, herr, hout, Bool.false_eq_true, or_self, if_false,
    failing_failSince, State.upto_now]

/-! ### TRANSFER_TIMEOUT (R145, R346, R347) -/

theorem timeoutFrom_upto (s : State) (ts v : Nat) (x : Vi) (c : Conn) : (s.upto ts).timeoutFrom v x c = s.timeoutFrom v x c := rfl
theorem inReset_upto (s : State) (ts v : Nat) : (s.upto ts).inReset v = s.inReset v := rfl

section Timeout
variable {start ts : Nat} (hx : s.vi? v = some x) (hc : tget x.conns rc = some c) (ht : c.out.head? = some t)
  (hstart : s.timeoutFrom v x c = some start) (hdue : start + c.transferNs ≤ max s.now ts)
include hx hc ht hstart hdue

/-- R347: in a teardown the transfer is counted and gone. -/
theorem exec_transferTimeout_closing (hclose : x.closing.isSome = true) :
    exec (.transferTimeout ts v rc) s = .next (((s.upto ts).dropXfer v rc t).modVi v (fun x =>
      { x with closing := x.closing.map (fun k => { k with xfers := k.xfers + 1 }) })) := by
  simp only [exec, execTransferTimeout, vi?_upto, hx, Option.bind_some, hc, Option.map_some, ht, timeoutFrom_upto, hstart,
    State.upto_now, if_neg hdue.not_gt, hclose, if_true]

theorem exec_transferTimeout_open (hopen : x.closing = none) (hreset : s.inReset v = false) :
    exec (.transferTimeout ts v rc) s = .next ((((s.upto ts).dropXfer v rc t).xferFails v t).wake) := by
  simp only [exec, execTransferTimeout, vi?_upto, hx, Option.bind_some, hc, Option.map_some, ht, timeoutFrom_upto, hstart,
    State.upto_now, if_neg hdue.not_gt, hopen, Option.isSome_none, inReset_upto, hreset, Bool.false_eq_true, if_false]

end Timeout
end Events

/-- Settles O14: a response by its kind, an acknowledgement timeout by the retries left, a transfer timeout by whether the VI is in
a teardown. -/
theorem rdmaEvents : Obligations.RdmaEvents := by
  unfold Obligations.RdmaEvents
  refine ⟨?response, ?ackTimeout, ?transferTimeout⟩
  case response =>
    intro s ts v rc x c t hx hc herr ht
    have hexec := exec_rdmaResponse hx hc herr ht ts
    refine ⟨fun data hk => ?ok, fun f hk htag => ?peer, hexec .rnr, fun hk => ?nak, fun k b hk => ?nakFetch⟩
    case ok => rw [hexec, State.answered, if_neg hk]
    case peer => rw [hexec, State.answered, if_pos hk, if_pos (show t.viGen = (s.upto ts).viTag v from htag)]
    case nak => rw [hexec, answered_nak_of_not_fetch hk]
    case nakFetch => rw [hexec, answered_nak_of_fetch hk]
  case ackTimeout =>
    intro s ts v rc x c hx hc herr hout
    rw [exec_rcAckTimeout hx hc herr hout]
    exact ⟨fun hleft => by rw [if_pos hleft], fun hspent => by rw [if_neg hspent.not_gt]⟩
  case transferTimeout =>
    intro s ts v rc start x c t hx hc ht hstart hdue
    exact ⟨exec_transferTimeout_closing hx hc ht hstart hdue, exec_transferTimeout_open hx hc ht hstart hdue⟩

end Sys2Proof.Machine
end

section
/-! PROOFS. Requests about adapter sets: ADP_SET_CREATE, ADP_SET_XFER, ADP_SET_CLOSE and ADP_UPDATE (R161–R165, R181, R182, R240,
R285, R286). -/
namespace Sys2Proof.Machine

/-- R164: a next version that neither a saved area nor a step stands in the way of has room. -/
theorem VersionRoom.eq_free {r : VersionRoom} (hsaved : r ≠ .savedUses) (hsteps : r ≠ .stepsUse) : r = .free := by
  cases r with
  | free => rfl
  | stepsUse => exact absurd rfl hsteps
  | savedUses => exact absurd rfl hsaved

section Effects
variable {s : State} {c : Cmd} {n : Nat} {x : Vi} {a : AdpSet} (hn : leAt c.pay 0 2 = n) (hx : s.vi? c.vi = some x)
  (hturn : setBlocked c.vi x n (c.place s) = false)
include hn hx hturn

/-! ### ADP_SET_CREATE and ADP_SET_CLOSE (R161, R165, R240) -/

/-- R161, R240: in its turn a creation makes its set where the number is free and the DIGITAL area has room. -/
theorem effAdpSetCreate_makes {made : AdpSet × Nat}
    (hmade : newSet (x.img.image.getD ⟨0, [], 0, 0, [], [], [], [], [], [], [], [], [], [], 0⟩) s.draws c.pay = made)
    (hnumber : n ≤ 63) (hroom : x.digitalUsed + made.1.bytes ≤ x.part.digital * 1048576) (hfresh : thas x.sets n = false) :
    effAdpSetCreate s c =
      ((({ s with draws := made.2 } : State).modVi c.vi (fun x =>
          { x with sets := tset x.sets n { made.1 with lastVersion := s.now } })).emitSet c.vi n made.1,
        some (stOk, setCreateReply c.pay 1 made.1.bytes)) := by
  simp only [effAdpSetCreate, hn, hx, if_neg hnumber.not_gt, hturn, hmade, if_neg hroom.not_gt, hfresh, Bool.false_eq_true, if_false]

/-- R161, R165: in its turn a closure removes its set where no open sequence names it. -/
theorem effAdpSetClose_removes (hset : thas x.sets n = true) (hunused : x.seqs.any (fun q => q.2.set == some n) = false) :
    effAdpSetClose s c =
      ((s.modVi c.vi (fun x => { x with sets := tdel x.sets n })).emit c.vi none false (.adpClosed n),
        some (stOk, bytesAt c.pay 0 2 ++ zeros 2)) := by
  simp only [effAdpSetClose, hn, hx, hturn, hset, hunused, Bool.not_true, Bool.false_eq_true, if_false]

/-! ### ADP_SET_XFER (R162, R163, R286) -/

/-- R286: in its turn a transfer of a set that is sound where it is written out (0), and has room for its next version where it is
read in (1), starts. -/
theorem effAdpSetXfer_starts {dir : Nat} {r : Region} (hdir : leAt c.pay 2 1 = dir) (hset : tget x.sets n = some a)
    (hregion : tget x.regions (leAt c.pay 4 4) = some r) (hknown : dir ≤ 1) (huse : r.use = 4) (hout : dir = 0 → a.damaged = false)
    (hin : dir = 1 → s.versionRoom c.vi x n a = .free ∧ a.stale = false) (hroom : leAt c.pay 8 8 + a.bytes ≤ r.length)
    (hconn : s.connOk c.vi r.rc = true) :
    effAdpSetXfer s c =
      ((s.modEntry c.vi c.entry (fun e => { e with state := .running })).rdma c.vi r.rc (.command c.entry) (decide (dir = 0))
        (r.addr + leAt c.pay 8 8) a.bytes c.queue (if dir = 0 then a.tensors.flatMap Tensor.record else []), none) := by
  have hobject : ¬ (1 < dir ∨ r.use ≠ 4 ∨ (dir = 0 ∧ a.damaged = true)) := by
    rintro (hunknown | hother | ⟨hzero, hdamaged⟩)
    · exact hknown.not_gt hunknown
    · exact hother huse
    · simp [hout hzero] at hdamaged
  have hsaved : ¬ (dir = 1 ∧ s.versionRoom c.vi x n a = .savedUses) := fun ⟨hone, huses⟩ => by simp [(hin hone).1] at huses
  have hstale : ¬ (dir = 1 ∧ a.stale = true) := fun ⟨hone, hold⟩ => by simp [(hin hone).2] at hold
  have hsteps : ¬ (dir = 1 ∧ s.versionRoom c.vi x n a = .stepsUse) := fun ⟨hone, huses⟩ => by simp [(hin hone).1] at huses
  simp only [effAdpSetXfer, hn, hdir, hx, hturn, hset, hregion, if_neg hobject, if_neg hsaved, if_neg hstale, if_neg hroom.not_gt,
    if_neg hsteps, hconn, Bool.not_true, Bool.false_eq_true, if_false]

/-! ### ADP_UPDATE (R181, R182) -/

/-- R163, R182: in its turn an update of a sound set with room for its next version publishes that version. -/
theorem effAdpUpdate_publishes (hset : tget x.sets n = some a) (hsound : a.damaged = false) (hcurrent : a.stale = false)
    (hroom : s.versionRoom c.vi x n a = .free) :
    let r := a.update (adamAt c.pay) s.now
    effAdpUpdate s c =
      ((s.modVi c.vi (fun x => x.modSet n (fun _ => r.1))).emitSet c.vi n r.1,
        some (stOk, updateReply c.pay (adamAt c.pay) (a.version + 1) (a.t + 1) r.2 s.now)) := by
  simp only [effAdpUpdate, hn, hx, hturn, hset, hsound, hcurrent, hroom, reduceCtorEq, Bool.false_eq_true, if_false]
  rfl

end Effects

/-- Settles O19: each request goes on past its guards, which its hypotheses meet, to its own effect; only a transfer answers
later. -/
theorem adapterCommands : Obligations.AdapterCommands := by
  unfold Obligations.AdapterCommands
  refine ⟨?create, ?transfer, ?close, ?update⟩
  case create =>
    intro s p v x h hchk o n made hx hnumber hturn hroom hfresh
    have heff := effAdpSetCreate_makes (c := s.command p v) rfl hx hturn rfl hnumber hroom hfresh
    exact congrArg Host.Outcome.next ((takeAs_admits effAdpSetCreate h hchk).trans (runEffect_now heff))
  case transfer =>
    intro s p v x a r h o n dir hx hturn hset hregion hknown huse hout hin hroom hconn
    have hfree : dir = 1 → o.versionRoom v x n a = .free ∧ a.stale = false := fun hone => by
      obtain ⟨hsaved, hsteps, hcurrent⟩ := hin hone
      exact ⟨VersionRoom.eq_free hsaved hsteps, hcurrent⟩
    exact congrArg Host.Outcome.next (takeAs_later h rfl
      (effAdpSetXfer_starts (c := s.command p v) rfl hx hturn rfl hset hregion hknown huse hout hfree hroom hconn))
  case close =>
    intro s p v x h o n hx hturn hset hunused
    exact congrArg Host.Outcome.next (takeAs_completes h
      (effAdpSetClose_removes (c := s.command p v) rfl hx hturn hset hunused))
  case update =>
    intro s p v x a h o n w r hx hturn hset hsound hcurrent hsaved hsteps
    exact congrArg Host.Outcome.next (takeAs_completes h (effAdpUpdate_publishes (c := s.command p v) rfl hx hturn hset hsound hcurrent
      (VersionRoom.eq_free hsaved hsteps)))

end Sys2Proof.Machine
end

section
/-! PROOFS. The codes of PROFILE (R193). -/
namespace Sys2Proof.Machine

/-- Settles O52: the rows that `profileOf` has are the codes of the table; what is left is its last row. -/
theorem profileCodes : Obligations.ProfileCodes := by
  unfold Obligations.ProfileCodes
  refine ⟨?table, ?other⟩
  case table => decide
  case other =>
    intro fmt code hother
    unfold profileOf
    split
    case h_12 => rfl
    all_goals exact absurd (by decide) hother

end Sys2Proof.Machine
end

section
/-! PROOFS. Requests about weight images and the end of a check pass: IMG_LOAD, IMG_SWAP, IMG_ERASE, IMG_REFRESH and
IMG_CHECK_PASS_END (R195, R196, R199, R206, R207, R212, R213, R279, R468, R469). -/
namespace Sys2Proof.Machine

theorem modImg_modImg (s : State) (v : Nat) (f g : ImgState → ImgState) :
    (s.modImg v f).modImg v g = s.modImg v (fun m => g (f m)) := modVi_modVi ..

section Requests
variable {s : State} {c : Cmd} {x : Vi}

/-! ### IMG_LOAD and IMG_SWAP (R195, R196, R206, R207, R279) -/

/-- R279: the source that an IMG_LOAD or IMG_SWAP names. -/
def imgSource (pay : List Byte) : Source := ⟨leAt pay 0 4, leAt pay 8 8, leAt pay 16 8⟩

/-- R196: the state in which a load or swap has begun its check pass. -/
def State.beginCheck (s : State) (kind : ImgKind) (c : Cmd) : State :=
  s.modImg c.vi (fun m => m.begin (ImgOp.start kind c.entry (progLimit c.pay) .check (imgSource c.pay)))

/-- R196: a check pass begins with a read of the whole image from the region that its source names. -/
theorem effImg_reads {kind : ImgKind} (hx : (s.beginCheck kind c).vi? c.vi = some x) :
    effImg kind s c = ((s.beginCheck kind c).rdma c.vi (x.regionConn (imgSource c.pay).region) .image false
      (((tget x.regions (imgSource c.pay).region).map Region.addr).getD 0 + (imgSource c.pay).ofs) (imgSource c.pay).len 0 [], none) := by
  unfold State.beginCheck imgSource at hx
  simp only [effImg, State.beginCheck, imgSource, hx]

/-! ### IMG_ERASE and IMG_REFRESH (R212, R213) -/

/-- R212: an erase of a VI with an image and no operation waits for its barrier. -/
theorem effImgErase_raises (hx : s.vi? c.vi = some x) (hidle : x.img.op = none) (himage : x.img.gen ≠ 0) :
    effImgErase s c = (s.modImg c.vi (fun m => m.begin (ImgOp.start .erase c.entry 16 .raise m.source)), none) := by
  simp only [effImgErase, hx, hidle, himage, Option.map_none, Option.getD_none, Bool.false_eq_true, if_false]

/-- R213: the level margin below which an IMG_REFRESH refreshes. -/
def refreshMargin (pay : List Byte) : F32 := fClampOr (BitVec.ofNat 32 (leAt pay 4 4)) 0x3EC28F5C#32 fOne 0x3EC28F5C#32

/-- R213: the arrays that an IMG_REFRESH concerns: all that the image maps, or those below the margin. -/
def State.refreshDue (s : State) (c : Cmd) (x : Vi) : List (Nat × Nat) :=
  (mappedArrays c.vi x).filter (fun e => !bitOf (leAt c.pay 0 1) 0 || fLt ((s.yelm e.1).arr e.2).margin (refreshMargin c.pay))

/-- R213: some arrays are marked as due. -/
def State.dueForRefresh (s : State) (due : List (Nat × Nat)) : State :=
  due.foldl (fun s e => s.modArr e.1 e.2 (fun a => { a with due := true })) s

/-- R213: a refresh of a VI with an image answers at once where no array is concerned, else it waits for those that are.
Log entry 31 (DEDUCED). -/
theorem effImgRefresh_marks (hx : s.vi? c.vi = some x) (himage : x.img.gen ≠ 0) :
    effImgRefresh s c =
      let due := s.refreshDue c x
      if due = [] then (s.dueForRefresh due, some (stOk, zeros 4 ++ le 4 (refreshMargin c.pay).toNat))
      else ((s.dueForRefresh due).modImg c.vi (fun i =>
        { i with refresh := i.refresh ++ [⟨c.entry, refreshMargin c.pay, due, due.length⟩] }), none) := by
  simp only [effImgRefresh, hx, if_neg himage]
  rfl

end Requests

/-! ### IMG_CHECK_PASS_END (R196, R199, R207, R468, R469) -/

section CheckPass
variable {s : State} {v : Nat} {x : Vi} {op : ImgOp}

/-- R469: the source of a check pass cannot be read. -/
theorem imageRead_unreadable (hx : s.vi? v = some x) (hop : x.img.op = some op) (hcheck : op.phase = .check) :
    s.imageRead v none = s.rejectImg v x op stNoObject := by
  simp only [State.imageRead, hx, hop, hcheck, ne_eq, not_true_eq_false, if_false]

/-- R196: a check pass decides once it has read the whole image. -/
theorem imageRead_read (hx : s.vi? v = some x) (hop : x.img.op = some op) (hcheck : op.phase = .check) (bs : List Byte) :
    s.imageRead v (some bs) = s.checkPass v x op bs := by
  simp only [State.imageRead, hx, hop, hcheck, ne_eq, not_true_eq_false, if_false]

end CheckPass

/-- R207: a swap whose check pass has passed maps its image and raises its barrier at the next boundary; `same` are the units that
stay. -/
def State.swapPasses (s : State) (v : Nat) (im : Image) (map : Tbl Nat) (same : List Nat) : State :=
  (s.modImg v (fun i => { i with map := map })).modOp v (fun w =>
    { w with phase := .raise, image := some im, done := same, skipped := same.length })

/-- R197, R199: a load whose check pass has passed maps its image and programs every unit but those of `same`, which stay. -/
def State.loadPasses (s : State) (v : Nat) (im : Image) (map : Tbl Nat) (same : List Nat) : State :=
  ((s.modImg v (fun i => { i with map := map, units := i.units.filter (fun u => same.contains u.1) })).modOp v (fun w => { w with
    phase := .program, image := some im, done := same
    started := (List.range im.units.length).filter (fun u => !same.contains u)
    todo := (im.arrays.filter (fun a => !same.contains a.unit)).map (fun a => (a.yelm, a.array))
    skipped := (im.arrays.filter (fun a => same.contains a.unit)).length })).imgPump v

/-- R468: the findings of a check pass in their order, and what it does where there is none. That what the current image forbids
(R206) comes last, and which mappings a load keeps, is the model's reading (log entries 28 and 123). -/
theorem checkPass_eq (s : State) (v : Nat) (x : Vi) (op : ImgOp) (bs : List Byte) :
    let im := parseImage bs
    let m := mapImage s v x.part im (if op.kind = .swap then x.img.map else keptMap x im)
    let same := (List.range im.units.length).filter (unitMatches v x im (m.getD []))
    s.checkPass v x op bs =
      if imgBad bs op.source.len = true then s.rejectImg v x op stBadLength
      else if imgWrong s.sec bs im = true then s.rejectImg v x op stNoObject
      else if imgOver s v x im m x.digitalUsed = true then s.rejectImg v x op stNoResource
      else if op.kind = .swap then
        if (x.img.image.map (fun old => swapForbids old im)).getD false = true then s.rejectImg v x op stNotPermitted
        else s.swapPasses v im (m.getD []) same
      else s.loadPasses v im (m.getD []) same := by
  by_cases hswap : op.kind = .swap
  · simp only [State.checkPass, State.swapPasses, hswap, beq_self_eq_true, Bool.true_and, if_true]
  · simp only [State.checkPass, State.loadPasses, hswap, beq_eq_false_iff_ne.2 hswap, Bool.false_and, Bool.false_eq_true, if_false,
      modImg_modImg]

/-- Settles O22: a load, a swap and an erase go on past their guards to their own effect, a refresh by whether it concerns an array,
and the end of a check pass by its findings. -/
theorem imageCommands : Obligations.ImageCommands := by
  unfold Obligations.ImageCommands
  refine ⟨?load, ?swap, ?erase, ?refresh, ?checkPassEnd⟩
  case load =>
    intro s p v x h hchk src o hx
    exact congrArg Host.Outcome.next (takeAs_later h hchk (effImg_reads (c := s.command p v) hx))
  case swap =>
    intro s p v x h hchk src o hx
    exact congrArg Host.Outcome.next (takeAs_later h hchk (effImg_reads (c := s.command p v) hx))
  case erase =>
    intro s p v x h o hx hidle himage
    exact congrArg Host.Outcome.next (takeAs_later h rfl (effImgErase_raises (c := s.command p v) hx hidle himage))
  case refresh =>
    intro s p v x h o m due o' hx himage
    obtain ⟨hnow, hlater⟩ := takeAs_now_or_later h (effImgRefresh_marks (c := s.command p v) hx himage)
    exact ⟨fun hdue => congrArg Host.Outcome.next (hlater hdue), fun hnone => congrArg Host.Outcome.next (hnow hnone)⟩
  case checkPassEnd =>
    intro s ts v x op o hx hop hcheck
    exact ⟨congrArg Host.Outcome.next (imageRead_unreadable hx hop hcheck), fun bs =>
      congrArg Host.Outcome.next ((imageRead_read hx hop hcheck bs).trans (checkPass_eq ..))⟩

end Sys2Proof.Machine
end

section
/-! PROOFS. Events of arrays: programming, erasing, the switch to a spare, retirement, suspect marks, the start of a swap unit and
refresh slices (R201–R205, R209, R212, R214, R215, R328). -/
namespace Sys2Proof.Machine

/-- R201, R203: the jobs that program an array for a VI. -/
abbrev Job.Fills (v : Nat) (j : Job) : Prop := j = .program v ∨ ∃ old, j = .spareFill v old

/-- R87: an event of an array ends with the tile commands that wait at its yelm. -/
theorem next_pumpTiles {s t : State} (h : s = t) (y : Nat) :
    (.next (s.pumpTiles y) : Host.Outcome State Fault Refusal) = .next (t.pumpTiles y) := by rw [h]

section Arrays
variable {s : State} {y a v : Nat} {g : Prog}

/-! ### ROW_PROGRAM (R201, R202) -/

/-- R201: what pulses within 24 attempts make of the row that follows in an array that is zero and whose record has been read. -/
theorem exec_rowProgram {n attempts : Nat} {ok : Bool} {x : Vi} (hg : ((s.yelm y).arr a).prog = some g)
    (howner : s.owner y = some (v, x, n)) (hjob : g.job.Fills v) (herased : g.erased = true) (hloaded : g.loaded = true)
    (hrow : g.row < 1024) (hpulses : s.pulsesOff = false) (hserves : (s.yelm y).resetting = false) (hsome : 0 < attempts)
    (hmost : attempts ≤ 24) (hends : ok = true ∨ attempts = 24) (ts : Nat) :
    exec (.rowProgram ts y a attempts ok) s = .next (
      if ok = true then (s.upto ts).modArr y a (fun r =>
        { r with cells := tset r.cells g.row (g.target g.row), prog := some { g with row := g.row + 1 } })
      else (s.upto ts).rowFails v n y a g attempts) := by
  have hpulses' : (s.upto ts).pulsesOff = false := hpulses
  have howner' : (s.upto ts).owner y = some (v, x, n) := howner
  have hended : ¬ ((!ok) = true ∧ attempts ≠ 24) := fun ⟨hnot, hbefore⟩ => by simp [hends.resolve_right hbefore] at hnot
  simp only [exec, execRowProgram, yelm_upto, hg, howner', herased, hloaded, hrow.not_ge, hpulses', hserves, hsome.ne', hmost.not_gt,
    hended, Bool.not_true, Bool.or_self, Bool.false_eq_true, or_self, if_false]
  obtain hprogram | ⟨old, hspare⟩ := hjob
  · simp only [hprogram]
  · simp only [hspare]

/-! ### ARRAY_PROGRAMMED (R202, R65) -/

/-- R202, R65: an array that has been programmed is idle, serves its place in the image, and has its monitor state seeded. -/
def State.fillArr (s : State) (y a v : Nat) (g : Prog) : State :=
  s.modArr y a (fun r => { seedArr (s.yelmTemp y) r with
    st := .idle, prog := none, idx := ((s.vi? v).bind Vi.fillFrom).bind (fun f => f.1.idxOf g.logical)
    alpha := fOne, v := 0, pg := 0, h := 0, due := false, slice := 0 })

theorem arrayProgrammed_program (hg : ((s.yelm y).arr a).prog = some g) (hrows : 1024 ≤ g.row) (hjob : g.job = .program v) :
    s.arrayProgrammed y a =
      (((s.fillArr y a v g).notRefreshed v y a).modOp v (fun w => { w with programmed := w.programmed + 1 })).imgPump v := by
  simp only [State.arrayProgrammed, State.fillArr, hg, if_neg hrows.not_gt, hjob]

/-- R203: a spare that has been filled makes the array it stands in for ready to be switched. -/
theorem arrayProgrammed_spareFill {old : Nat} (hg : ((s.yelm y).arr a).prog = some g) (hrows : 1024 ≤ g.row)
    (hjob : g.job = .spareFill v old) :
    s.arrayProgrammed y a =
      ((s.fillArr y a v g).modArr y old (fun r => { r with retire := r.retire.map (fun t => { t with ready := true }) })).imgPump v := by
  simp only [State.arrayProgrammed, State.fillArr, hg, if_neg hrows.not_gt, hjob]

/-! ### ARRAY_ERASE_DONE (R202, R212) -/

/-- R212: an array that an operation has erased is spare, and counts. -/
theorem arrayEraseDone_erase (hg : ((s.yelm y).arr a).prog = some g) (hdue : g.erased = false) (hjob : g.job = .erase v) :
    s.arrayEraseDone y a = (((s.modArr y a (fun r => { seedArr (s.yelmTemp y) r with
      st := .spare, cells := [], prog := none, idx := none, retire := none })).notRefreshed v y a).modOp v (fun w =>
        { w with erased := w.erased + 1 })).imgPump v := by
  simp only [State.arrayEraseDone, hg, hdue, hjob, Bool.false_eq_true, if_false]

/-- R202: an array erased to be filled is ready to be programmed. -/
theorem arrayEraseDone_fill (hg : ((s.yelm y).arr a).prog = some g) (hdue : g.erased = false) (hjob : g.job.Fills v) :
    s.arrayEraseDone y a = s.modArr y a (fun r =>
      { seedArr (s.yelmTemp y) r with cells := [], prog := some { g with erased := true } }) := by
  simp only [State.arrayEraseDone, hg, hdue, Bool.false_eq_true, if_false]
  obtain hprogram | ⟨old, hspare⟩ := hjob
  · simp only [hprogram]
  · simp only [hspare]

/-! ### REFRESH_SLICE_END (R214, R215) -/

/-- R214, R215: the state in which slice n of a refresh has ended, and each of its rows that is bad has marked the array. -/
def State.endSlice (s : State) (y a n : Nat) (bad : List Nat) : State :=
  (((List.range 8).map (fun i => (n - 1) * 8 + i)).filter bad.contains).foldl (fun s row => s.suspect y a 0 row)
    (s.modArr y a (fun r => { r with st := .idle, prog := none, slice := n }))

/-- R214: the last slice of 128 completes the refresh of its array. -/
theorem refreshSliceEnd_eq (hg : ((s.yelm y).arr a).prog = some g) (hjob : g.job = .refresh v) (bad : List Nat) :
    let n := ((s.yelm y).arr a).slice + 1
    let o := s.endSlice y a n bad
    s.refreshSliceEnd y a bad =
      if n < 128 then o.imgPump v
      else ((o.modArr y a (fun r => { seedArr (o.yelmTemp y) r with
        alpha := fOne, v := 0, pg := 0, h := 0, due := false, slice := 0, marks := [] })).refreshed v y a).imgPump v := by
  simp only [State.refreshSliceEnd, State.endSlice, hg, hjob]

/-! ### SPARE_SWITCH (R203) and RETIRE_RETRY (R204, R205) -/

/-- R203: whether a yelm is within a layer operation. -/
def State.midway (s : State) (y : Nat) : Bool :=
  s.waves.any (fun w => w.2.ops.any (fun o => o.1 % 4096 == y && !(o.2.bands.isEmpty && o.2.running.isEmpty)))

/-- R203: between two layer operations a spare that is ready takes the place of its array; one that an operation was programming
counts as programmed. -/
theorem exec_spareSwitch {n sp l : Nat} {x : Vi} {t : Retire} (ht : ((s.yelm y).arr a).retire = some t)
    (howner : s.owner y = some (v, x, n)) (hready : t.ready = true) (hspare : t.spare = some sp) (hlogical : x.logicalOf n a = some l)
    (hbetween : s.midway y = false) (ts : Nat) :
    exec (.spareSwitch ts y a) s = .next (((if ((s.yelm y).arr a).prog.map Prog.job = some (.program v) then
      (s.upto ts).modOp v (fun o => { o with programmed := o.programmed + 1 }) else s.upto ts).retireTo v y n a sp l
        t.sourceCopy).imgPump v) := by
  have howner' : (s.upto ts).owner y = some (v, x, n) := howner
  unfold State.midway at hbetween
  simp only [exec, execSpareSwitch, yelm_upto, State.upto_waves, ht, howner', hspare, hlogical, hready, hbetween, Bool.not_true,
    Bool.false_eq_true, or_self, if_false, beq_iff_eq]

theorem exec_retireRetry {t : Retire} (ht : ((s.yelm y).arr a).retire = some t) (hretry : t.retry = some 0) (ts : Nat) :
    exec (.retireRetry ts y a) s =
      .next (if t.failed = true then (s.upto ts).retryFailed y a else (s.upto ts).startRetire y a) := by
  simp only [exec, execRetireRetry, yelm_upto, ht, hretry, ne_eq, not_true_eq_false, if_false]

end Arrays

/-! ### SWAP_UNIT_START (R209) -/

/-- R209: where the arrays of a unit are in an image. -/
def Image.unitPlaces (im : Image) (unit : Nat) : List (Nat × Nat) :=
  (im.arrays.filter (fun a => a.unit == unit)).map (fun a => (a.yelm, a.array))

/-- R209: the state in which a changed unit has started: its arrays are to be programmed, and those of the old image that are not
among them are to be erased. -/
def State.startUnit (s : State) (v unit : Nat) (x : Vi) (old new : Image) : State :=
  let todo := new.unitPlaces unit
  let gone := (old.arrays.filter (fun a => a.unit == unit && !todo.contains (a.yelm, a.array))).map (fun a =>
    ((physYelm v x.part a.yelm).getD 0, x.physArr a.yelm a.array))
  ((s.modImg v (fun m => { m with units := tdel m.units unit })).modOp v (fun o =>
    { o with started := o.started ++ [unit], todo := o.todo ++ todo, toErase := o.toErase ++ gone })).imgPump v

/-- R209: behind its barrier a swap starts a changed unit that the steps have passed. -/
theorem exec_swapUnitStart {s : State} {v unit : Nat} {x : Vi} {w : ImgOp} {old new : Image} (hx : s.vi? v = some x)
    (hop : x.img.op = some w) (hold : x.img.image = some old) (hnew : w.image = some new) (hkind : w.kind = .swap)
    (hphase : w.phase = .barrier) (hunit : unit < new.units.length) (hchanged : w.done.contains unit = false)
    (hwaits : w.started.contains unit = false) (hpassed : s.mayStart v old new w unit = true) (ts : Nat) :
    exec (.swapUnitStart ts v unit) s = .next ((s.upto ts).startUnit v unit x old new) := by
  have hpassed' : (s.upto ts).mayStart v old new w unit = true := hpassed
  simp only [exec, execSwapUnitStart, vi?_upto, hx, hop, hold, hnew, hkind, hphase, hunit.not_ge, hchanged, hwaits, hpassed', ne_eq,
    not_true_eq_false, Bool.not_true, Bool.false_eq_true, or_self, if_false]
  rfl

/-- Settles O23: each event goes on past its guards, which its hypotheses meet, to what the job of its array makes of it. -/
theorem arrayEvents : Obligations.ArrayEvents := by
  unfold Obligations.ArrayEvents
  refine ⟨?rowProgram, ?programmed, ?erased, ?spareSwitch, fun s ts y a t ht hretry => exec_retireRetry ht hretry ts,
    fun s ts y a => rfl, ?unitStart, ?sliceEnd⟩
  case rowProgram =>
    intro s ts y a attempts ok g v n x hg howner hjob herased hloaded hrow hpulses hserves hsome hmost hends
    exact exec_rowProgram hg howner hjob herased hloaded hrow hpulses hserves hsome hmost hends ts
  case programmed =>
    intro s ts y a v g hg hrows o
    exact ⟨fun hjob => next_pumpTiles (arrayProgrammed_program (s := s.upto ts) hg hrows hjob) y,
      fun old hjob => next_pumpTiles (arrayProgrammed_spareFill (s := s.upto ts) hg hrows hjob) y⟩
  case erased =>
    intro s ts y a v g hg hdue
    exact ⟨fun hjob => next_pumpTiles (arrayEraseDone_erase (s := s.upto ts) hg hdue hjob) y,
      fun hjob => next_pumpTiles (arrayEraseDone_fill (s := s.upto ts) hg hdue hjob) y⟩
  case spareSwitch =>
    intro s ts y a v n sp l x t ht howner hready hspare hlogical hbetween
    exact exec_spareSwitch ht howner hready hspare hlogical hbetween ts
  case unitStart =>
    intro s ts v unit x w old new hx hop hold hnew hkind hphase hunit hchanged hwaits hpassed
    exact exec_swapUnitStart hx hop hold hnew hkind hphase hunit hchanged hwaits hpassed ts
  case sliceEnd =>
    intro s ts y a v bad g hg hjob n o
    exact (next_pumpTiles (refreshSliceEnd_eq (s := s.upto ts) hg hjob bad) y).trans
      (congrArg Host.Outcome.next (apply_ite (State.pumpTiles · y) ..))

end Sys2Proof.Machine
end

section
/-! PROOFS. RECIPE_SET, the end of a flag window, the clears and FLAG_WINDOW (R218, R224, R225, R231, R232, R306). -/
namespace Sys2Proof.Machine

/-! ### RECIPE_SET (R224, R225) -/

/-- R224, R225: a change of an index that the image defines is pending from the next boundary on, over the latest record of the
index, and is answered at once with the record it makes. -/
theorem effRecipeSet_pends {s : State} {c : Cmd} {x : Vi} {i : Nat} {old : Recipe} (hi : leAt c.pay 0 2 = i)
    (hx : s.vi? c.vi = some x) (hold : x.img.latestRecipe i = some old) :
    let r := maskRecipe old (leAt c.pay 2 2) (recipeEntry c.pay 4) s.nextBoundary
    effRecipeSet s c =
      ((s.modImg c.vi (fun m => { m with pendingRecipes := m.pendingRecipes ++ [(s.nextBoundary, i, r)] })).emit c.vi none false
          (.recipe i (recipeBytes r) s.nextBoundary),
        some (stOk, le 2 i ++ le 2 x.img.gen ++ recipeBytes r ++ le 8 s.nextBoundary)) := by
  simp only [effRecipeSet, hi, hx, hold, Option.bind_some, Option.map_some]

/-! ### FLAG_WINDOW_END (R218) -/

/-- R218: a window that has lasted FLAG_WINDOW boundaries is evaluated, and the boundaries past its end count for the next. -/
theorem windowEnds_of_lasted {s : State} {v : Nat} {x : Vi} (hx : s.vi? v = some x) (hstarted : x.prec.started = true)
    (hlasted : x.prec.window ≤ x.prec.beat) :
    s.windowEnds v =
      (s.evalWindow v).modVi v (fun x => { x with prec := { x.prec with beat := x.prec.beat - x.prec.window } }) := by
  have hends : ¬ ((!x.prec.started) = true ∨ x.prec.beat < x.prec.window) := by
    rintro (hnot | hshort)
    · simp [hstarted] at hnot
    · exact hlasted.not_gt hshort
  simp only [State.windowEnds, hx, if_neg hends]

/-! ### CLR_UNIT, CLR_ALL and FLAG_WINDOW_WRITE (R218, R231, R232): a write acts with the clock of block 3 on -/

section Writes
variable {s : State} {value : Reg}

theorem exec_clrUnit (hclk : s.gated 3 = false) (hbit : bitOf value.toNat 1 = true) (ts v : Nat) :
    exec (.clrUnit ts v value) s = .next ((s.upto ts).clearUnit v) := by
  simp only [exec, execClrUnit, gated_upto, hclk, hbit, Bool.not_false, Bool.and_self, if_true]

theorem exec_clrAll (hclk : s.gated 3 = false) (hbit : bitOf value.toNat 0 = true) (ts v : Nat) :
    exec (.clrAll ts v value) s = .next ((s.upto ts).clearUnits v) := by
  simp only [exec, execClrAll, gated_upto, hclk, hbit, Bool.not_false, Bool.and_self, if_true]

theorem exec_flagWindowWrite (hclk : s.gated 3 = false) (ts v : Nat) :
    exec (.flagWindowWrite ts v value) s = .next ((s.upto ts).setWindow v value.toNat) := by
  simp only [exec, execFlagWindowWrite, gated_upto, hclk, Bool.false_eq_true, if_false]

theorem exec_clrUnit_gated (hclk : s.gated 3 = true) (ts v : Nat) : exec (.clrUnit ts v value) s = .next (s.upto ts) := by
  simp only [exec, execClrUnit, gated_upto, hclk, Bool.not_true, Bool.and_false, Bool.false_eq_true, if_false]

theorem exec_clrAll_gated (hclk : s.gated 3 = true) (ts v : Nat) : exec (.clrAll ts v value) s = .next (s.upto ts) := by
  simp only [exec, execClrAll, gated_upto, hclk, Bool.not_true, Bool.and_false, Bool.false_eq_true, if_false]

theorem exec_flagWindowWrite_gated (hclk : s.gated 3 = true) (ts v : Nat) :
    exec (.flagWindowWrite ts v value) s = .next (s.upto ts) := by
  simp only [exec, execFlagWindowWrite, gated_upto, hclk, if_true]

end Writes

/-- Settles O24: a recipe change answers at once with what its effect makes, a window that has lasted ends, and a register write
acts where its block is clocked. -/
theorem precisionCommands : Obligations.PrecisionCommands := by
  unfold Obligations.PrecisionCommands
  refine ⟨?recipeSet, ?windowEnd, ?writes⟩
  case recipeSet =>
    intro s p v x old h o i r hx hold
    exact congrArg Host.Outcome.next (takeAs_completes h (effRecipeSet_pends (c := s.command p v) rfl hx hold))
  case windowEnd =>
    intro s ts v x hx hstarted hlasted
    exact congrArg Host.Outcome.next (windowEnds_of_lasted (s := s.upto ts) hx hstarted hlasted)
  case writes =>
    intro s ts v value o
    exact ⟨fun hclk hbit => exec_clrUnit hclk hbit ts v, fun hclk hbit => exec_clrAll hclk hbit ts v,
      fun hclk => exec_flagWindowWrite hclk ts v,
      fun hclk => ⟨exec_clrUnit_gated hclk ts v, exec_clrAll_gated hclk ts v, exec_flagWindowWrite_gated hclk ts v⟩⟩

end Sys2Proof.Machine
end

section
/-! PROOFS. Numbers that a table has free (R244, R245, R246, R277; log entry 100). -/
namespace Sys2Proof.Machine

/-- The search goes over numbers with an entry, and ends before its fuel only at one without. -/
theorem tfree_spec {α : Type} (t : Tbl α) (start fuel : Nat) :
    (∀ k, start ≤ k → k < tfree t start fuel → thas t k = true) ∧
      (tfree t start fuel < start + fuel → thas t (tfree t start fuel) = false) := by
  induction fuel generalizing start with
  | zero => exact ⟨fun k hle hlt => absurd hle (Nat.not_le.2 hlt), fun h => absurd h (Nat.lt_irrefl _)⟩
  | succ fuel ih =>
    cases hhas : thas t start with
    | false =>
      rw [tfree, if_neg (Bool.eq_false_iff.1 hhas)]
      exact ⟨fun k hle hlt => absurd hle (Nat.not_le.2 hlt), fun _ => hhas⟩
    | true =>
      obtain ⟨htaken, hfree⟩ := ih (start + 1)
      rw [tfree, if_pos hhas]
      refine ⟨fun k hk hlt => ?_, fun h => hfree (by omega)⟩
      rcases Nat.eq_or_lt_of_le hk with rfl | hk
      · exact hhas
      · exact htaken k hk hlt

theorem tfree_of_free {α : Type} {t : Tbl α} {k : Nat} (h : thas t k = false) (fuel : Nat) : tfree t k fuel = k := by
  cases fuel with
  | zero => rfl
  | succ fuel => rw [tfree, if_neg (Bool.eq_false_iff.1 h)]

theorem mem_tkeys_of_thas {α : Type} {t : Tbl α} {k : Nat} (h : thas t k = true) : k ∈ tkeys t := by
  induction t with
  | nil => cases h
  | cons e t ih =>
    by_cases hk : k = e.1
    · exact hk ▸ List.mem_cons_self
    · rw [thas, tget, if_neg hk] at h
      exact List.mem_cons_of_mem _ (ih h)

/-- A table with an entry under every number below n has n entries. -/
theorem le_length_of_thas {α : Type} {t : Tbl α} {n : Nat} (h : ∀ k < n, thas t k = true) : n ≤ t.length := by
  have hsub : List.range n ⊆ tkeys t := fun k hk => mem_tkeys_of_thas (h k (List.mem_range.1 hk))
  simpa only [tkeys, List.length_range, List.length_map] using (List.nodup_range.subperm hsub).length_le

/-- Searched from 0 on, a table with fewer than n entries has a number below n to give. -/
theorem tfree_zero_lt {α : Type} {t : Tbl α} {n : Nat} (h : t.length < n) : tfree t 0 n < n := by
  obtain ⟨htaken, -⟩ := tfree_spec t 0 n
  by_contra hn
  have hfull := le_length_of_thas (fun k hk => htaken k (Nat.zero_le k) (by omega) : ∀ k < n, thas t k = true)
  omega

theorem tpick_free {α : Type} {t : Tbl α} {n : Nat} (h : t.length < n) (start : Nat) :
    tpick t start n < n ∧ thas t (tpick t start n) = false := by
  have hmod : start % n < n := Nat.mod_lt _ (by omega)
  unfold tpick
  dsimp only
  split
  next hfound =>
    obtain ⟨-, hfree⟩ := tfree_spec t (start % n) (n - start % n)
    exact ⟨hfound, hfree (by omega)⟩
  next =>
    obtain ⟨-, hfree⟩ := tfree_spec t 0 n
    have hlt := tfree_zero_lt h
    exact ⟨hlt, hfree (by omega)⟩

theorem tpick_of_free {α : Type} {t : Tbl α} {k n : Nat} (hk : k < n) (h : thas t k = false) : tpick t k n = k := by
  simp only [tpick, Nat.mod_eq_of_lt hk, tfree_of_free h, hk, if_true]

/-- Settles O60: the search goes over numbers that have an entry, of which there are too few to fill the numbers below the limit;
a number without an entry is found at once by a search that starts at it. -/
theorem freeNumbers : Obligations.FreeNumbers := by
  unfold Obligations.FreeNumbers
  exact fun α t n => ⟨fun k h => tpick_free h k, fun k hk h => tpick_of_free hk h⟩

end Sys2Proof.Machine
end

section
/-! PROOFS. The checks of a request (R238, R249, R264, R266, R267, R276, R351). -/
namespace Sys2Proof.Machine

/-! ### What a passed request has met -/

/-- R238: what brings a pushed packet to VI v. -/
def State.pushedTo (s : State) (p : Packet) (v : Nat) : Prop := s.steer p.lport p.vlan p.dstIp = some v ∧ p.dstPort = s.net.udp

/-- R249: a pulled packet has been fetched from queue k of VI x, which it names. -/
def Vi.fetchedFrom (x : Vi) (p : Packet) (k : Nat) : Prop :=
  k = pQueue p ∧ ∃ q, tget x.queues k = some q ∧ ⟨p.ts, p.lport, p.bytes⟩ ∈ q.tickets

/-- R238, R249, R266: what the checks on the way to a VI ask of a request that they pass. -/
structure ReachesVi (s : State) (p : Packet) (v : Nat) (x : Vi) : Prop where
  vi : s.vi? v = some x
  header : headerOk p = true
  names : pVi p = v
  pushed : p.pull = none → s.pushedTo p v
  pulled : ∀ w k, p.pull = some (w, k) → w = v ∧ x.fetchedFrom p k
  passed : s.checkOn v x p = .pass v

theorem reachesVi_of_pushed {s : State} {p : Packet} {v : Nat} (hp : p.pull = none) (h : s.check p = .pass v) :
    ∃ x, ReachesVi s p v x := by
  rw [State.check, hp] at h
  dsimp only at h
  cases hw : s.steer p.lport p.vlan p.dstIp with
  | none => rw [hw] at h; cases h
  | some w =>
    rw [hw] at h
    dsimp only at h
    obtain ⟨hport, h⟩ := ite_pass h
    obtain ⟨hhead, h⟩ := ite_pass h
    obtain ⟨hvi, h⟩ := ite_pass h
    cases hx : s.vi? w with
    | none => rw [hx] at h; cases h
    | some x =>
      rw [hx] at h
      obtain rfl : v = w := checkOn_pass h
      exact ⟨x, hx, by simpa using hhead, not_not.1 hvi, fun _ => ⟨hw, not_not.1 hport⟩,
        fun _ _ hpull => absurd (hp.symm.trans hpull) nofun, h⟩

theorem reachesVi_of_pulled {s : State} {p : Packet} {v w k : Nat} (hp : p.pull = some (w, k)) (h : s.check p = .pass v) :
    ∃ x, ReachesVi s p v x := by
  rw [State.check, hp] at h
  dsimp only at h
  cases hx : s.vi? w with
  | none => rw [hx] at h; cases h
  | some x =>
    rw [hx] at h
    dsimp only at h
    cases hq : tget x.queues k with
    | none => rw [hq] at h; cases h
    | some q =>
      rw [hq] at h
      dsimp only at h
      obtain ⟨hticket, h⟩ := ite_pass h
      obtain ⟨hhead, h⟩ := ite_pass h
      obtain ⟨hnames, h⟩ := ite_pass h
      obtain ⟨hvi, hqueue⟩ := not_or.1 hnames
      obtain rfl : v = w := checkOn_pass h
      refine ⟨x, hx, by simpa using hhead, not_not.1 hvi, fun hpush => absurd (hp.symm.trans hpush) nofun, ?_, h⟩
      intro w' k' hpull
      obtain ⟨rfl, rfl⟩ : w' = v ∧ k' = k := by simpa [eq_comm] using hp.symm.trans hpull
      exact ⟨rfl, (not_not.1 hqueue).symm, q, hq, by simpa using hticket⟩

theorem reachesVi_of_pass {s : State} {p : Packet} {v : Nat} (h : s.check p = .pass v) : ∃ x, ReachesVi s p v x := by
  cases hp : p.pull with
  | none => exact reachesVi_of_pushed hp h
  | some w => exact reachesVi_of_pulled hp h

/-- Settles O59: the checks on the way to the VI, by how the packet came, then those on the VI (`checkOn_all`). -/
theorem passedRequest : Obligations.PassedRequest := by
  unfold Obligations.PassedRequest
  intro s p v h
  obtain ⟨x, hvi, hhead, hnames, hpushed, hpulled, hpass⟩ := reachesVi_of_pass h
  obtain ⟨-, hreply, hver, q, hq, hlen, hgen, hfresh, hserve, hfence, hknown, ⟨hlayout, hmax⟩, htenant, hzero, hmirror⟩ :=
    checkOn_all hpass
  refine ⟨x, q, hvi, hq, hhead, hnames, hreply, hver, hgen, hfresh, hserve, hfence, hknown, hlayout, htenant, hzero, hmirror,
    fun hp => ⟨(hpushed hp).1, (hpushed hp).2, hlen hp, hmax hp⟩, fun w k hp => ?_⟩
  obtain ⟨rfl, rfl, q', hq', hticket⟩ := hpulled w k hp
  obtain rfl : q = q' := Option.some.inj (hq.symm.trans hq')
  exact ⟨rfl, rfl, hticket⟩

/-! ### An accepted request is a duplicate from then on (R267) -/

theorem psnPlace_psnMark_self {w : Window} {k : Nat} (h : psnPlace w k = .fresh) : psnPlace (psnMark w k) k = .duplicate := by
  have hself : (k + 2 ^ 32 - k) % 2 ^ 32 = 0 := by omega
  unfold psnPlace at h
  unfold psnMark
  split
  next => simp [psnPlace]
  next hw hh =>
    rw [hh] at h
    dsimp only at h ⊢
    split
    next => simp [psnPlace]
    next hnear =>
      rw [if_neg hnear] at h
      split at h
      next hback =>
        simp only [psnPlace]
        rw [if_neg hnear, if_pos hback]
        simp
      next => cases h

/-- R266: the checks that come before the one of the PSN find nothing in a request whose PSN its queue has accepted. -/
theorem checkOn_duplicate {s : State} {v : Nat} {x : Vi} {p : Packet} {q : Queue} (hreply : bitOf (pFlags p) 0 = false)
    (hver : pVersion p ≤ 1) (hq : tget x.queues (pQueue p) = some q) (hlen : p.pull = none → pLength p = p.bytes.length - 32)
    (hgen : pGen p = q.gen) (hop : unjournaled (pOpcode p) = false) (hdup : psnPlace q.win (pPsn p) = .duplicate) :
    s.checkOn v x p = .duplicate v := by
  have hlen' : (p.pull.isNone && pLength p != p.bytes.length - 32) = false := by simpa using hlen
  simp only [State.checkOn, hreply, Nat.not_lt.2 hver, hq, hlen', hgen, hop, hdup, Bool.false_eq_true, if_false, ne_eq,
    not_true_eq_false, Bool.not_false, Bool.true_and, beq_self_eq_true, if_true]

/-- R238, R266: of a pushed packet that comes to the VI it names, the checks on that VI decide. -/
theorem check_of_pushed {s : State} {p : Packet} {v : Nat} {x : Vi} (hpull : p.pull = none) (hto : s.pushedTo p v)
    (hhead : headerOk p = true) (hnames : pVi p = v) (hx : s.vi? v = some x) : s.check p = s.checkOn v x p := by
  obtain ⟨hsteer, hport⟩ := hto
  simp only [State.check, hpull, hsteer, hport, hhead, hnames, hx, ne_eq, not_true_eq_false, if_false, Bool.not_true,
    Bool.false_eq_true]

/-- R273, R365: a queue whose request's source has been noted. -/
def Queue.noteSource (q : Queue) (p : Packet) : Queue :=
  { q with awaitAddr := false, source := if p.pull.isSome then q.source else some (p.srcIp, p.srcPort) }

theorem noteRequest_queue {s : State} {p : Packet} {v : Nat} {x : Vi} {q : Queue} (hx : s.vi? v = some x)
    (hq : tget x.queues (pQueue p) = some q) :
    ∃ y, (s.noteRequest v p).vi? v = some y ∧ tget y.queues (pQueue p) = some (q.noteSource p) := by
  rw [State.noteRequest, vi?_modVi, if_pos rfl, hx]
  refine ⟨_, rfl, ?_⟩
  dsimp only
  rw [tget_tmod, if_pos rfl, hq]
  rfl

theorem pushedTo_noteRequest {s : State} {p : Packet} {v : Nat} (h : s.pushedTo p v) : (s.noteRequest v p).pushedTo p v := by
  obtain ⟨hsteer, hport⟩ := h
  refine ⟨Eq.trans ?_ hsteer, hport⟩
  rw [State.noteRequest, steer_modVi]
  exact fun _ => rfl

/-- Settles O47: nothing that accepting a pushed request does keeps it from reaching its VI again, where its PSN is marked. -/
theorem acceptedOnce : Obligations.AcceptedOnce := by
  unfold Obligations.AcceptedOnce
  intro s p op v ts h hop hpull
  obtain ⟨rfl, x, q, hx, hq, hopened⟩ := admits_out h
  obtain ⟨y, hy, grown⟩ := opened_own hopened hx
  obtain ⟨x₀, hx₀, hhead, hnames, hpushed, -, hpass⟩ := reachesVi_of_pass (admits_pass h)
  obtain ⟨-, hreply, hver, q₀, hq₀, hlen, hgen, hfresh, -⟩ := checkOn_all hpass
  have harrived : s.arrived p v = (s.entered p).noteRequest v p := by simp only [State.arrived, State.takeTicket, hpull]
  obtain ⟨x₁, hx₁, hq₁⟩ := noteRequest_queue hx₀ hq₀
  rw [← harrived, hx] at hx₁
  obtain rfl : x = x₁ := Option.some.inj hx₁
  obtain rfl : q = q₀.noteSource p := Option.some.inj (hq.symm.trans hq₁)
  obtain ⟨hsteer, hport⟩ := harrived ▸ pushedTo_noteRequest (hpushed hpull)
  have hnew : psnPlace q₀.win (pPsn p) = .fresh := by
    simp only [unjournaled, Bool.or_eq_false_iff, beq_eq_false_iff_ne] at hop
    exact hfresh hop.1 hop.2
  rw [check_of_pushed (p := { p with ts := ts }) hpull ⟨grown.steer _ _ _ hsteer, hport.trans grown.udp.symm⟩ hhead hnames hy]
  exact checkOn_duplicate (p := { p with ts := ts }) hreply hver (grown.win hq) hlen hgen hop
    (psnPlace_psnMark_self hnew)

/-! ### What a failed check answers, drops or counts (R266) -/

/-- R266, R268: a request under the opcode of its row is journaled and carried out, or acts at once (Q_DOORBELL and JRNL_ACK). -/
theorem exec_request {r : Nat × (Packet → Instr)} (hr : r ∈ requestRows) {p : Packet} (hp : pOpcode p = r.1) (s : State) :
    (∃ chk eff, exec (r.2 p) s = .next (s.take p chk eff)) ∨ ∃ eff, exec (r.2 p) s = .next (s.takeDirect p eff) := by
  fin_cases hr
  pick_goal 5
  · exact .inr ⟨effQDoorbell, congrArg Host.Outcome.next (if_pos hp)⟩
  pick_goal 36
  · exact .inr ⟨effJrnlAck, congrArg Host.Outcome.next (if_pos hp)⟩
  all_goals exact .inl ⟨_, _, congrArg Host.Outcome.next (if_pos hp)⟩

/-- Settles O43: both ways of taking a request carry the checks out alike (`take_fails`, `takeDirect_fails`). -/
theorem requestChecks : Obligations.RequestChecks := by
  unfold Obligations.RequestChecks
  intro r hr s p hp u t
  rcases exec_request hr hp s with ⟨chk, eff, hexec⟩ | ⟨eff, hexec⟩
  · simpa only [hexec, Host.Outcome.next.injEq] using take_fails s p chk eff
  · simpa only [hexec, Host.Outcome.next.injEq] using takeDirect_fails s p eff

end Sys2Proof.Machine
end

section
/-! PROOFS. Commands on VIs and partitions (R240, R242, R277, R278, R347, R348). -/
namespace Sys2Proof.Machine

section Effects
variable {s : State} {c : Cmd} {x : Vi} {n : Nat}

/-- R237, R240, R241: a free VI number between 1 and 255, an address and a partition without findings make a VI. -/
theorem effViCreate_creates (hn : partVi c.pay 48 = n) (hpos : 1 ≤ n) (hmax : n ≤ 255) (hfree : thas s.vis n = false)
    (haddr : addrFinding s (addrAt c.pay 0) = false) (hpart : partFinding s n (partAt c.pay 48) = none) :
    effViCreate s c =
      let a := addrAt c.pay 0
      let r := partEffective (partAt c.pay 48)
      (s.createVi n a r, some (stOk, viCreateReply n (max 1 (s.viTag n)) 1 a r)) := by
  have hrange : ¬ (n = 0 ∨ 255 < n) := by omega
  simp only [effViCreate, hn, hrange, hfree, haddr, hpart, Bool.false_eq_true, if_false]

/-- R242: the courses that leave are erased, and the new record is in force. -/
theorem effYelmAlloc_changes {r : PartRec} (hn : partVi c.pay 0 = n) (hr : partEffective (partAt c.pay 0) = r) (hx : s.vi? n = some x)
    (hpos : n ≠ 0) (hopen : x.closing = none) (hpart : partFinding s n (partAt c.pay 0) = none) (halloc : allocFinding x r = false) :
    effYelmAlloc s c =
      let o := s.eraseCourses (x.part.courses.filter (fun k => !r.courses.contains k))
      (o.modVi n (fun x => { x with part := r, kv := o.resizeT1 n x.kv r.t1Mib }), some (stOk, partBytes n r)) := by
  have hmay : ¬ (n = 0 ∨ x.closing.isSome = true) := by simp [hpos, hopen]
  simp only [effYelmAlloc, hn, hr, hx, hmay, hpart, halloc, Bool.false_eq_true, if_false]

theorem effPartRead_reads (hx : s.vi? (leAt c.pay 0 2) = some x) :
    effPartRead s c = (s, some (stOk, partBytes (leAt c.pay 0 2) x.part)) := by
  simp only [effPartRead, hx]

/-- R347: a tenant VI that no reset touches and no teardown has taken begins its teardown. -/
theorem effViClose_starts (hn : leAt c.pay 0 2 = n) (hx : s.vi? n = some x) (hpos : n ≠ 0) (hopen : x.closing = none)
    (hreset : s.inReset n = false) : effViClose s c = (s.startClose n c.entry, none) := by
  have hmay : ¬ (n = 0 ∨ x.closing.isSome = true) := by simp [hpos, hopen]
  simp only [effViClose, hn, hx, hmay, hreset, Bool.false_eq_true, if_false]

end Effects

/-- R348: a VI in teardown that has neither a step nor a transfer left is removed. -/
theorem exec_teardownComplete {s : State} {v : Nat} {x : Vi} {t : Teardown} (hx : s.vi? v = some x) (hclose : x.closing = some t)
    (hsteps : s.steps.any (fun e => e.2.vi == v) = false) (hxfers : x.conns.any (fun c => !c.2.out.isEmpty) = false) (ts : Nat) :
    exec (.teardownComplete ts v) s =
      .next (((s.upto ts).removeVi v).outcome 0 t.entry stOk (le 2 v ++ zeros 2 ++ le 4 t.steps ++ le 4 t.xfers)) := by
  simp only [exec, execTeardownComplete, vi?_upto, hx, hclose, State.upto_steps, hsteps, hxfers, Bool.or_self, Bool.false_eq_true,
    if_false]

/-- Settles O1: each request goes on past its guards, which its hypotheses meet, to its own effect; a teardown ends where nothing
of its VI is left. -/
theorem viCommands : Obligations.ViCommands := by
  unfold Obligations.ViCommands
  refine ⟨?create, ?alloc, ?read, ?close, fun s ts v x t hx hclose hsteps hxfers => exec_teardownComplete hx hclose hsteps hxfers ts⟩
  case create =>
    intro s p v h o a n r x hpos hmax hfree haddr hpart
    exact congrArg Host.Outcome.next (takeAs_completes h
      (effViCreate_creates (c := s.command p v) rfl hpos hmax hfree haddr hpart))
  case alloc =>
    intro s p v x h o n r hx hpos hopen hpart halloc
    exact congrArg Host.Outcome.next (takeAs_completes h
      (effYelmAlloc_changes (c := s.command p v) rfl rfl hx hpos hopen hpart halloc))
  case read =>
    intro s p v x h hx
    exact congrArg Host.Outcome.next (takeAs_completes h (effPartRead_reads (c := s.command p v) hx))
  case close =>
    intro s p v x h n hx hpos hopen hreset
    exact congrArg Host.Outcome.next (takeAs_later h rfl (effViClose_starts (c := s.command p v) rfl hx hpos hopen hreset))

end Sys2Proof.Machine
end

section
/-! PROOFS. Commands on connections and regions (R245, R246, R247, R277). -/
namespace Sys2Proof.Machine

section Effects
variable {s : State} {c : Cmd} {x : Vi}

/-- R245: the connection that an RC_CREATE asks for, its operands within their bounds and the device's side drawn. -/
def State.newConn (s : State) (pay : List Byte) : Conn :=
  { lport := leAt pay 0 1, pmtu := clampN (leAt pay 1 1) 10 12, ackExp := clampN (leAt pay 2 1) 10 20, retry := min (leAt pay 3 1) 7,
    prio := min (leAt pay 4 1) 7, hostIp := BitVec.ofNat 128 (beAt pay 8 16), hostQpn := leAt pay 24 4, hostPsn := leAt pay 28 4,
    devQpn := Config.devQpn s.draws, devPsn := Config.devPsn s.draws, error := false, tries := 0, failSince := none,
    rate := s.lineRate (leAt pay 0 1), lastCnp := none, lastRaise := s.now, lastCut := none, cnpSent := none, rnr := 0, out := [] }

/-- R277: the operands of a connection in the reply of RC_CREATE. -/
def connBytes (k : Conn) : List Byte := le 1 k.lport ++ le 1 k.pmtu ++ le 1 k.ackExp ++ le 1 k.retry ++ le 1 k.prio ++ zeros 3

/-- R245: a connection on a port of its VI, with room for it, gets a free number. -/
theorem effRcCreate_creates {k : Conn} {rc : Nat} (hk : s.newConn c.pay = k)
    (hrc : tpick x.conns (Config.rcStart s.draws) Config.rcPerVi = rc) (hx : s.vi? c.vi = some x)
    (hport : (s.portsOf x.addr).contains (leAt c.pay 0 1) = true) (hroom : x.conns.length < Config.rcPerVi)
    (hroomDev : sumNat (s.vis.map (fun e => e.2.conns.length)) < Config.rcPerDevice) :
    effRcCreate s c =
      ((({ s with draws := s.draws + 1 } : State).modVi c.vi (fun x => { x with conns := tset x.conns rc k })).pairReturns c.vi rc,
        some (stOk, le 2 rc ++ zeros 2 ++ le 4 k.devQpn.toNat ++ le 4 k.devPsn.toNat ++ connBytes k)) := by
  subst hk hrc
  have hfits : ¬ (x.conns.length ≥ Config.rcPerVi ∨ sumNat (s.vis.map (fun e => e.2.conns.length)) ≥ Config.rcPerDevice) := by omega
  simp only [effRcCreate, hx, hport, hfits, Bool.not_true, Bool.false_eq_true, if_false]
  rfl

theorem effRcDestroy_removes {rc : Nat} (hrc : leAt c.pay 0 2 = rc) (hx : s.vi? c.vi = some x) (hconn : thas x.conns rc = true)
    (hunused : x.regions.any (fun r => r.2.rc == rc) = false) :
    effRcDestroy s c =
      (s.modVi c.vi (fun x => { x with
        conns := tdel x.conns rc, pair := { x.pair with former := if x.pair.former = some rc then none else x.pair.former } }),
        some (stOk, le 2 rc ++ zeros 2)) := by
  simp only [effRcDestroy, hrc, hx, hconn, hunused, Bool.not_true, Bool.false_eq_true, if_false]

/-- R246: a region within the bounds gets a free number; one of the remote tier gets its arena. -/
theorem effRegionAdd_adds {use grid len r : Nat} (huse : leAt c.pay 2 1 = use) (hgrid : (if use = 1 then 67108864 else 4096) = grid)
    (hlen : leAt c.pay 16 8 / grid * grid = len) (hr : tpick x.regions (Config.regionStart s.draws) Config.regionsPerVi = r)
    (hx : s.vi? c.vi = some x) (hconn : thas x.conns (leAt c.pay 0 2) = true) (hkind : use ≤ 4)
    (hroom : x.regions.length < Config.regionsPerVi) (hremote : use = 1 → x.remoteBytes + len ≤ x.part.remote * 1048576) :
    effRegionAdd s c =
      (({ s with draws := s.draws + 1 } : State).modVi c.vi (fun x => { x with
        regions := tset x.regions r ⟨leAt c.pay 0 2, use, leAt c.pay 4 4, leAt c.pay 8 8, len⟩
        kv := { x.kv with t2 := if use = 1 then tset x.kv.t2 r (Arena.ofBytes len) else x.kv.t2 } }),
        some (stOk, le 4 r ++ zeros 4 ++ le 8 len)) := by
  have hremote' : ¬ (use = 1 ∧ x.remoteBytes + len > x.part.remote * 1048576) := fun h => Nat.not_lt.2 (hremote h.1) h.2
  simp only [effRegionAdd, huse, hgrid, hlen, hr, hx, hconn, Nat.not_lt.2 hkind, Nat.not_le.2 hroom, hremote',
    Bool.not_true, Bool.false_eq_true, or_self, if_false]

theorem effRegionRemove_removes {r : Nat} (hr : leAt c.pay 0 4 = r) (hx : s.vi? c.vi = some x) (hregion : thas x.regions r = true)
    (hfree : x.regionHeld r = false) :
    effRegionRemove s c =
      (s.modVi c.vi (fun x => { x with regions := tdel x.regions r, kv := { x.kv with t2 := tdel x.kv.t2 r } }),
        some (stOk, le 4 r)) := by
  simp only [effRegionRemove, hr, hx, hregion, hfree, Bool.not_true, Bool.false_eq_true, if_false]

end Effects

/-- Settles O2: each request goes on past its guards, which its hypotheses meet, to its own effect. -/
theorem connectionCommands : Obligations.ConnectionCommands := by
  unfold Obligations.ConnectionCommands
  refine ⟨?create, ?destroy, ?add, ?remove⟩
  case create =>
    intro s p v x h o f rc hx hport hroom hroomDev
    exact congrArg Host.Outcome.next (takeAs_completes h
      (effRcCreate_creates (c := s.command p v) rfl rfl hx hport hroom hroomDev))
  case destroy =>
    intro s p v x h o rc hx hconn hunused
    exact congrArg Host.Outcome.next (takeAs_completes h (effRcDestroy_removes (c := s.command p v) rfl hx hconn hunused))
  case add =>
    intro s p v x h o use grid len r hx hconn hkind hroom hremote
    exact congrArg Host.Outcome.next (takeAs_completes h
      (effRegionAdd_adds (c := s.command p v) rfl rfl rfl rfl hx hconn hkind hroom hremote))
  case remove =>
    intro s p v x h o r hx hregion hfree
    exact congrArg Host.Outcome.next (takeAs_completes h (effRegionRemove_removes (c := s.command p v) rfl hx hregion hfree))

end Sys2Proof.Machine
end

section
/-! PROOFS. Commands on queues and the journal (R247, R248, R249, R251, R272, R289, R313). -/
namespace Sys2Proof.Machine

section Effects
variable {s : State} {c : Cmd} {x : Vi} {q : Queue}

/-- R247: a free queue number below the VI's count, what the record names at hand: the queue is made. -/
theorem effQCreate_creates {n : Nat} (hn : leAt c.pay 0 2 = n) (hq : queueAt x c.pay = q) (hx : s.vi? c.vi = some x)
    (hbelow : n < x.part.queues) (hfree : thas x.queues n = false) (hroom : x.queues.length < x.part.queues)
    (hrefs : queueRefs x q = true) :
    effQCreate s c =
      ((s.modVi c.vi (fun x => { x with queues := tset x.queues n q, jrnl := x.jrnl.without n })).emit c.vi none false
        (.queue (queueBytes n q) 1 none []), some (stOk, le 2 n ++ le 2 1 ++ queueBytes n q)) := by
  simp only [effQCreate, hn, hx, hq, hfree, hrefs, Nat.not_le.2 hbelow, Nat.not_le.2 hroom, Bool.not_true, Bool.false_eq_true,
    or_self, if_false]

/-- R272: what Q_DESTROY makes of a queue, given the state and the steps that abandoning leaves. -/
def State.destroyQueue (s : State) (v q entry : Nat) (x : Vi) (left : List Nat) : State :=
  (((x.entriesOf q).foldl (fun s e => s.retire v e) s).modVi v (fun y =>
    { y.modQueue q (fun u => { u with destroying := true }) with
      ends := y.ends ++ [⟨entry, left, none, some q, (x.entriesOf q).length⟩] })).endWaits v

theorem effQDestroy_destroys {n : Nat} (hn : leAt c.pay 0 2 = n) (hx : s.vi? c.vi = some x) (hq : thas x.queues n = true)
    (hzero : n ≠ 0) (hown : n ≠ c.queue) :
    effQDestroy s c =
      let r := s.abandonSteps (fun _ t => t.vi == c.vi && t.queue == n && t.entry.isSome && !t.ending)
      (r.1.destroyQueue c.vi n c.entry x r.2, none) := by
  simp only [effQDestroy, State.destroyQueue, hn, hx, hq, hzero, hown, Bool.not_true, Bool.false_eq_true, or_self, if_false]

end Effects

/-! ### The two requests that are never journaled (R268) -/

theorem admitsDirect_opcode {s : State} {p : Packet} {op v : Nat} (h : s.admitsDirect p op v = true) : pOpcode p = op := by
  simp only [State.admitsDirect, Bool.and_eq_true, beq_iff_eq] at h
  exact h.1.1

theorem exec_qDoorbell {s : State} {p : Packet} {v : Nat} (h : s.admitsDirect p 0x0105 v = true) :
    exec (.qDoorbell p) s = .next (effQDoorbell (s.openedDirect p v) (cmdOfPacket v p)) :=
  congrArg Host.Outcome.next ((if_pos (admitsDirect_opcode h)).trans (takeDirect_admits effQDoorbell h))

theorem exec_jrnlAck {s : State} {p : Packet} {v : Nat} (h : s.admitsDirect p 0x0903 v = true) :
    exec (.jrnlAck p) s = .next (effJrnlAck (s.openedDirect p v) (cmdOfPacket v p)) :=
  congrArg Host.Outcome.next ((if_pos (admitsDirect_opcode h)).trans (takeDirect_admits effJrnlAck h))

/-- R249: the state in which a doorbell has moved its indices: the tail stays where the connection is in error. -/
def State.rung (s : State) (v qn : Nat) (q : Queue) (tail head : Nat) : State :=
  s.modVi v (fun x => x.modQueue qn (fun u =>
    { u with cqHead := head, sqTail := if u.pull && s.connOk v u.rc then bellTail q tail else u.sqTail }))

/-- R249, R251: after the indices, the new slots are fetched and held completions leave. -/
theorem effQDoorbell_rings {s : State} {c : Cmd} {x : Vi} {q : Queue} (hx : s.vi? c.vi = some x)
    (hq : tget x.queues c.queue = some q) :
    effQDoorbell s c =
      let o := s.rung c.vi c.queue q (leAt c.pay 0 4) (leAt c.pay 4 4)
      let base := ((tget x.regions q.sqRegion).map Region.addr).getD 0
      let new := (bellTail q (leAt c.pay 0 4) + 2 ^ 32 - q.sqTail) % 2 ^ 32
      (if q.pull && o.connOk c.vi q.rc then o.fetchSlots c.vi c.queue q base q.sqTail new 1026 else o).sendHeld c.vi c.queue 1024 := by
  simp only [effQDoorbell, hx, hq]
  rfl

theorem not_missing_queue {x : Vi} {q : Nat} (h : q = 0xFFFF ∨ thas x.queues q = true) :
    ¬ (q ≠ 0xFFFF ∧ (!thas x.queues q) = true) := by
  rintro ⟨hne, hmissing⟩
  rcases h with rfl | h
  · exact hne rfl
  · rw [h] at hmissing
    cases hmissing

/-- R289: an acknowledgement of one queue that exists, or of all, retires the sent entries it covers. -/
theorem effJrnlAck_retires {s : State} {c : Cmd} {x : Vi} {q upto : Nat} (hq : leAt c.pay 0 2 = q) (hupto : leAt c.pay 4 8 = upto)
    (hx : s.vi? c.vi = some x) (hqueue : q = 0xFFFF ∨ thas x.queues q = true) :
    effJrnlAck s c =
      ((x.jrnl.entries.filter (fun e => ackCovers q upto e.2)).foldl (fun s e => s.emit c.vi none true (.retireOne e.2.queue e.2.psn))
        s).modVi c.vi (fun x => x.modJrnl (fun j =>
          ({ j with entries := tmapv j.entries (fun _ e => if ackCovers q upto e then { e with state := .retired } else e) } :
            Journal).reclaim)) := by
  simp only [effJrnlAck, hq, hupto, hx, if_neg (not_missing_queue hqueue)]

/-- Settles O3: a journaled request goes on past its guards, which its hypotheses meet, to its own effect; the other two act at
once on the queue or the entries that they name. -/
theorem queueCommands : Obligations.QueueCommands := by
  unfold Obligations.QueueCommands
  refine ⟨?create, ?destroy, ?doorbell, ?ack⟩
  case create =>
    intro s p v x h o n q hx hbelow hfree hroom hrefs
    exact congrArg Host.Outcome.next (takeAs_completes h
      (effQCreate_creates (c := s.command p v) rfl rfl hx hbelow hfree hroom hrefs))
  case destroy =>
    intro s p v x h o q r hx hq hzero hown
    exact congrArg Host.Outcome.next (takeAs_later h rfl (effQDestroy_destroys (c := s.command p v) rfl hx hq hzero hown))
  case doorbell =>
    intro s p v x q h o t base o' hx hq
    exact (exec_qDoorbell h).trans (congrArg _ (effQDoorbell_rings (c := cmdOfPacket v p) hx hq))
  case ack =>
    intro s p v x h o q covers hx hqueue
    exact (exec_jrnlAck h).trans (congrArg _ (effJrnlAck_retires (c := cmdOfPacket v p) rfl rfl hx hqueue))

end Sys2Proof.Machine
end

section
/-! PROOFS. Fetched slots, and completions as they leave (R249, R250, R251, R264, R271, R272). -/
namespace Sys2Proof.Machine

section Events
variable {s : State} {v n : Nat} {x : Vi} {q : Queue}

/-- R249: the response to the oldest fetch of a queue, of the generations now in force, brings the slots of that fetch. -/
theorem exec_pullFetchResponse {c : Conn} {t : Xfer} {ts : Nat} (hx : s.vi? v = some x) (hq : tget x.queues n = some q)
    (hc : tget x.conns q.rc = some c) (ht : x.pullXfer q.rc n = some t) (hcur : (s.upto ts).xferCurrent v x n t = true)
    (slots : List (List Byte)) :
    exec (.pullFetchResponse ts v n c.lport slots) s = .next (
      let k := t.len / 2 ^ q.slotLog2
      let got := (List.range k).map (fun i => (max s.now ts, bytesAt (slots.getD i []) 0 (2 ^ q.slotLog2)))
      takeSlots (((s.upto ts).popXfer v q.rc t).modVi v (fun x =>
        x.modQueue n (fun u => { u with fetched := u.fetched ++ got.drop u.skip, skip := u.skip - k }))) v n c.lport
        (k + q.fetched.length + 1)) := by
  simp only [exec, execPullFetchResponse, State.pullArrives, vi?_upto, hx, hq, hc, ht, hcur, Option.bind_some, Option.map_some,
    Option.getD_some, Bool.not_true, Bool.false_eq_true, if_true, if_false, State.upto_now]

theorem exec_completionSend {id ts : Nat} {e : Entry} (hserve : (s.upto ts).serving = true) (hx : s.vi? v = some x)
    (hq : tget x.queues n = some q) (hnext : x.nextToSend n = some (id, e)) :
    exec (.completionSend ts v n) s = .next ((s.upto ts).sendOne v n id x q e) := by
  simp only [exec, execCompletionSend, hserve, vi?_upto, hx, hq, hnext, Bool.not_true, Bool.false_eq_true, if_false]

/-- R250: the state that a completion sent once more leaves behind it. -/
def State.countRetry (s : State) (v id : Nat) : State :=
  s.modVi v (fun x => { x.modEntry id (fun e => { e with series := e.series + 1, beats := 0, retx := min (e.retx + 1) 255 }) with
    ctr := { x.ctr with cplRetx := bump x.ctr.cplRetx } })

theorem exec_cplRetry {id psn ts : Nat} {e : Entry} {b : List Byte} (hserve : (s.upto ts).serving = true) (hx : s.vi? v = some x)
    (hq : tget x.queues n = some q) (hpacket : q.rdma = false) (hsent : e.sent = some b)
    (hfind : x.jrnl.entries.find? (fun e => e.2.queue == n && e.2.psn == psn && e.2.state == .sent) = some (id, e))
    (hdue : s.net.cplRetry ≤ e.beats) (hfirst : 1 ≤ e.series) (hlast : e.series ≤ 8) :
    exec (.cplRetry ts v n psn) s = .next (
      let o := s.upto ts
      if e.series = 8 then
        (o.modEntry v id (fun e => { e with series := 9 })).report
          { recOf 0x0404 1 v o.now with queue := n, psn := psn, detail := le 1 8 }
      else (o.countRetry v id).send v (replyTo (some q) e.req).1 (replyTo (some q) e.req).2 (o.prioOf q.cls) b) := by
  have hretry : ¬ (q.rdma = true ∨ e.beats < (s.upto ts).net.cplRetry ∨ e.series ≥ 9 ∨ e.series = 0) := by
    simp only [hpacket, State.upto_net, Bool.false_eq_true, false_or]
    omega
  simp only [exec, execCplRetry, hserve, vi?_upto, hx, hq, hfind, hsent, hretry, Bool.not_true, Bool.false_eq_true, if_false]
  rfl

end Events

/-- Settles O4: each event goes on past its guards, which its hypotheses meet; how a completion leaves is `State.sendOne`. -/
theorem completionEvents : Obligations.CompletionEvents := by
  unfold Obligations.CompletionEvents
  exact ⟨fun s ts v n slots x q c t hx hq hc ht hcur => exec_pullFetchResponse hx hq hc ht hcur slots,
    fun s ts v n id x q e hserve hx hq hnext => exec_completionSend hserve hx hq hnext,
    fun s ts v n psn id x q e b hserve hx hq hpacket hsent hfind hdue hfirst hlast =>
      exec_cplRetry hserve hx hq hpacket hsent hfind hdue hfirst hlast⟩

end Sys2Proof.Machine
end

section
/-! PROOFS. Links, flow control and neighbours (R233, R239, R254, R298, R331). -/
namespace Sys2Proof.Machine

section Events
variable {s : State} {ts lp prio : Nat}

theorem exec_linkUp (h : s.portExists lp = true) :
    exec (.linkUp ts lp) s = .next ((s.upto ts).modNet (fun n => { n with linkUp := n.linkUp ||| 2 ^ lp })) :=
  congrArg Host.Outcome.next (if_pos h)

/-- R233, R298, R331: a link that was up goes down with its record; one that carried PTP loses its source. -/
theorem dropLink_of_up (h : bitOf s.net.linkUp lp = true) :
    s.dropLink lp =
      let o := (s.modNet (fun n => { n with linkUp := n.linkUp - 2 ^ lp })).report
        { recOf 0x0401 3 0xFFFF s.now with die := 61 + lp / 4, detail := le 1 lp }
      if lp % 4 = 0 then o.sourceLost (lp / 4) else o := by
  simp only [State.dropLink, h, Bool.not_true, Bool.false_eq_true, if_false]

theorem not_ignoresPfc (hport : s.portExists lp = true) (hen : bitOf s.net.pfcEn prio = true) (ts : Nat) :
    ¬ ((!(s.upto ts).portExists lp) = true ∨ (!bitOf (s.upto ts).net.pfcEn prio) = true) := by
  rw [show (s.upto ts).portExists lp = true from hport, State.upto_net, hen]
  decide

/-- R254: XOFF pauses an enabled priority. -/
theorem exec_pfcFrame_xoff (hport : s.portExists lp = true) (hen : bitOf s.net.pfcEn prio = true)
    (hruns : s.net.paused.any (fun e => e.1 == lp && e.2.1 == prio) = false) :
    exec (.pfcFrame ts lp prio true) s =
      .next ((s.upto ts).modNet (fun n => { n with paused := n.paused ++ [(lp, prio, max s.now ts, false)] })) := by
  rw [exec, execPfcFrame]
  simp only [if_neg (not_ignoresPfc hport hen ts)]
  simp only [State.upto_net, hruns, State.upto_now, Bool.false_eq_true, if_true, if_false]

/-- R254: XON resumes it. -/
theorem exec_pfcFrame_xon (hport : s.portExists lp = true) (hen : bitOf s.net.pfcEn prio = true) :
    exec (.pfcFrame ts lp prio false) s = .next ((s.upto ts).resume lp prio) := by
  simp only [exec, execPfcFrame, if_neg (not_ignoresPfc hport hen ts), Bool.false_eq_true, if_false]

/-- R254: a priority paused longer than PFC_WD milliseconds is counted and recorded, and discards until XON. -/
theorem exec_pfcWatchdog {a b since : Nat}
    (hpaused : s.net.paused.find? (fun e => e.1 == lp && e.2.1 == prio) = some (a, b, since, false)) (hon : s.net.pfcWd ≠ 0)
    (hlong : since + s.net.pfcWd * 1000000 < max s.now ts) :
    exec (.pfcWatchdog ts lp prio) s = .next (((s.upto ts).modNet (fun n => { n with
        pfcWdEvents := bump n.pfcWdEvents
        paused := n.paused.map (fun e => if e.1 = lp ∧ e.2.1 = prio then (lp, prio, since, true) else e)
        blocked := n.blocked.filter (fun b => !(b.1 == lp && b.2.1 == prio)) })).report
      { recOf 0x0402 1 0xFFFF (max s.now ts) with die := 61 + lp / 4, detail := le 1 lp ++ le 1 prio }) := by
  simp only [exec, execPfcWatchdog, State.upto_net, hpaused, State.upto_now, hon, Nat.not_le.2 hlong, Bool.false_eq_true, or_self,
    if_false]

end Events

/-- Settles O8: each event goes on past its guards, which its hypotheses meet; an expiry has none. -/
theorem portEvents : Obligations.PortEvents := by
  unfold Obligations.PortEvents
  exact ⟨fun s ts lp h => exec_linkUp h, fun s ts lp h => congrArg Host.Outcome.next (dropLink_of_up (s := s.upto ts) h),
    fun s ts lp prio hport hen hruns => exec_pfcFrame_xoff hport hen hruns, fun s ts lp prio hport hen => exec_pfcFrame_xon hport hen,
    fun s ts lp prio a b since hpaused hon hlong => exec_pfcWatchdog hpaused hon hlong, fun s ts a => rfl⟩

end Sys2Proof.Machine
end

section
/-! PROOFS. Congestion control (R255). -/
namespace Sys2Proof.Machine

section Events
variable {s : State} {v rc : Nat} {x : Vi} {c : Conn}

/-- R255: whether the last cut was made less than 50 µs before a stamp. -/
def Conn.cutSoon (c : Conn) (now : Nat) : Bool := c.lastCut.any (fun t => decide (now < t + 50000))

theorem cutSoon_iff (c : Conn) (now : Nat) : c.cutSoon now = true ↔ ∃ t ∈ c.lastCut, now < t + 50000 := by
  simp only [Conn.cutSoon, Option.any_eq_true, decide_eq_true_eq, Option.mem_def]

/-- R255: a connection that has taken a CNP, its rate cut unless a cut was made soon before. -/
def Conn.takeCnp (c : Conn) (now : Nat) (soon : Bool) : Conn :=
  { c with
    lastCnp := some now, lastRaise := now, lastCut := if soon then c.lastCut else some now
    rate := if soon then c.rate else max minRate (c.rate * 7 / 8) }

/-- R255: a connection whose rate is raised by 1/64 of a line rate. -/
def Conn.raise (c : Conn) (now : Nat) (line : Rat) : Conn := { c with lastRaise := now, rate := min line (c.rate + line / 64) }

theorem conn_modConn_self (hx : s.vi? v = some x) (hc : tget x.conns rc = some c) (f : Conn → Conn) :
    ((s.modVi v (fun x => x.modConn rc f)).vi? v).bind (fun x => tget x.conns rc) = some (f c) := by
  rw [vi?_modVi, if_pos rfl, hx, Option.map_some, Option.bind_some, tget_modConn, if_pos rfl, hc, Option.map_some]

theorem vi?_modVi_other {w : Nat} (h : w ≠ v) (f : Vi → Vi) : (s.modVi v f).vi? w = s.vi? w := by
  rw [vi?_modVi, if_neg h]

/-- R255: what a CNP on a connection counts and leaves. -/
def State.countCnp (s : State) : State := s.modNet (fun n => { n with cnpRx := bump n.cnpRx })

theorem exec_cnp (hx : s.vi? v = some x) (hc : tget x.conns rc = some c) (ts : Nat) :
    exec (.cnp ts v rc) s = .next ((s.upto ts).countCnp.modVi v (fun x => x.modConn rc (fun k =>
      k.takeCnp (max s.now ts) (c.cutSoon (max s.now ts))))) := by
  simp only [exec, execCnp, vi?_upto, hx, hc, Option.bind_some]
  unfold Conn.cutSoon
  cases c.lastCut <;> rfl

theorem exec_ccRateIncrease {ts : Nat} (hx : s.vi? v = some x) (hc : tget x.conns rc = some c)
    (hdue : c.lastRaise + 100000 ≤ max s.now ts) :
    exec (.ccRateIncrease ts v rc) s = .next ((s.upto ts).modVi v (fun x => x.modConn rc (fun k =>
      k.raise (max s.now ts) (s.lineRate c.lport)))) := by
  simp only [exec, execCcRateIncrease, vi?_upto, hx, hc, Option.bind_some, State.upto_now, Nat.not_lt.2 hdue, if_false]
  rfl
end Events

/-- Settles O9: what a CNP or an increase makes of its connection, and that it leaves every other VI. -/
theorem congestionEvents : Obligations.CongestionEvents := by
  unfold Obligations.CongestionEvents
  refine ⟨?cnp, ?raise⟩
  case cnp =>
    intro s ts v rc x c hx hc soon
    refine ⟨_, exec_cnp hx hc ts, rfl, fun w hw => vi?_modVi_other hw _, fun hsoon => ?kept, fun hlate => ?cut⟩
    case kept =>
      have hcut := (cutSoon_iff c (max s.now ts)).2 hsoon
      rw [conn_modConn_self (s := (s.upto ts).countCnp) hx hc, hcut]
      rfl
    case cut =>
      have hcut := Bool.eq_false_iff.2 (fun h => hlate ((cutSoon_iff c (max s.now ts)).1 h))
      rw [conn_modConn_self (s := (s.upto ts).countCnp) hx hc, hcut]
      rfl
  case raise =>
    intro s ts v rc x c hx hc hdue
    exact ⟨_, exec_ccRateIncrease hx hc hdue, rfl, fun w hw => vi?_modVi_other hw _, conn_modConn_self (s := s.upto ts) hx hc _⟩

end Sys2Proof.Machine
end

section
/-! PROOFS. Received frames (R234, R235, R238, R239, R244, R256). -/
namespace Sys2Proof.Machine

/-! ### The VI that a frame selects (R238) -/

section Frame
variable {s g o : State} {f : Frame} {v : Nat} {x : Vi}

section Select
variable (hgate : (s.upto f.ts).rxGate f.lport f.rx = (true, g)) (hce : g.markCe f.ce = o)
include hgate hce

/-- R238: a frame that asks for no address goes to the VI that steering selects. -/
theorem exec_rxFrame_steered (hbody : ∀ a, f.body ≠ .resolveRequest a) (hsteer : o.steer f.lport f.vlan f.dstIp = some v)
    (hx : o.vi? v = some x) : exec (.rxFrame f) s = .next (o.rxOn f v x) := by
  -- The equation of the arm for every other body asks for `hbody`.
  simp only [exec, execRxFrame, hgate, hce, hsteer, hx]

theorem exec_rxFrame_unsteered (hbody : ∀ a, f.body ≠ .resolveRequest a) (hsteer : o.steer f.lport f.vlan f.dstIp = none) :
    exec (.rxFrame f) s = .next (o.modNet (fun n => { n with rxNoVi := bump n.rxNoVi })) := by
  simp only [exec, execRxFrame, hgate, hce, hsteer]

/-- R239: a frame that asks for an address goes to the VI that has it. -/
theorem exec_rxFrame_asking {a : BitVec 128} (hbody : f.body = .resolveRequest a)
    (hfind : o.vis.find? (fun e => e.2.addr.vlan == f.vlan && bitOf e.2.addr.ports f.lport && o.portExists f.lport &&
      isAddrOf e.2.addr a) = some (v, x)) : exec (.rxFrame f) s = .next (o.rxOn f v x) := by
  simp only [exec, execRxFrame, hgate, hce, hbody, hfind]

end Select

/-! ### What a frame does on its VI (R238, R239, R244) -/

theorem rxOn_fragment (hfrag : f.fragment = true) : o.rxOn f v x = o.modNet (fun n => { n with rxFrag := bump n.rxFrag }) := if_pos hfrag

section Whole
variable (hfrag : f.fragment = false)
include hfrag

theorem rxOn_echo (hbody : f.body = .echo) : o.rxOn f v x = o.route v f.srcIp none 0 (.answer v f.srcIp .echo) := by
  simp only [State.rxOn, hfrag, hbody, Bool.false_eq_true, if_false]

theorem rxOn_resolveReply {a : BitVec 128} (hbody : f.body = .resolveReply a) : o.rxOn f v x = o.learn f.vlan f.lport a := by
  simp only [State.rxOn, hfrag, hbody, Bool.false_eq_true, if_false]

theorem rxOn_other {b : Nat} (hbody : f.body = .other b) : o.rxOn f v x = o.countOther := by
  simp only [State.rxOn, hfrag, hbody, Bool.false_eq_true, if_false]

theorem rxOn_resolveRequest {a : BitVec 128} (hbody : f.body = .resolveRequest a) (haddr : isAddrOf x.addr a = true) :
    o.rxOn f v x = o.xmit f.lport 0 (.answer v f.srcIp (.resolveRequest a)) := by
  simp only [State.rxOn, hfrag, hbody, haddr, Bool.false_eq_true, if_false, if_true]

theorem rxOn_roce_unknown {q : Nat} (hbody : f.body = .roceRequest q)
    (hfind : x.conns.find? (fun c => c.2.devQpn.toNat == q) = none) :
    o.rxOn f v x = o.modNet (fun n => { n with rxMismatch := bump n.rxMismatch }) := by
  simp only [State.rxOn, hfrag, hbody, hfind, Bool.false_eq_true, if_false]

/-- R244: the host may not write or read the device; only the connection of a pair carries requests to it. -/
theorem rxOn_roce_refused {q rc : Nat} {c : Conn} (hbody : f.body = .roceRequest q)
    (hfind : x.conns.find? (fun c => c.2.devQpn.toNat == q) = some (rc, c)) (hpair : x.pair.role = 0 ∨ x.pair.rc ≠ rc) :
    o.rxOn f v x = (o.modNet (fun n => { n with rdmaReject := bump n.rdmaReject })).rcSend v c (.nak v q) := by
  have hnot : ¬ (x.pair.role ≠ 0 ∧ x.pair.rc = rc) := by tauto
  simp only [State.rxOn, hfrag, hbody, hfind, if_neg hnot, Bool.false_eq_true, if_false]

end Whole
end Frame

/-- Settles O10: the VI that the frame selects takes it (`State.rxOn`), or there is none; on the VI it does what its body says. -/
theorem receivedFrame : Obligations.ReceivedFrame := by
  unfold Obligations.ReceivedFrame
  intro s g o f hgate hce
  refine ⟨fun v x hbody hsteer hx => ?steered, fun a v x hfrag hbody hfind => ?asking,
    fun hbody hsteer => exec_rxFrame_unsteered hgate hce.symm hbody hsteer⟩
  case steered =>
    rw [exec_rxFrame_steered hgate hce.symm hbody hsteer hx]
    exact ⟨fun hfrag => congrArg _ (rxOn_fragment hfrag), fun hfrag hb => congrArg _ (rxOn_echo hfrag hb),
      fun a hfrag hb => congrArg _ (rxOn_resolveReply hfrag hb), fun b hfrag hb => congrArg _ (rxOn_other hfrag hb),
      fun q hfrag hb hfind => congrArg _ (rxOn_roce_unknown hfrag hb hfind),
      fun q rc c hfrag hb hfind hpair => congrArg _ (rxOn_roce_refused hfrag hb hfind hpair)⟩
  case asking =>
    have haddr : isAddrOf x.addr a = true := by
      have hmeets := List.find?_some hfind
      simp only [Bool.and_eq_true] at hmeets
      exact hmeets.2
    rw [exec_rxFrame_asking hgate hce.symm hbody hfind, rxOn_resolveRequest hfrag hbody haddr]

end Sys2Proof.Machine
end

section
/-! PROOFS. The state after reset (R231, R247, R259, R304, R318, R349, R385, R400, R421, R422, R442, R450). -/
namespace Sys2Proof.Machine

/-- Settles O42: block by block, each value is the one that `State.reset` writes down. -/
theorem resetState : Obligations.ResetState := by
  unfold Obligations.ResetState
  refine ⟨?net, ?time, ?err, ?cal, ?mon, ?pwr, ?clk, ?sec, ?pins, ?vis⟩
  all_goals decide

end Sys2Proof.Machine
end

section
/-! PROOFS. A request from its checks to its one completion: what each journaled opcode runs, what an answer and an acceptance leave
alone, the first outcome, the window of PSNs, and the step that takes a command (R264, R266, R267, R271, R310–R313). -/
namespace Sys2Proof.Machine

/-! ### What a request that passes the checks runs (R266, R271, R312) -/

/-- R266, R274: a journaled request is taken under the opcode of its row, with the static check and the effect of its command. -/
theorem exec_journaled {r : Nat × (Packet → Instr)} (hr : r ∈ requestRows) {chk : StaticCheck} {eff : Effect}
    (hcmd : commandOf r.1 = some (chk, eff)) (p : Packet) (s : State) : exec (r.2 p) s = .next (s.takeAs r.1 p chk eff) := by
  fin_cases hr
  pick_goal 5
  · cases hcmd
  pick_goal 36
  · cases hcmd
  all_goals
    cases hcmd
    rfl

/-- Settles O44: a journaled row is `takeAs` with its command (`exec_journaled`), and what that does past the checks is said by
`take_passes`. -/
theorem requestTaken : Obligations.RequestTaken := by
  unfold Obligations.RequestTaken
  intro r hr chk eff hcmd s p v x hop hin hpass hx hq
  simp only [exec_journaled hr hcmd, ← hop, Host.Outcome.next.injEq]
  exact take_passes s p chk eff v x hin hpass hx hq

/-! ### What answering and accepting a request leave alone (R266, R267, R310, R311) -/

/-- Settles O45: answering is sending, and sending keeps all of this (`SentBy`). -/
theorem refusalLeavesNothing : Obligations.RefusalLeavesNothing := by
  unfold Obligations.RefusalLeavesNothing
  intro s v p flags st pay t
  have hsent : SentBy v s t := answer_by s v p flags st pay
  refine ⟨hsent.other, fun x hx => ?_, fun a => by rw [hsent.hbm], hsent.steps, hsent.waves, hsent.yelms⟩
  obtain ⟨y, hy, hjrnl, hqueues, haddr, -⟩ := hsent.own x hx
  exact ⟨y, hy, hjrnl, hqueues, haddr⟩

theorem place_of_arrived {s : State} {p : Packet} {v : Nat} {x : Vi} (h : (s.arrived p v).vi? v = some x) :
    s.place p v = x.jrnl.next := by
  rw [State.place, h]
  rfl

/-- Settles O46: what journaling and ACCEPTED leave is `Grown` from the state in which the request has arrived, and arriving
touches no other VI and no engine (`arrived_by`). -/
theorem acceptedRequest : Obligations.AcceptedRequest := by
  unfold Obligations.AcceptedRequest
  intro s p op v h
  obtain ⟨rfl, x, q, hx, hq, hopened⟩ := admits_out h
  obtain ⟨y, hy, grown⟩ := opened_own hopened hx
  obtain ⟨hother, hhbm, hsteps, hwaves, hyelms⟩ := arrived_by s p v (admits_pass h)
  exact ⟨x, q, y, hx, hq, hy, place_of_arrived hx, grown.next, grown.entry, grown.others, grown.win hq, grown.queues, grown.rx,
    grown.addr, fun w hw => (grown.other w hw).trans (hother w hw), fun a => by rw [grown.hbm, hhbm], grown.steps.trans hsteps,
    grown.waves.trans hwaves, grown.yelms.trans hyelms⟩

/-! ### The first outcome of an entry stands (R271, R310, R313) -/

section Outcome
variable {s : State} {v e : Nat} {n : Entry}

theorem vi?_of_entry? (h : s.entry? v e = some n) : ∃ x, s.vi? v = some x := by
  obtain ⟨x, hx, -⟩ := Option.bind_eq_some_iff.1 h
  exact ⟨x, hx⟩

/-- R313: an entry with its outcome. -/
def Entry.record (n : Entry) (st : Nat) (pay : List Byte) : Entry := { n with state := .recorded, status := st, payload := pay }

/-- R313, R354: the outcome of an open entry is recorded, and goes to the pair of its VI. -/
theorem outcome_of_open (h : s.entry? v e = some n) (hopen : n.state = .accepted ∨ n.state = .running) (st : Nat) (pay : List Byte) :
    s.outcome v e st pay =
      (s.modEntry v e (fun n => n.record st pay)).emit v none true (.outcome n.queue n.psn 3 st pay) := by
  simp only [State.outcome, h, if_pos hopen]
  rfl

theorem outcome_of_closed (h : s.entry? v e = some n) (hclosed : n.state = .recorded ∨ n.state = .sent ∨ n.state = .retired)
    (st : Nat) (pay : List Byte) : s.outcome v e st pay = s := by
  have hnot : ¬ (n.state = .accepted ∨ n.state = .running) := by
    rcases hclosed with h | h | h <;> simp [h]
  simp only [State.outcome, h, if_neg hnot]

/-- R313: of the entries of its VI, recording an outcome changes the one it is for. -/
theorem entry?_outcome (h : s.entry? v e = some n) (hopen : n.state = .accepted ∨ n.state = .running) (st : Nat) (pay : List Byte)
    (k : Nat) : (s.outcome v e st pay).entry? v k = if k = e then some (n.record st pay) else s.entry? v k := by
  obtain ⟨x, hx⟩ := vi?_of_entry? h
  have hown : (s.modEntry v e (fun n => n.record st pay)).vi? v = some (x.modEntry e (fun n => n.record st pay)) := by
    rw [State.modEntry, vi?_modVi, if_pos rfl, hx]
    rfl
  rw [outcome_of_open h hopen, entry_by (emit_by ..) k _ hown, entry?_modEntry]
  by_cases hk : k = e
  · simp [hk, h]
  · simp [hk]

end Outcome

/-- Settles O48: an open entry takes the outcome that comes first and is then recorded, where `outcome_of_closed` holds; the rest
is what a changed entry and a record sent to the pair leave. -/
theorem outcomeOnce : Obligations.OutcomeOnce := by
  unfold Obligations.OutcomeOnce
  intro s v e st pay n h t
  refine ⟨fun hopen => ?_, fun hclosed => outcome_of_closed h hclosed st pay⟩
  have hentry := entry?_outcome h hopen st pay
  have hself : t.entry? v e = some (n.record st pay) := (hentry e).trans (if_pos rfl)
  have hsent : SentBy v (s.modEntry v e (fun n => n.record st pay)) t := by
    rw [show t = _ from outcome_of_open h hopen st pay]
    exact emit_by ..
  refine ⟨hself, fun st' pay' => outcome_of_closed hself (.inl rfl) st' pay', fun k hk => (hentry k).trans (if_neg hk), fun w hw => ?_,
    fun a => by rw [hsent.hbm]; rfl, hsent.steps, hsent.waves, hsent.yelms⟩
  rw [hsent.other w hw, State.modEntry, vi?_modVi, if_neg hw]

/-! ### The window of PSNs (R267) -/

/-- R267: how far a PSN lies ahead of the highest one, modulo 2^32. -/
def psnAhead (h k : Nat) : Nat := (k + 2 ^ 32 - h) % 2 ^ 32

section Psn
variable {w : Window} {h k : Nat}

theorem psnPlace_ahead (hw : w.h = some h) (hlo : 1 ≤ psnAhead h k) (hhi : psnAhead h k ≤ 2 ^ 31 - 1) : psnPlace w k = .fresh := by
  simp only [psnPlace, hw]
  exact if_pos ⟨hlo, hhi⟩

theorem psnPlace_behind (hw : w.h = some h) (hlo : 2 ^ 31 ≤ psnAhead h k) (hhi : psnAhead h k ≤ 2 ^ 32 - 65536) :
    psnPlace w k = .behind := by
  unfold psnAhead at hlo hhi
  simp only [psnPlace, hw]
  rw [if_neg (by omega), if_neg (by omega)]

theorem psnPlace_inside (hw : w.h = some h) (hd : psnAhead h k = 0 ∨ 2 ^ 32 - 65535 ≤ psnAhead h k) :
    psnPlace w k = if k ∈ w.accepted then .duplicate else .fresh := by
  unfold psnAhead at hd
  simp only [psnPlace, hw]
  rw [if_neg (by omega), if_pos hd]
  simp only [List.contains_iff_mem]

/-- R267: a number that was accepted is one of the window, where it counts. -/
theorem psnPlace_eq_duplicate_iff (hw : w.h = some h) :
    psnPlace w k = .duplicate ↔ k ∈ w.accepted ∧ (psnAhead h k = 0 ∨ 2 ^ 32 - 65535 ≤ psnAhead h k) := by
  by_cases hin : psnAhead h k = 0 ∨ 2 ^ 32 - 65535 ≤ psnAhead h k
  · rw [psnPlace_inside hw hin, and_iff_left hin]
    simp
  · have hout : psnPlace w k ≠ .duplicate := by
      by_cases hnear : psnAhead h k ≤ 2 ^ 31 - 1
      · rw [psnPlace_ahead hw (by omega) hnear]
        nofun
      · rw [psnPlace_behind hw (by omega) (by omega)]
        nofun
    exact iff_of_false hout (fun h => hin h.2)

theorem psnMark_ahead (hw : w.h = some h) (hlo : 1 ≤ psnAhead h k) (hhi : psnAhead h k ≤ 2 ^ 31 - 1) :
    psnMark w k = ⟨some k, k :: w.accepted.filter (fun a => decide (psnAhead a k ≤ 65535))⟩ := by
  simp only [psnMark, hw]
  exact if_pos ⟨hlo, hhi⟩

theorem psnMark_inside (hw : w.h = some h) (hd : psnAhead h k = 0 ∨ 2 ^ 31 ≤ psnAhead h k) :
    psnMark w k = ⟨some h, k :: w.accepted⟩ := by
  unfold psnAhead at hd
  simp only [psnMark, hw]
  rw [if_neg (by omega)]

/-- R267: an accepted number stays one, or falls behind, so long as H moves by at most 2^31 - 65,536. -/
theorem psnPlace_psnMark_ne_fresh {j : Nat} (hw : w.h = some h) (hh : h < 2 ^ 32) (hk : k < 2 ^ 32) (hj : j < 2 ^ 32)
    (hmove : psnAhead h k ≤ 2 ^ 31 - 65536 ∨ 2 ^ 31 ≤ psnAhead h k) (hdup : psnPlace w j = .duplicate) :
    psnPlace (psnMark w k) j ≠ .fresh := by
  obtain ⟨hmem, hin⟩ := (psnPlace_eq_duplicate_iff hw).1 hdup
  by_cases hahead : 1 ≤ psnAhead h k ∧ psnAhead h k ≤ 2 ^ 31 - 65536
  · have hback : 2 ^ 31 ≤ psnAhead k j := by
      unfold psnAhead at *
      omega
    rw [psnMark_ahead hw hahead.1 (by omega)]
    by_cases hfar : psnAhead k j ≤ 2 ^ 32 - 65536
    · rw [psnPlace_behind rfl hback hfar]
      nofun
    · have hkept : psnAhead j k ≤ 65535 := by
        unfold psnAhead at *
        omega
      rw [(psnPlace_eq_duplicate_iff rfl).2 ⟨by simp [hmem, hkept], by omega⟩]
      nofun
  · rw [psnMark_inside hw (by omega), (psnPlace_eq_duplicate_iff rfl).2 ⟨List.mem_cons_of_mem _ hmem, hin⟩]
    nofun

end Psn

/-- Settles O50: by the distance from H a PSN is ahead, behind or inside the window, and marking it moves H only where it is
ahead. -/
theorem psnWindow : Obligations.PsnWindow := by
  unfold Obligations.PsnWindow
  refine ⟨fun w k hw => by rw [psnPlace, hw], ?distance, fun w k => psnPlace_psnMark_self,
    fun w h k j hw hh hk hj _ hmove hdup => psnPlace_psnMark_ne_fresh hw hh hk hj hmove hdup⟩
  case distance =>
    intro w h k hw d
    exact ⟨fun hlo hhi => ⟨psnPlace_ahead hw hlo hhi, by rw [psnMark_ahead hw hlo hhi]⟩, fun hlo hhi => psnPlace_behind hw hlo hhi,
      fun hd => ⟨psnPlace_inside hw hd, by rw [psnMark_inside hw (hd.imp_right (le_trans (by decide)))]⟩⟩

/-! ### The step that takes a command (R264, R266) -/

/-- Settles O39: the two branches of `step`, by the queue. -/
theorem stepRunsExec : Obligations.StepRunsExec := by
  unfold Obligations.StepRunsExec
  exact ⟨fun c rest s h => by rw [step, h], fun s h => by rw [step, h]⟩

end Sys2Proof.Machine
end

section
/-! PROOFS. Requests and latching reads of the time of record (R289, R300, R305, R308, R319). -/
namespace Sys2Proof.Machine

/-! ### TIME_SET (R289, R300) -/

/-- R289, R300: what a TIME_SET makes of the time block at a state whose next boundary it names. -/
def TimeBlk.choose (t : TimeBlk) (src boundary sec : Nat) : TimeBlk :=
  { t with
    srcEn := if src = 3 then t.srcEn else t.srcEn ||| 2 ^ src
    pendPref := some (src, boundary)
    ppsExpected := if src = 2 then (if sec = 0 then none else some sec) else t.ppsExpected }

/-- R300: whether a source is traced. -/
def TimeSrc.traced (r : TimeSrc) (src : Nat) : Bool := src != 3 && r.locked && decide (r.offset.natAbs ≤ 1000)

theorem effTimeSet_chooses {s : State} {c : Cmd} {src : Nat} (hsrc : leAt c.pay 0 1 = src) (hknown : src ≤ 3) :
    effTimeSet s c = (s.modTime (fun t => t.choose src s.nextBoundary (leAt c.pay 4 8)),
      some (stOk, le 1 src ++ le 1 (b2n ((srcOf s.time src).traced src)) ++ zeros 2 ++ le 8 s.nextBoundary)) := by
  simp only [effTimeSet, hsrc, if_neg hknown.not_gt]
  rfl

/-! ### BEAT_SET (R305) -/

theorem le_ceilDiv_mul (a : Nat) {b : Nat} (hb : 0 < b) : a ≤ ceilDiv a b * b := by
  rw [ceilDiv, ← Nat.ceilDiv_eq_add_pred_div, Nat.mul_comm]
  exact le_smul_ceilDiv hb

/-- R305: the period that is in force when every pending change has been made, as its power of two. -/
def State.lastBeat (s : State) : Nat := (s.time.pendBeat.getLast?.map Prod.snd).getD s.time.beatLog2

/-- R305: the stamp of the last pending change. -/
def State.lastChange (s : State) : Nat := (s.time.pendBeat.getLast?.map Prod.fst).getD 0

/-- R305: the longer of two periods is a multiple of both. -/
def commonBeat (m n : Nat) : Nat := 125000 * 2 ^ max m n

theorem commonBeat_pos (m n : Nat) : 0 < commonBeat m n := Nat.mul_pos (by decide) (Nat.two_pow_pos _)

theorem beatFrom_eq (s : State) (n : Nat) :
    beatFrom s n = max ((s.now / commonBeat s.lastBeat n + 1) * commonBeat s.lastBeat n)
      (ceilDiv s.lastChange (commonBeat s.lastBeat n) * commonBeat s.lastBeat n) := rfl

theorem now_lt_beatFrom (s : State) (n : Nat) : s.now < beatFrom s n := by
  rw [beatFrom_eq]
  refine lt_of_lt_of_le ?_ (le_max_left ..)
  rw [Nat.mul_comm]
  exact Nat.lt_mul_div_succ s.now (commonBeat_pos ..)

theorem lastChange_le_beatFrom (s : State) (n : Nat) : s.lastChange ≤ beatFrom s n := by
  rw [beatFrom_eq]
  exact (le_ceilDiv_mul _ (commonBeat_pos ..)).trans (le_max_right ..)

theorem commonBeat_dvd_beatFrom (s : State) (n : Nat) : commonBeat s.lastBeat n ∣ beatFrom s n := by
  rw [beatFrom_eq]
  exact max_rec' (commonBeat s.lastBeat n ∣ ·) (Dvd.intro_left _ rfl) (Dvd.intro_left _ rfl)

/-- R305: a boundary of the common period is one of each period. -/
theorem period_dvd_beatFrom (s : State) {k n : Nat} (hk : k ≤ max s.lastBeat n) : 125000 * 2 ^ k ∣ beatFrom s n :=
  (Nat.mul_dvd_mul_left _ (Nat.pow_dvd_pow 2 hk)).trans (commonBeat_dvd_beatFrom s n)

/-! ### The latching reads (R319, R420) -/

/-- R420: what a read or a write of a register makes stands while the block of the register has a clock. -/
theorem ite_gated {s : State} {block : Nat} (hclk : s.gated block = false) (t : State) : (if s.gated block then s else t) = t :=
  if_neg (Bool.eq_false_iff.1 hclk)

/-- Settles O5: the two requests answer at once with what their effect makes; where a new period starts is a boundary of the longer
of two periods, which is a multiple of both; a latching read acts while its block has a clock. -/
theorem timeCommands : Obligations.TimeCommands := by
  unfold Obligations.TimeCommands
  refine ⟨?timeSet, ?beatSet, fun s ts v hclk => congrArg Host.Outcome.next (ite_gated (s := s.upto ts) hclk _),
    fun s ts v hclk => congrArg Host.Outcome.next (ite_gated (s := s.upto ts) hclk _)⟩
  case timeSet =>
    intro s p v h o src r hknown
    exact congrArg Host.Outcome.next (takeAs_completes h (effTimeSet_chooses (c := s.command p v) rfl hknown))
  case beatSet =>
    intro s p v h o n
    refine ⟨congrArg Host.Outcome.next (takeAs_completes h rfl), now_lt_beatFrom o n, fun e he => ?_,
      period_dvd_beatFrom o (le_max_right ..), period_dvd_beatFrom o (le_max_left ..)⟩
    have hlast : o.lastChange = e.1 := by
      rw [State.lastChange, Option.mem_def.1 he]
      rfl
    exact hlast ▸ lastChange_le_beatFrom o n

end Sys2Proof.Machine
end

section
/-! PROOFS. Resets, the replay of a journal, and opcodes that no command has (R266, R274, R290, R291, R315, R316, R342, R343,
R427). -/
namespace Sys2Proof.Machine

theorem effReset_starts {s : State} {c : Cmd} {x : Vi} {y : Nat} (hx : s.vi? c.vi = some x)
    (hf : s.resetFinding c.vi x (leAt c.pay 0 1) (leAt c.pay 2 2) = (stOk, y)) :
    effReset s c = ((s.modEntry c.vi c.entry (fun e => { e with state := .running })).startReset (leAt c.pay 0 1) y 0
      [(c.vi, c.entry)], none) := by
  simp only [effReset, hx, hf, ne_eq, not_true_eq_false, if_false]

section ResetEnd
variable {s : State} {ts domain target : Nat} {op : ResetOp}

/-- R342, R453: what holds the end of a reset back: work of its VI, or the pins that hold the device. -/
def State.resetHeld (s : State) (domain : Nat) (op : ResetOp) : Prop :=
  (domain = 3 ∧ s.viQuiet op.target = false) ∨ (domain = 5 ∧ (s.pins.sysResetL = false ∨ s.pins.pwrOk = false))

/-- R343, R427: a reset that nothing holds back ends; where no firmware slot runs the ridge stays in the ROM loader, and the reset of
domain 4 or 5 goes on (log entry 77, DEDUCED). -/
theorem exec_resetEnd
    (hfind : s.err.resets.find? (fun r => r.domain == domain && (r.target == target || decide (4 ≤ domain))) = some op)
    (hheld : ¬ s.resetHeld domain op) :
    exec (.resetEnd ts domain target) s = .next (
      if domain < 4 then (s.upto ts).finishReset op
      else if s.sec.boot.romLoader then (s.upto ts).modSec SecBlk.boot
      else ((s.upto ts).modSec SecBlk.boot).finishReset op) := by
  have hquiet : (s.upto ts).viQuiet op.target = s.viQuiet op.target := rfl
  simp only [State.resetHeld, ← Bool.not_eq_true'] at hheld
  simp only [exec, execResetEnd, State.upto_err, hfind, hquiet, State.upto_pins, if_neg hheld]
  rfl

/-- R342: a reset of domain 0 to 3 waits for the work of its VI only. -/
theorem not_resetHeld_of_lt (hdom : domain < 4) (hquiet : domain = 3 → s.viQuiet op.target = true) : ¬ s.resetHeld domain op := by
  rintro (⟨hthree, hbusy⟩ | ⟨hfive, -⟩)
  · simp [hquiet hthree] at hbusy
  · omega

/-- R453: a reset of domain 4 or 5 waits for the pins that hold the device only. -/
theorem not_resetHeld_of_ge (hdom : 4 ≤ domain) (hpins : domain = 5 → s.pins.sysResetL = true ∧ s.pins.pwrOk = true) :
    ¬ s.resetHeld domain op := by
  rintro (⟨hthree, -⟩ | ⟨hfive, hlow⟩)
  · omega
  · simp [hpins hfive] at hlow

end ResetEnd

/-- R316: what is left to run again of the journals, when the entries up to the last of VI v have been taken up (log entry 75,
DEDUCED). -/
def State.replaysLeft (s : State) (v : Nat) (es : List (Nat × Nat)) : State :=
  { s with vis := tmapv s.vis (fun w x => x.modJrnl (fun j =>
      { j with replay := if w = v then [] else j.replay.filter (fun id => !es.contains (w, id)) })) }

theorem exec_replay {s : State} {v : Nat} {x : Vi} (hx : s.vi? v = some x) (hserve : s.serving = true)
    (hservice : s.err.outOfService = false) (hreset : s.inReset v = false) (ts : Nat) :
    exec (.replay ts v) s = .next (
      let o := (tkeys x.queues).foldl (fun s q => s.sendRecorded v q x.jrnl.entries.length) (s.upto ts)
      let es := o.replayUpto v
      (es.foldl (fun s e => s.replayOne e.1 e.2) (o.replaysLeft v es)).wake) := by
  have hserve' : (s.upto ts).serving = true := hserve
  simp only [exec, execReplay, vi?_upto, hx, hserve', State.upto_err, hservice, inReset_upto, hreset, Bool.not_true,
    Bool.false_eq_true, or_self, if_false]
  rfl

/-- R266: check 8 turns an opcode that no command has away before a static check or an effect could run. -/
theorem exec_unknownOpcode {s : State} {p : Packet} {v st : Nat} (hop : opKnown (pOpcode p) = false) (hin : s.comesIn p = true)
    (hcheck : (s.entered p).check p = .reply v st) :
    exec (.unknownOpcode p) s = .next (((s.entered p).takeTicket p).answer v p (fReply + fFinal) st []) := by
  have htaken : ∀ chk eff, s.take p chk eff = ((s.entered p).takeTicket p).answer v p (fReply + fFinal) st [] :=
    fun chk eff => ((take_fails s p chk eff).2 hin).1 v st hcheck
  have hack : pOpcode p ≠ 0x0903 := fun h => by rw [h] at hop; cases hop
  have hbell : pOpcode p ≠ 0x0105 := fun h => by rw [h] at hop; cases hop
  simp only [exec, execUnknownOpcode, hop, State.serve, hack, hbell, Bool.false_eq_true, if_false]
  cases commandOf (pOpcode p) with
  | none => exact congrArg Host.Outcome.next (htaken ..)
  | some r => exact congrArg Host.Outcome.next (htaken r.1 r.2)

/-- Settles O27: a RESET without findings starts its reset, the end of one finishes it where nothing holds it back, a replay goes on
past its guards, and an unknown opcode is answered as the checks answer it. -/
theorem resetCommands : Obligations.ResetCommands := by
  unfold Obligations.ResetCommands
  refine ⟨?reset, ?resetEnd, fun s ts v x hx hserve hservice hreset => exec_replay hx hserve hservice hreset ts,
    fun s p v st hop hin hcheck => exec_unknownOpcode hop hin hcheck⟩
  case reset =>
    intro s p v y x h o hx hf
    exact congrArg Host.Outcome.next (takeAs_later h rfl (effReset_starts (c := s.command p v) hx hf))
  case resetEnd =>
    intro s ts domain target op hfind
    refine ⟨fun hdom hquiet => ?_, fun hdom hpins hrun => ?_, fun hdom hpins hrom => ?_⟩
    · rw [exec_resetEnd hfind (not_resetHeld_of_lt hdom hquiet), if_pos hdom]
    · rw [exec_resetEnd hfind (not_resetHeld_of_ge hdom hpins), if_neg hdom.not_gt, hrun]
      rfl
    · rw [exec_resetEnd hfind (not_resetHeld_of_ge hdom hpins), if_neg hdom.not_gt, hrom]
      rfl

end Sys2Proof.Machine
end

section
/-! PROOFS. Caps, thermal levels, power states and what the governor and the sensors sample (R294, R402–R406, R412–R415). -/
namespace Sys2Proof.Machine

/-! ### PWR_CAP_SET (R294, R405) -/

/-- R405: the state in which a cap has been asked for from a boundary on. -/
def State.askCap (s : State) (w boundary : Nat) : State :=
  s.modPwr (fun b => { b with capReq := w, capFrom := boundary, pendCap := some (boundary, w) })

/-- R405: every open VI is told of a cap that is lower. -/
def State.tellCap (s : State) (w boundary : Nat) : State :=
  (s.noticeAll 0x0D81 (le 2 w ++ zeros 2 ++ le 4 s.pwr.power.toNat ++ le 8 boundary)).modPwr (fun b =>
    { b with notices := satAdd b.notices s.openVis.length })

section Effects
variable {s : State} {c : Cmd} {w : Nat}

theorem effPwrCapSet_not_lower (hw : clampCap (leAt c.pay 0 2) = w) (hcap : s.pwr.capEnf ≤ w) :
    effPwrCapSet s c = (s.askCap w s.nextBoundary, some (stOk, le 2 w ++ zeros 2 ++ le 8 s.nextBoundary)) := by
  simp only [effPwrCapSet, hw, hcap.not_gt, decide_false, Bool.false_eq_true, if_false]
  rfl

theorem effPwrCapSet_lower (hw : clampCap (leAt c.pay 0 2) = w) (hcap : w < s.pwr.capEnf) :
    effPwrCapSet s c =
      let f := s.boundaryAt (c.ts + s.pwr.graceMs * 1000000)
      ((s.askCap w f).tellCap w f, some (stOk, le 2 w ++ zeros 2 ++ le 8 f)) := by
  simp only [effPwrCapSet, hw, hcap, decide_true, if_true]
  rfl

/-! ### PWR_STATE_SET (R294, R402, R403) -/

theorem effPwrStateSet_run (hst : leAt c.pay 0 1 = 0) :
    effPwrStateSet s c = (s, some (stOk, le 1 (leAt c.pay 0 1) ++ zeros 3 ++ le 8 s.now)) := by
  simp only [effPwrStateSet, hst, if_true]

/-- R403: Doze and Deep are answered when they are entered; the request last made decides which, and all are answered (log entry 59,
DEDUCED). -/
theorem effPwrStateSet_sleep (hst : leAt c.pay 0 1 = 2 ∨ leAt c.pay 0 1 = 3) :
    effPwrStateSet s c = (s.modPwr (fun b => { b with
      want := some (leAt c.pay 0 1, ((b.want.map Prod.snd).getD []).filter (· != c.entry) ++ [c.entry]) }), none) := by
  have hne : leAt c.pay 0 1 ≠ 0 := by omega
  have hsleep : ¬ (leAt c.pay 0 1 ≠ 2 ∧ leAt c.pay 0 1 ≠ 3) := by omega
  simp only [effPwrStateSet, if_neg hne, if_neg hsleep]

end Effects

/-! ### What the governor and a temperature sensor sample (R404, R406, R412–R415) -/

theorem exec_governorTick {s : State} (hawake : s.pwr.state ≤ 1) (hmain : s.pins.mainUp = true) (ts : Nat) (rails : List RailSample) :
    exec (.governorTick ts rails) s = .next (((s.upto ts).powerSample rails).modPwr (govern (s.upto ts).now)) := by
  simp only [exec, execGovernorTick, State.upto_pwr, State.upto_pins, hawake.not_gt, hmain, Bool.not_true, Bool.false_eq_true, or_self,
    if_false]

/-- R412, R415: the state in which a die has been sampled; hot counts its samples in succession at the shutdown level. -/
def State.sampleDie (s : State) (die : Nat) (temp : Int) (hot : Nat) : State :=
  s.modPwr (fun b => { b with dies := tset b.dies die { tgetD b.dies die .cold with temp := temp, hot := hot } })

theorem exec_thermalSample {s : State} {die hot : Nat} {temp : Int} (hawake : s.pwr.state ≤ 1) (hmain : s.pins.mainUp = true)
    (hdie : die < Config.dieCount)
    (hhot : (if (1000 * s.pwr.shutdownC : Int) ≤ temp then (tgetD s.pwr.dies die .cold).hot + 1 else 0) = hot) (ts : Nat) :
    exec (.thermalSample ts die temp) s = .next (
      let o := (s.upto ts).sampleDie die temp hot
      if 2 ≤ hot then o.shutdown die (sixteenths temp) else ((o.warnSample die temp).throttleSample die temp).syncPins) := by
  have htrips : hot = if trips temp s.pwr.shutdownC = true then (tgetD s.pwr.dies die .cold).hot + 1 else 0 := by
    simp only [← hhot, trips, decide_eq_true_eq]
  have hsenses : ¬ (1 < s.pwr.state ∨ (!s.pins.mainUp) = true ∨ Config.dieCount ≤ die) := by
    simp [hawake.not_gt, hmain, hdie.not_ge]
  rw [htrips]
  exact congrArg Host.Outcome.next (if_neg hsenses)

/-! ### Power states are entered and left (R398, R399, R403) -/

/-- R403: the state in which Doze or Deep is in force. -/
def State.enterSleep (s : State) (st : Nat) : State :=
  ((if st = 3 then s.enterDeep else s.enterDoze).modPwr (fun b => { b with
    trippedPrev := if st = 3 then false else b.trippedPrev, wakePend := none })).syncPins

/-- R398, R403: a source that fired before the state was entered wakes the device from it. -/
theorem exec_powerStateEntry {s : State} {st : Nat} {es : List Nat} (hwant : s.pwr.want = some (st, es)) (hawake : s.pwr.state ≤ 1)
    (hdrained : s.drained = true) (ts : Nat) :
    exec (.powerStateEntry ts) s = .next (
      let o := es.foldl (fun s e => s.replyEntry st e) (s.upto ts).checkpoint
      (o.pwr.wakePend.map (fun c => (o.enterSleep st).wakeBy c)).getD (o.enterSleep st)) := by
  have hdrained' : (s.upto ts).drained = true := hdrained
  simp only [exec, execPowerStateEntry, State.upto_pwr, hwant, hawake.not_gt, hdrained', Bool.not_true, Bool.false_eq_true, or_self,
    if_false]
  cases (es.foldl (fun s e => s.replyEntry st e) (s.upto ts).checkpoint).pwr.wakePend <;> rfl

section Exit
variable {s : State}

theorem exec_powerStateExit_doze (hwaking : s.pwr.waking = true) (hdoze : s.pwr.state = 2) (ts : Nat) :
    exec (.powerStateExit ts) s = .next (((s.upto ts).backInRun.deliverHeld).wake) := by
  simp only [exec, execPowerStateExit, State.upto_pwr, hwaking, hdoze, Bool.not_true, Bool.false_eq_true, if_false, if_true]

theorem exec_powerStateExit_deep (hwaking : s.pwr.waking = true) (hdeep : s.pwr.state = 3) (hpwr : s.pins.pwrOk = true)
    (hrelease : s.pins.sysResetL = true) (ts : Nat) :
    exec (.powerStateExit ts) s = .next (((((s.upto ts).modSec SecBlk.boot).restoreMac).backInRun).deliverHeld) := by
  simp only [exec, execPowerStateExit, State.upto_pwr, State.upto_pins, hwaking, hdeep, hpwr, hrelease, Bool.not_true,
    Bool.false_eq_true, Nat.reduceEqDiff, and_self, if_false, if_true]

end Exit

/-- Settles O29: each request answers, or waits, as its effect says; each event goes on past its guards, which its hypotheses
meet. -/
theorem powerCommands : Obligations.PowerCommands := by
  unfold Obligations.PowerCommands
  refine ⟨?capSet, fun s p v h => congrArg Host.Outcome.next (takeAs_completes h rfl), ?stateSet,
    fun s ts rails hawake hmain => exec_governorTick hawake hmain ts rails,
    fun s ts die temp hawake hmain hdie => exec_thermalSample hawake hmain hdie rfl ts,
    fun s ts st es hwant hawake hdrained => exec_powerStateEntry hwant hawake hdrained ts,
    fun s ts hwaking => ⟨fun hdoze => exec_powerStateExit_doze hwaking hdoze ts,
      fun hdeep hpwr hrelease => exec_powerStateExit_deep hwaking hdeep hpwr hrelease ts⟩⟩
  case capSet =>
    intro s p v h o w r
    exact ⟨fun hcap => congrArg Host.Outcome.next (takeAs_completes h (effPwrCapSet_not_lower (c := s.command p v) rfl hcap)),
      fun hcap => congrArg Host.Outcome.next (takeAs_completes h (effPwrCapSet_lower (c := s.command p v) rfl hcap))⟩
  case stateSet =>
    intro s p v h o st
    exact ⟨fun hrun => congrArg Host.Outcome.next (takeAs_completes h (effPwrStateSet_run (c := s.command p v) hrun)),
      fun hsleep => congrArg Host.Outcome.next (takeAs_later h rfl (effPwrStateSet_sleep (c := s.command p v) hsleep))⟩

end Sys2Proof.Machine
end

section
/-! PROOFS. Attestation, MACsec keys, firmware updates and the registers of security (R293, R429–R431, R435–R439, R442). -/
namespace Sys2Proof.Machine

/-! ### Attestation (R293, R435–R437) -/

/-- R436: the state in which a report has joined the open batch, which begins with its first report. -/
def State.joinBatch (s : State) (c : Cmd) (body : List Byte) : State :=
  (s.modEntry c.vi c.entry (fun e => { e with state := .running })).modSec (fun k => { k with
    batch := k.batch ++ [(c.vi, c.entry, body)], batchStart := some (k.batchStart.getD c.ts) })

section Attestation
variable {s : State} {c : Cmd} {x : Vi} {body : List Byte}

theorem effAttestGet_unsigned (hx : s.vi? c.vi = some x) (hbody : s.reportBody c.vi x (bytesAt c.pay 0 32) = body)
    (hfail : s.sec.pufFail = true) : effAttestGet s c = (s, some (stOk, body ++ zeros 3908)) := by
  simp only [effAttestGet, hx, hbody, hfail, if_true]

theorem effAttestGet_joins (hx : s.vi? c.vi = some x) (hbody : s.reportBody c.vi x (bytesAt c.pay 0 32) = body)
    (hfail : s.sec.pufFail = false) :
    effAttestGet s c =
      (if 256 ≤ (s.joinBatch c body).sec.batch.length then (s.joinBatch c body).closeBatch else s.joinBatch c body, none) := by
  simp only [effAttestGet, hx, hbody, hfail, Bool.false_eq_true, if_false, State.joinBatch, State.modSec]
  cases hstart : (s.modEntry c.vi c.entry (fun e => { e with state := .running })).sec.batchStart <;> rfl

theorem exec_attestBatchClose {t ts : Nat} (hstart : s.sec.batchStart = some t)
    (hdue : t + s.sec.batchS * 1000000000 ≤ (s.upto ts).now) : exec (.attestBatchClose ts) s = .next (s.upto ts).closeBatch := by
  have hopen : (s.upto ts).sec.batchStart = some t := hstart
  rw [exec, execAttestBatchClose, hopen]
  exact congrArg Host.Outcome.next (if_neg hdue.not_gt)

theorem exec_lmsTreeDerived (hwork : s.sec.treeWork = true) (ts : Nat) :
    exec (.lmsTreeDerived ts) s = .next (s.sec.waitingBatches.foldl (fun s b => s.signBatch b.1 b.2)
      ((s.upto ts).modSec (fun k => { k with
        treeWork := false, lmsTree := k.lmsTree + 1, lmsLeft := Config.lmsLeaves, waitingBatches := [] }))) := by
  simp only [exec, execLmsTreeDerived, State.upto_sec, hwork, Bool.not_true, Bool.false_eq_true, if_false]

end Attestation

/-! ### MACSEC_KEY (R293, R438) -/

/-- R438: what a MACSEC_KEY makes of the associations of its port: a key of zeros deletes one, a transmit key waits for the reply
to leave. -/
def MacSec.rekey (m : MacSec) (pay : List Byte) : MacSec :=
  let dir := leAt pay 1 1
  let ch := leAt pay 2 1
  let an := leAt pay 3 1
  if (bytesAt pay 36 32).all (· == 0) = true then m.delete dir ch an
  else if dir = 0 then m
  else { m with rx := tset m.rx ch ((tgetD m.rx ch []).filter (fun a => a.an != an) ++ [macAssoc pay]) }

theorem effMacsecKey_rekeys {s : State} {c : Cmd} {lp : Nat} (hlp : leAt c.pay 0 1 = lp) (hport : s.portExists lp = true)
    (hdir : leAt c.pay 1 1 ≤ 1) (han : leAt c.pay 3 1 ≤ 3) (hch : leAt c.pay 1 1 = 1 → leAt c.pay 2 1 ≤ 7) :
    effMacsecKey s c = (s.modSec (fun b => { b with ms := b.ms.set lp ((lget s.sec.ms lp .off).rekey c.pay) }),
      some (stOk, bytesAt c.pay 0 4 ++ zeros 4)) := by
  have hfits : ¬ ((!s.portExists lp) = true ∨ 1 < leAt c.pay 1 1 ∨ 3 < leAt c.pay 3 1 ∨ leAt c.pay 1 1 = 1 ∧ 7 < leAt c.pay 2 1) := by
    rintro (hnone | hwide | hwide | ⟨hone, hwide⟩)
    · simp [hport] at hnone
    · exact hwide.not_ge hdir
    · exact hwide.not_ge han
    · exact hwide.not_ge (hch hone)
  simp only [effMacsecKey, hlp, if_neg hfits]
  rfl

/-! ### FW_UPDATE and FW_SLOT_WRITTEN (R293, R429–R431) -/

theorem effFwUpdate_reads {s : State} {c : Cmd} {x : Vi} {r : Region} (hx : s.vi? c.vi = some x)
    (hregion : tget x.regions (leAt c.pay 0 4) = some r)
    (halone : x.jrnl.entries.any (fun e => e.2.opcode == 0x0C03 && e.2.state == .running && e.1 != c.entry) = false)
    (hconn : s.connOk c.vi r.rc = true) :
    effFwUpdate s c = ((s.modEntry c.vi c.entry (fun e => { e with state := .running })).rdma c.vi r.rc (.command c.entry) false
      (r.addr + leAt c.pay 8 8) (leAt c.pay 16 8) c.queue [], none) := by
  simp only [effFwUpdate, hx, halone, hregion, hconn, Bool.not_true, Bool.false_eq_true, if_false]

/-- R429, R430: the state in which a slot that has been written is preferred, and on trial. -/
def State.stageSlot (s : State) (w : Nat) (n : Slot) : State :=
  s.modSec (fun b => { b with slots := b.slots.set w n, preferred := w, trialCount := 0, staged := true, trial := true })

section Slot
variable {s : State} {w e : Nat} {bs : List Byte}

theorem exec_fwSlotWritten_verified (hpackage : s.sec.fwPackage = some (w, e, bs)) (ts : Nat) :
    exec (.fwSlotWritten ts true) s = .next (
      let o := (s.upto ts).modSec (fun b => { b with fwPackage := none })
      let n := slotOf bs
      ((o.stageSlot w n).outcome 0 e stOk (le 1 n.major ++ le 1 n.minor ++ le 2 n.build)).fwNext) := by
  simp only [exec, execFwSlotWritten, State.upto_sec, hpackage, Bool.not_true, Bool.false_eq_true, if_false]
  rfl

/-- R429: a package that does not verify leaves the slots as they were (log entry 62, DEDUCED). -/
theorem exec_fwSlotWritten_rejected (hpackage : s.sec.fwPackage = some (w, e, bs)) (ts : Nat) :
    exec (.fwSlotWritten ts false) s =
      .next ((((s.upto ts).modSec (fun b => { b with fwPackage := none })).outcome 0 e stNoObject (zeros 4)).fwNext) := by
  simp only [exec, execFwSlotWritten, State.upto_sec, hpackage, Bool.not_false, if_true]

end Slot

/-! ### Registers that VI 0 writes while block 10 has a clock (R420, R430, R431, R439, R442) -/

theorem svnCommit_of_set {val : Nat} (hbit : bitOf val 0 = true) (s : State) :
    s.svnCommit 0 val = s.modSec (fun b =>
      { b with trial := false, trialCount := 0, minSvn := max b.minSvn (b.slot b.bootSlot).svn }) := by
  simp [State.svnCommit, hbit]

theorem opkeyCommit_of_set {val : Nat} (hbit : bitOf val 0 = true) (s : State) :
    s.opkeyCommit 0 val = s.modSec (fun b => { b with
      opDigest := b.opDigest.set b.opSel b.opWrite, opValid := b.opValid ||| 2 ^ b.opSel, opDirty := false }) := by
  simp [State.opkeyCommit, hbit]

/-- R431: the state in which operator key k has been revoked: the packs that it signed are gone. -/
def State.revokeKey (s : State) (k : Nat) : State :=
  (s.modSec (fun b => { b with
    opDigest := b.opDigest.set k (zeros 48), opValid := if bitOf b.opValid k then b.opValid - 2 ^ k else b.opValid,
    opDirty := false })).modErr (fun b => { b with packs := b.packs.filter (fun p => p.2.signer != k) })

theorem opkeyRevoke_of_set {val : Nat} (hbit : bitOf val 1 = true) (s : State) : s.opkeyRevoke 0 val = s.revokeKey s.sec.opSel := by
  simp [State.opkeyRevoke, State.revokeKey, hbit]

theorem msOff_of_set {val : Nat} (hbit : bitOf val 0 = true) (s : State) : s.msOff 0 val = s.macClear s.sec.msSel := by
  simp [State.msOff, hbit]

/-- Settles O35: each request and each event goes on past its guards, which its hypotheses meet, to its own effect; a register is
written where its block has a clock. -/
theorem securityCommands : Obligations.SecurityCommands := by
  unfold Obligations.SecurityCommands
  refine ⟨?attestGet, fun s ts t hstart hdue => exec_attestBatchClose hstart hdue, fun s ts hwork => exec_lmsTreeDerived hwork ts,
    ?macsecKey, ?fwUpdate,
    fun s ts w e bs hpackage => ⟨exec_fwSlotWritten_verified hpackage ts, exec_fwSlotWritten_rejected hpackage ts⟩, ?registers⟩
  case attestGet =>
    intro s p v x h o body o' hx
    exact ⟨fun hfail => congrArg Host.Outcome.next (takeAs_completes h (effAttestGet_unsigned (c := s.command p v) hx rfl hfail)),
      fun hfail => congrArg Host.Outcome.next (takeAs_later h rfl (effAttestGet_joins (c := s.command p v) hx rfl hfail))⟩
  case macsecKey =>
    intro s p v h o lp dir ch an m m' hport hdir han hch
    exact congrArg Host.Outcome.next (takeAs_completes h (effMacsecKey_rekeys (c := s.command p v) rfl hport hdir han hch))
  case fwUpdate =>
    intro s p v x r h hchk o hx hregion halone hconn
    exact congrArg Host.Outcome.next (takeAs_later h hchk (effFwUpdate_reads (c := s.command p v) hx hregion halone hconn))
  case registers =>
    intro s ts value hclk o
    have hwrite : ∀ t : State, (if o.gated 10 then o else t) = t := ite_gated hclk
    exact ⟨fun hbit => congrArg Host.Outcome.next ((hwrite _).trans (svnCommit_of_set hbit o)),
      fun hbit => congrArg Host.Outcome.next ((hwrite _).trans (opkeyCommit_of_set hbit o)),
      fun hbit => congrArg Host.Outcome.next ((hwrite _).trans (opkeyRevoke_of_set hbit o)),
      fun hbit => congrArg Host.Outcome.next ((hwrite _).trans (msOff_of_set hbit o))⟩

end Sys2Proof.Machine
end

section
/-! PROOFS. Requests about a pair (R292, R352, R363, R364, R366, R368). -/
namespace Sys2Proof.Machine

section Effects
variable {s : State} {c : Cmd} {t : Nat} {x : Vi}

/-! ### PAIR_JOIN (R292, R352) -/

/-- R352: the state in which VI t has begun to join under an admitted request. -/
def State.beginJoin (s : State) (c : Cmd) (t role rc : Nat) : State :=
  (s.modEntry c.vi c.entry (fun e => { e with state := .running })).modPair t (fun p => { p.ended with
    role := role + 1, state := 1, leaseMs := leaseOf (leAt c.pay 6 2), peerVi := leAt c.pay 8 2, rc := rc, former := none
    joinEntry := some (c.vi, c.entry), joinStart := s.now, checking := decide (role = 0) })

/-- R352: a home checks its peer. -/
theorem effPairJoin_begins {role rc : Nat} (hrole : leAt c.pay 2 1 = role) (hrc : leAt c.pay 4 2 = rc)
    (htarget : pairTarget s c = some (t, x)) (hconn : thas x.conns rc = true) (hknown : role ≤ 1) (hpeer : leAt c.pay 8 2 ≤ 255)
    (hok : s.joinOk x role = true) :
    effPairJoin s c = (if role = 0 then (s.beginJoin c t role rc).rdma t rc .pairCheck false 0 64 0 []
      else s.beginJoin c t role rc, none) := by
  simp only [effPairJoin, hrole, hrc, htarget, hconn, hknown.not_gt, hpeer.not_gt, hok, Bool.not_true, Bool.false_eq_true, or_self,
    if_false]
  rfl

/-! ### PAIR_LEAVE (R292, R368) -/

/-- R368: the peer is told while the connection carries traffic, and the pair ends. -/
theorem effPairLeave_ends (htarget : pairTarget s c = some (t, x)) (hpaired : x.pair.role ≠ 0) (hstate : x.pair.state < 5) :
    effPairLeave s c = ((if s.pairUp x then s.pairSend t x.pair.rc .leave else s).unpair t x,
      some (stOk, bytesAt c.pay 0 2 ++ zeros 2)) := by
  simp only [effPairLeave, htarget, hpaired, hstate.not_ge, if_false]

/-! ### PAIR_TAKEOVER (R292, R364) -/

/-- R364: the state in which mirror t has begun to take over. -/
def State.beginTakeover (s : State) (c : Cmd) (t : Nat) (up : Bool) : State :=
  (s.modEntry c.vi c.entry (fun e => { e with state := .running })).modPair t (fun p => { p with
    state := 6, takeEntry := some (c.vi, c.entry), takeStart := s.now, awaiting := up, group := [] })

/-- R364: the home is asked to step down where it can be reached. -/
theorem effPairTakeover_begins (htarget : pairTarget s c = some (t, x)) (hmirror : x.pair.role = 2) (hpaired : x.pair.state = 2)
    (hsame : x.digestDiff = false) :
    effPairTakeover s c = (if s.pairUp x then (s.beginTakeover c t (s.pairUp x)).pairSend t x.pair.rc .depose
      else (s.beginTakeover c t (s.pairUp x)).takeover t, none) := by
  simp only [effPairTakeover, htarget, hmirror, hpaired, hsame, ne_eq, not_true_eq_false, Bool.false_eq_true, or_self, if_false]
  rfl

/-! ### PAIR_UNMIRRORED (R292, R363) -/

/-- R363: the state in which home t runs without its mirror: a join under way fails, and the peer is to be told. -/
def State.unmirror (s : State) (t : Nat) : State :=
  (s.joinFails t).modPair t (fun p => { p with
    state := 4, sending := false, checking := false, rejoin := false, snapDue := false, unacked := []
    unmirrored := (s.joinFails t).now, leaseEnd := 0, leaveDue := true })

/-- R363: what the pair holds is let go. -/
theorem effPairUnmirrored_on (htarget : pairTarget s c = some (t, x)) (hhome : x.pair.role = 1) (hstate : x.pair.state ≠ 5)
    (hon : leAt c.pay 2 1 ≠ 0) (hpaired : x.pair.state ≠ 4) :
    effPairUnmirrored s c =
      ((if (s.unmirror t).pairUp x then (s.unmirror t).pairReturns t x.pair.rc else s.unmirror t).releaseAll t,
        some (stOk, bytesAt c.pay 0 3 ++ zeros 1)) := by
  simp only [effPairUnmirrored, htarget, hhome, hstate, hon, hpaired, ne_eq, not_false_eq_true, one_ne_zero, Nat.reduceEqDiff,
    or_self, if_false, if_true]
  rfl

/-- R363: the state in which home t has begun to join its mirror again. -/
def State.rejoin (s : State) (t : Nat) : State :=
  s.modPair t (fun p => { p with state := 1, checking := true, rejoin := true, leaveDue := false, joinStart := s.now })

/-- R363: a home that runs without its mirror joins it again, from the check of the peer on. -/
theorem effPairUnmirrored_off (htarget : pairTarget s c = some (t, x)) (hhome : x.pair.role = 1) (hoff : leAt c.pay 2 1 = 0)
    (halone : x.pair.state = 4) (hup : s.pairUp x = true) :
    effPairUnmirrored s c = ((s.rejoin t).rdma t x.pair.rc .pairCheck false 0 64 0 [],
      some (stOk, bytesAt c.pay 0 3 ++ zeros 1)) := by
  simp only [effPairUnmirrored, htarget, hhome, hoff, halone, hup, ne_eq, not_true_eq_false, one_ne_zero, Nat.reduceEqDiff,
    Bool.not_true, Bool.false_eq_true, or_self, if_false]
  rfl

end Effects

/-- Settles O36: each request goes on past its guards, which its hypotheses meet, to its own effect. -/
theorem pairCommands : Obligations.PairCommands := by
  unfold Obligations.PairCommands
  refine ⟨?join, ?leave, ?takeover, ?unmirrored⟩
  case join =>
    intro s p v t x h o role rc n o' htarget hconn hknown hpeer hok
    exact congrArg Host.Outcome.next (takeAs_later h rfl
      (effPairJoin_begins (c := s.command p v) rfl rfl htarget hconn hknown hpeer hok))
  case leave =>
    intro s p v t x h o o' htarget hpaired hstate
    exact congrArg Host.Outcome.next (takeAs_completes h (effPairLeave_ends (c := s.command p v) htarget hpaired hstate))
  case takeover =>
    intro s p v t x h o o' htarget hmirror hpaired hsame
    exact congrArg Host.Outcome.next (takeAs_later h rfl
      (effPairTakeover_begins (c := s.command p v) htarget hmirror hpaired hsame))
  case unmirrored =>
    intro s p v t x h o rep htarget hhome hstate
    exact ⟨fun hon hpaired => congrArg Host.Outcome.next (takeAs_completes h
        (effPairUnmirrored_on (c := s.command p v) htarget hhome hstate hon hpaired)),
      fun hoff halone hup => congrArg Host.Outcome.next (takeAs_completes h
        (effPairUnmirrored_off (c := s.command p v) htarget hhome hoff halone hup))⟩

end Sys2Proof.Machine
end

section
/-! PROOFS. What every step keeps, from the state after reset on (R266, R302, R430; log entry 9). -/
namespace Sys2Proof.Machine

/-- The law of each command, under the dispatch. -/
theorem exec_keeps {q : List Instr} {n m : Nat} {s : State} (h : Keeps q n m s) (i : Instr) :
    ∃ t, exec i s = .next t ∧ Keeps q n m t := by
  cases i with
  | viCreate p => exact execViCreate_keeps h p
  | viClose p => exact execViClose_keeps h p
  | qCreate p => exact execQCreate_keeps h p
  | qDestroy p => exact execQDestroy_keeps h p
  | qDoorbell p => exact execQDoorbell_keeps h p
  | rcCreate p => exact execRcCreate_keeps h p
  | rcDestroy p => exact execRcDestroy_keeps h p
  | regionAdd p => exact execRegionAdd_keeps h p
  | regionRemove p => exact execRegionRemove_keeps h p
  | yelmAlloc p => exact execYelmAlloc_keeps h p
  | partRead p => exact execPartRead_keeps h p
  | imgLoad p => exact execImgLoad_keeps h p
  | imgSwap p => exact execImgSwap_keeps h p
  | imgErase p => exact execImgErase_keeps h p
  | imgRefresh p => exact execImgRefresh_keeps h p
  | seqOpen p => exact execSeqOpen_keeps h p
  | seqStep p => exact execSeqStep_keeps h p
  | seqFork p => exact execSeqFork_keeps h p
  | seqClose p => exact execSeqClose_keeps h p
  | seqQuery p => exact execSeqQuery_keeps h p
  | kvPin p => exact execKvPin_keeps h p
  | kvEvict p => exact execKvEvict_keeps h p
  | kvPrefetch p => exact execKvPrefetch_keeps h p
  | adpSetCreate p => exact execAdpSetCreate_keeps h p
  | adpSetXfer p => exact execAdpSetXfer_keeps h p
  | adpSetClose p => exact execAdpSetClose_keeps h p
  | adpFwdSave p => exact execAdpFwdSave_keeps h p
  | adpBwd p => exact execAdpBwd_keeps h p
  | adpUpdate p => exact execAdpUpdate_keeps h p
  | tileRead p => exact execTileRead_keeps h p
  | tileWrite p => exact execTileWrite_keeps h p
  | recipeSet p => exact execRecipeSet_keeps h p
  | calRun p => exact execCalRun_keeps h p
  | calTableRead p => exact execCalTableRead_keeps h p
  | timeSet p => exact execTimeSet_keeps h p
  | beatSet p => exact execBeatSet_keeps h p
  | jrnlAck p => exact execJrnlAck_keeps h p
  | testPackLoad p => exact execTestPackLoad_keeps h p
  | testPackRun p => exact execTestPackRun_keeps h p
  | errDrain p => exact execErrDrain_keeps h p
  | cperExport p => exact execCperExport_keeps h p
  | reset p => exact execReset_keeps h p
  | pairJoin p => exact execPairJoin_keeps h p
  | pairLeave p => exact execPairLeave_keeps h p
  | pairTakeover p => exact execPairTakeover_keeps h p
  | pairUnmirrored p => exact execPairUnmirrored_keeps h p
  | attestGet p => exact execAttestGet_keeps h p
  | macsecKey p => exact execMacsecKey_keeps h p
  | fwUpdate p => exact execFwUpdate_keeps h p
  | pwrCapSet p => exact execPwrCapSet_keeps h p
  | thermSet p => exact execThermSet_keeps h p
  | pwrStateSet p => exact execPwrStateSet_keeps h p
  | regRead p => exact execRegRead_keeps h p
  | regWrite p => exact execRegWrite_keeps h p
  | diagEcho p => exact execDiagEcho_keeps h p
  | cntClear ts vi yelm value => exact execCntClear_keeps h ts vi yelm value
  | clrUnit ts vi value => exact execClrUnit_keeps h ts vi value
  | clrAll ts vi value => exact execClrAll_keeps h ts vi value
  | flagWindowWrite ts vi value => exact execFlagWindowWrite_keeps h ts vi value
  | portModeWrite ts vi port value => exact execPortModeWrite_keeps h ts vi port value
  | calReq ts vi value => exact execCalReq_keeps h ts vi value
  | seqCfgWrite ts vi entry value => exact execSeqCfgWrite_keeps h ts vi entry value
  | wakeAtHiWrite ts vi value => exact execWakeAtHiWrite_keeps h ts vi value
  | svnCommit ts vi value => exact execSvnCommit_keeps h ts vi value
  | opkeyCommit ts vi value => exact execOpkeyCommit_keeps h ts vi value
  | opkeyRevoke ts vi value => exact execOpkeyRevoke_keeps h ts vi value
  | msOff ts vi value => exact execMsOff_keeps h ts vi value
  | stampLoRead ts vi => exact execStampLoRead_keeps h ts vi
  | beatNumLoRead ts vi => exact execBeatNumLoRead_keeps h ts vi
  | energyMjLoRead ts vi => exact execEnergyMjLoRead_keeps h ts vi
  | txPnLoRead ts vi => exact execTxPnLoRead_keeps h ts vi
  | idRead r => exact execIdRead_keeps h r
  | statusRead r => exact execStatusRead_keeps h r
  | regReadSb r => exact execRegReadSb_keeps h r
  | vi0AddrWrite r => exact execVi0AddrWrite_keeps h r
  | vi0AddrRead r => exact execVi0AddrRead_keeps h r
  | wake r => exact execWake_keeps h r
  | serviceRestore r => exact execServiceRestore_keeps h r
  | fwRecoverBegin r => exact execFwRecoverBegin_keeps h r
  | fwRecoverData r => exact execFwRecoverData_keeps h r
  | fwRecoverEnd r => exact execFwRecoverEnd_keeps h r
  | testPortInstruction ts code => exact execTestPortInstruction_keeps h ts code
  | rxFrame f => exact execRxFrame_keeps h f
  | pfcFrame ts lp prio xoff => exact execPfcFrame_keeps h ts lp prio xoff
  | cnp ts vi rc => exact execCnp_keeps h ts vi rc
  | ccRateIncrease ts vi rc => exact execCcRateIncrease_keeps h ts vi rc
  | pfcWatchdog ts lp prio => exact execPfcWatchdog_keeps h ts lp prio
  | neighbourExpiry ts addr => exact execNeighbourExpiry_keeps h ts addr
  | rdmaResponse ts vi rc r => exact execRdmaResponse_keeps h ts vi rc r
  | pullFetchResponse ts vi queue lport slots => exact execPullFetchResponse_keeps h ts vi queue lport slots
  | rcAckTimeout ts vi rc => exact execRcAckTimeout_keeps h ts vi rc
  | transferTimeout ts vi rc => exact execTransferTimeout_keeps h ts vi rc
  | linkDown ts lp => exact execLinkDown_keeps h ts lp
  | linkUp ts lp => exact execLinkUp_keeps h ts lp
  | wakePacket f => exact execWakePacket_keeps h f
  | stepAdmit ts => exact execStepAdmit_keeps h ts
  | waveClose ts vi proj => exact execWaveClose_keeps h ts vi proj
  | bandReadStart ts yelm array d1 d2 crcOk => exact execBandReadStart_keeps h ts yelm array d1 d2 crcOk
  | tritCycle ts yelm => exact execTritCycle_keeps h ts yelm
  | bandReadEnd ts yelm array => exact execBandReadEnd_keeps h ts yelm array
  | chainHopReceive ts wave slot yelm channel => exact execChainHopReceive_keeps h ts wave slot yelm channel
  | layerOperationEnd ts wave slot => exact execLayerOperationEnd_keeps h ts wave slot
  | transposeRead ts yelm array step tok => exact execTransposeRead_keeps h ts yelm array step tok
  | embed ts step tok => exact execEmbed_keeps h ts step tok
  | norm ts step tok => exact execNorm_keeps h ts step tok
  | attn ts step tok => exact execAttn_keeps h ts step tok
  | act ts step tok => exact execAct_keeps h ts step tok
  | resid ts step tok => exact execResid_keeps h ts step tok
  | route ts step tok => exact execRoute_keeps h ts step tok
  | experts ts step tok => exact execExperts_keeps h ts step tok
  | head ts step tok => exact execHead_keeps h ts step tok
  | stepCommit ts step => exact execStepCommit_keeps h ts step
  | stepEnd ts step => exact execStepEnd_keeps h ts step
  | completionSend ts vi queue => exact execCompletionSend_keeps h ts vi queue
  | cplRetry ts vi queue psn => exact execCplRetry_keeps h ts vi queue psn
  | t1Reclaim ts vi => exact execT1Reclaim_keeps h ts vi
  | spillComplete ts vi page => exact execSpillComplete_keeps h ts vi page
  | fetchComplete ts vi page data => exact execFetchComplete_keeps h ts vi page data
  | imgCheckPassEnd ts vi src => exact execImgCheckPassEnd_keeps h ts vi src
  | rowProgram ts yelm array attempts ok => exact execRowProgram_keeps h ts yelm array attempts ok
  | arrayProgrammed ts yelm array => exact execArrayProgrammed_keeps h ts yelm array
  | arrayEraseDone ts yelm array => exact execArrayEraseDone_keeps h ts yelm array
  | swapUnitStart ts vi unit => exact execSwapUnitStart_keeps h ts vi unit
  | refreshSliceEnd ts yelm array bad => exact execRefreshSliceEnd_keeps h ts yelm array bad
  | spareSwitch ts yelm array => exact execSpareSwitch_keeps h ts yelm array
  | retireRetry ts yelm array => exact execRetireRetry_keeps h ts yelm array
  | suspectMarkExpiry ts yelm array => exact execSuspectMarkExpiry_keeps h ts yelm array
  | eccError ts e => exact execEccError_keeps h ts e
  | residueFail ts unit place step => exact execResidueFail_keeps h ts unit place step
  | beatBoundary => exact execBeatBoundary_keeps h
  | flagWindowEnd ts vi => exact execFlagWindowEnd_keeps h ts vi
  | heartbeat ts => exact execHeartbeat_keeps h ts
  | heartbeatLost ts => exact execHeartbeatLost_keeps h ts
  | resetEnd ts domain target => exact execResetEnd_keeps h ts domain target
  | replay ts vi => exact execReplay_keeps h ts vi
  | teardownComplete ts vi => exact execTeardownComplete_keeps h ts vi
  | rotationPass ts => exact execRotationPass_keeps h ts
  | yelmCalibrationStart ts yelm => exact execYelmCalibrationStart_keeps h ts yelm
  | yelmCalibrationEnd ts yelm found => exact execYelmCalibrationEnd_keeps h ts yelm found
  | calStoreWriteDone ts yelm => exact execCalStoreWriteDone_keeps h ts yelm
  | testEnd ts pack yelm array result => exact execTestEnd_keeps h ts pack yelm array result
  | monitorConversion ts entry sub ratios settled => exact execMonitorConversion_keeps h ts entry sub ratios settled
  | refSettleTimeout ts => exact execRefSettleTimeout_keeps h ts
  | floorWrite ts => exact execFloorWrite_keeps h ts
  | thermalSample ts die temp => exact execThermalSample_keeps h ts die temp
  | governorTick ts rails => exact execGovernorTick_keeps h ts rails
  | pbrakeAssert ts => exact execPbrakeAssert_keeps h ts
  | pbrakeRelease ts => exact execPbrakeRelease_keeps h ts
  | brakeRampTick ts => exact execBrakeRampTick_keeps h ts
  | wakeL ts => exact execWakeL_keeps h ts
  | wakeAt ts => exact execWakeAt_keeps h ts
  | powerStateEntry ts => exact execPowerStateEntry_keeps h ts
  | powerStateExit ts => exact execPowerStateExit_keeps h ts
  | powerUp ts pufOk => exact execPowerUp_keeps h ts pufOk
  | pwrOkRise ts => exact execPwrOkRise_keeps h ts
  | pwrOkFall ts => exact execPwrOkFall_keeps h ts
  | sysResetL ts => exact execSysResetL_keeps h ts
  | refLoss ts ref => exact execRefLoss_keeps h ts ref
  | refReturn ts ref => exact execRefReturn_keeps h ts ref
  | sync ts port m => exact execSync_keeps h ts port m
  | announce ts port a => exact execAnnounce_keeps h ts port a
  | announceTimeout ts port => exact execAnnounceTimeout_keeps h ts port
  | trefPps ts phase => exact execTrefPps_keeps h ts phase
  | ppsTimeout ts => exact execPpsTimeout_keeps h ts
  | tenMhzLoss ts => exact execTenMhzLoss_keeps h ts
  | sourceReturnTimer ts => exact execSourceReturnTimer_keeps h ts
  | mirrorRecord ts vi r => exact execMirrorRecord_keeps h ts vi r
  | ack ts vi seqno stamp => exact execAck_keeps h ts vi seqno stamp
  | depose ts vi => exact execDepose_keeps h ts vi
  | deposed ts vi => exact execDeposed_keeps h ts vi
  | leave ts vi => exact execLeave_keeps h ts vi
  | keepalive ts vi => exact execKeepalive_keeps h ts vi
  | leaseExpiry ts vi => exact execLeaseExpiry_keeps h ts vi
  | deposeTimeout ts vi => exact execDeposeTimeout_keeps h ts vi
  | joinTimeout ts vi => exact execJoinTimeout_keeps h ts vi
  | attestBatchClose ts => exact execAttestBatchClose_keeps h ts
  | lmsTreeDerived ts => exact execLmsTreeDerived_keeps h ts
  | powerLoss ts => exact execPowerLoss_keeps h ts
  | sysResetLRelease ts => exact execSysResetLRelease_keeps h ts
  | tenMhzLock ts => exact execTenMhzLock_keeps h ts
  | unknownOpcode p => exact execUnknownOpcode_keeps h p
  | unknownSidebandCode r code => exact execUnknownSidebandCode_keeps h r code
  | ptpDelayResponse ts port delay => exact execPtpDelayResponse_keeps h ts port delay
  | fwSlotWritten ts verified => exact execFwSlotWritten_keeps h ts verified

theorem keeps_self {s : State} (h : memWf s.hbm = true) : Keeps s.pending s.now s.sec.minSvn s := ⟨rfl, le_rfl, le_rfl, h⟩

/-- A step runs the front command on the state with the rest of the queue, or idles. -/
theorem step_keeps_rest {s : State} (h : memWf s.hbm = true) :
    ∃ t, step s = .next t ∧ Keeps s.pending.tail s.now s.sec.minSvn t := by
  obtain ⟨runs, idles⟩ := stepRunsExec
  cases hq : s.pending with
  | nil => exact ⟨s, idles s hq, hq, le_rfl, le_rfl, h⟩
  | cons i rest =>
    rw [runs i rest s hq]
    exact exec_keeps (keeps_self (s := { s with pending := rest }) h) i

/-- Settles O40: every command keeps what `Keeps` names, by the law of its family (`exec_keeps`). -/
theorem everyStepKeeps : Obligations.EveryStepKeeps := by
  unfold Obligations.EveryStepKeeps
  intro s hwf
  obtain ⟨t, hstep, kept⟩ := step_keeps_rest hwf
  exact ⟨t, hstep, kept.queue, kept.now, kept.svn, kept.mem⟩

/-- Settles O41: reset lists no command and no byte, and an unlisted byte reads 0. -/
theorem resetKeeps : Obligations.ResetKeeps := by
  unfold Obligations.ResetKeeps
  exact ⟨rfl, rfl, fun _ => rfl⟩

end Sys2Proof.Machine
end

section
/-! PROOFS. Beats and the seconds that begin one (R304, R308). -/
namespace Sys2Proof.Machine

section Beats
variable (s : State)

theorem period_pos : 0 < s.period := Nat.mul_pos (by decide) (Nat.two_pow_pos _)

theorem now_lt_nextBoundary : s.now < s.nextBoundary := by
  rw [State.nextBoundary, Nat.mul_comm]
  exact Nat.lt_mul_div_succ s.now (period_pos s)

theorem nextBoundary_le : s.nextBoundary ≤ s.now + s.period := by
  rw [State.nextBoundary, Nat.succ_mul]
  exact Nat.add_le_add_right (Nat.div_mul_le_self ..) _

theorem period_dvd_nextBoundary : s.period ∣ s.nextBoundary := Dvd.intro_left _ rfl

/-- A second is 2^6 · 125 periods of the shortest kind. -/
theorem period_dvd_second_iff (k : Nat) : s.period ∣ k * 1000000000 ↔ 2 ^ s.time.beatLog2 ∣ 2 ^ 6 * (125 * k) := by
  rw [State.period, show k * 1000000000 = 125000 * (2 ^ 6 * (125 * k)) by omega]
  exact Nat.mul_dvd_mul_iff_left (by decide)

/-- R304: above BEAT_LOG2 6 a second begins a beat where the number of seconds has the factor that is left of two. -/
theorem two_pow_dvd_second_iff {b : Nat} (hb : 6 < b) (k : Nat) : 2 ^ b ∣ 2 ^ 6 * (125 * k) ↔ 2 ^ (b - 6) ∣ k := by
  rw [show 2 ^ b = 2 ^ 6 * 2 ^ (b - 6) by rw [← pow_add, Nat.add_sub_cancel' hb.le], Nat.mul_dvd_mul_iff_left (by decide)]
  exact (Nat.Coprime.pow_left _ (by decide)).dvd_mul_left

end Beats

/-- Settles O57: a period is 125,000 ns times a power of two, and a second 125,000 ns times 2^6 · 125. -/
theorem beatPeriod : Obligations.BeatPeriod := by
  unfold Obligations.BeatPeriod
  refine ⟨fun s ts => ⟨rfl, rfl, now_lt_nextBoundary s, nextBoundary_le s, period_dvd_nextBoundary s⟩, fun s k hb => ?short,
    fun s k hb => ?long, rfl⟩
  case short => exact (period_dvd_second_iff s k).2 (Dvd.dvd.mul_right (pow_dvd_pow 2 hb) _)
  case long => exact (period_dvd_second_iff s k).trans (two_pow_dvd_second_iff hb k)

end Sys2Proof.Machine
end

section
/-! PROOFS. The space of a journal ring (R312). -/
namespace Sys2Proof.Machine

/-- The place behind all others holds what stands last. -/
theorem tget_append_last {α : Type} {l : Tbl α} {k : Nat} (h : ∀ e ∈ l, e.1 < k) (x : α) : tget (l ++ [(k, x)]) k = some x := by
  rw [← tset_last l k x h, tget_tset, if_pos rfl]

/-- R310, R312: the entry of an accepted request stands behind all others. -/
theorem opened_entries {s : State} {p : Packet} {op v : Nat} {x : Vi} (h : s.admits p op v = true) (hx : (s.arrived p v).vi? v = some x)
    (hlast : ∀ e ∈ x.jrnl.entries, e.1 < x.jrnl.next) :
    ∃ y n, (s.opened p v).vi? v = some y ∧ y.jrnl.entries = x.jrnl.entries ++ [(x.jrnl.next, n)] ∧ n.req = p := by
  obtain ⟨-, x', q, hx', -, hopened⟩ := admits_out h
  obtain rfl : x = x' := Option.some.inj (hx.symm.trans hx')
  obtain ⟨y, hy, grown⟩ := opened_own hopened hx
  obtain ⟨f, htail⟩ := grown.tail
  rw [tset_last _ _ _ hlast, tmod_last _ _ _ _ hlast] at htail
  have hentry := grown.entry
  rw [place_of_arrived hx, htail, tget_append_last hlast, Option.some.injEq] at hentry
  exact ⟨y, _, hy, htail, by rw [hentry]; rfl⟩

/-- R313: a retired entry gives back the head of its journal, and at most a record goes to the pair. -/
theorem retire_entries {s : State} {v : Nat} {x : Vi} (hx : s.vi? v = some x) (e : Nat) :
    ∃ y, (s.retire v e).vi? v = some y ∧
      y.jrnl.entries = Machine.reclaim (tmod x.jrnl.entries e (fun n => { n with state := .retired })) := by
  have hown := vi?_modVi s v v (fun x => (x.modEntry e (fun n => { n with state := .retired })).modJrnl Journal.reclaim)
  rw [if_pos rfl, hx, Option.map_some] at hown
  have hsent : SentBy v (s.modVi v (fun x => (x.modEntry e (fun n => { n with state := .retired })).modJrnl Journal.reclaim))
      (s.retire v e) := by
    unfold State.retire
    dsimp only
    split
    · exact .refl ..
    · split
      · exact .refl ..
      · exact emit_by ..
  obtain ⟨y, hy, hjrnl, -⟩ := hsent.own _ hown
  exact ⟨y, hy, by rw [hjrnl]; rfl⟩

/-- R312: an entry that is not retired holds back all that follow it. -/
theorem reclaim_append_cons {a b : Tbl Entry} {e : Nat × Entry} (he : e.2.state ≠ .retired) :
    Machine.reclaim (a ++ e :: b) = a.dropWhile (fun n => n.2.state == .retired) ++ e :: b := by
  rw [reclaim_drop, List.dropWhile_append]
  split
  · rename_i hall
    rw [List.isEmpty_iff.1 hall, List.dropWhile_cons_of_neg (by simpa using he), List.nil_append]
  · rfl

/-- Settles O49: the entry at the tail (`opened_entries`), the reclaiming of the head, and the request that does not fit, which
`take_passes` turns away in every journaled row. -/
theorem journalSpace : Obligations.JournalSpace := by
  unfold Obligations.JournalSpace
  refine ⟨fun s p op v x h hx hlast => opened_entries h hx hlast, fun s v e x hx => ?retire, fun j a b e hj he => ?held, ?full⟩
  case retire =>
    simp only [← reclaim_drop]
    exact retire_entries hx e
  case held =>
    refine ⟨_, ?_, List.dropWhile_suffix (fun n => n.2.state == .retired)⟩
    rw [Journal.reclaim, hj]
    exact reclaim_append_cons he
  case full =>
    intro r hr chk eff hcmd s p v x hop hin hpass hx hq hchk hfull
    obtain ⟨-, hroom, -⟩ := take_passes s p chk eff v x hin hpass hx hq
    rw [exec_journaled hr hcmd, ← hop, hroom hchk (decide_eq_false hfull.not_ge)]

end Sys2Proof.Machine
end

section
/-! PROOFS. Sources of external time: PTP masters, the 1PPS and 10 MHz signals, the return to the preferred source, and the time
floor (R298–R300, R302, R303, R459). -/
namespace Sys2Proof.Machine

/-! ### A change of one source -/

theorem srcOf_modSrc_same {t : TimeBlk} {i : Nat} (hi : i < t.srcs.length) (f : TimeSrc → TimeSrc) :
    srcOf (t.modSrc i f) i = f (srcOf t i) := by
  simp [srcOf, TimeBlk.modSrc, lget, List.getD_eq_getElem?_getD, List.getElem?_set_self hi]

theorem srcOf_modSrc_ne {i j : Nat} (hne : j ≠ i) (t : TimeBlk) (f : TimeSrc → TimeSrc) : srcOf (t.modSrc i f) j = srcOf t j := by
  simp [srcOf, TimeBlk.modSrc, lget, List.getD_eq_getElem?_getD, List.getElem?_set_ne hne.symm]

/-! ### PTP (R298, R299; the choice among masters and the delay request of each Sync are log entry 108, DESIGN CHOICE) -/

theorem ptpReach_upto (s : State) (ts i : Nat) : (s.upto ts).ptpReach i = s.ptpReach i := rfl

section Ptp
variable {s : State} {i : Nat}

/-- R299: a Sync of the selected master, its offset and the run of offsets that it adds to. -/
def State.synced (s : State) (i : Nat) (m : SyncMsg) : State :=
  s.modTime (fun t => t.modSrc i (fun r => { r with offset := m.offset, run := m.offset :: (srcOf s.time i).run.take 7 }))

theorem exec_sync {m : SyncMsg} (hi : i < 2) (hen : bitOf s.time.srcEn i = true) (hmaster : (srcOf s.time i).master.isSome = true)
    (hlo : 7812500 ≤ m.intervalNs) (hhi : m.intervalNs ≤ 1000000000) (hreach : s.ptpReach i = true) (ts : Nat) :
    exec (.sync ts i m) s = .next
      ((((if (srcOf s.time i).locked = false ∧ steady (m.offset :: (srcOf s.time i).run.take 7) 8 1000 = true
        then ((s.upto ts).synced i m).sourceLocks i else (s.upto ts).synced i m).modTime (fun t => correct t i)).noteTraced).ptpRequest
          i) := by
  have hnone : (srcOf s.time i).master.isNone = false := by rw [← Option.not_isSome, hmaster, Bool.not_true]
  have hinterval : syncInterval m.intervalNs = true := by simp [syncInterval, hlo, hhi]
  simp only [exec, execSync, State.upto_time, ptpReach_upto, hi.not_ge, hen, hnone, hinterval, hreach, Bool.not_true,
    Bool.false_eq_true, or_self, if_false, Bool.and_eq_true, Bool.not_eq_true']
  rfl

/-- R299: the masters that are known once an Announce has come in. -/
def TimeSrc.mastersWith (r : TimeSrc) (a : AnnounceMsg) : List AnnounceMsg :=
  a :: r.masters.filter (fun m => senderOf m != senderOf a)

/-- R299: the source that has heard an Announce: a new master begins a new run of offsets, and an Announce of the selected one
keeps it. -/
def TimeSrc.heard (r : TimeSrc) (a : AnnounceMsg) (now : Nat) : TimeSrc :=
  let best := bestBy betterMaster (r.mastersWith a)
  { r with masters := r.mastersWith a, master := best, run := if best.map senderOf == r.master.map senderOf then r.run else []
           lastSeen := if best.map senderOf == some (senderOf a) then some now else r.lastSeen }

/-- R299: the time block that has heard an Announce on port i; the selected master of the active source tells the UTC offset. -/
def TimeBlk.heard (t : TimeBlk) (i : Nat) (a : AnnounceMsg) (now : Nat) : TimeBlk :=
  if t.active = i ∧ (bestBy betterMaster ((srcOf t i).mastersWith a)).map senderOf = some (senderOf a)
  then { t.modSrc i (fun _ => (srcOf t i).heard a now) with utcOffset := a.utcOffset }
  else t.modSrc i (fun _ => (srcOf t i).heard a now)

theorem srcOf_heard (t : TimeBlk) (i j : Nat) (a : AnnounceMsg) (now : Nat) :
    srcOf (t.heard i a now) j = srcOf (t.modSrc i (fun _ => (srcOf t i).heard a now)) j := by
  unfold TimeBlk.heard
  split <;> rfl

theorem heard_utcOffset (t : TimeBlk) (i : Nat) (a : AnnounceMsg) (now : Nat) : (t.heard i a now).utcOffset =
    if t.active = i ∧ (bestBy betterMaster ((srcOf t i).mastersWith a)).map senderOf = some (senderOf a)
    then a.utcOffset else t.utcOffset := by
  unfold TimeBlk.heard
  split <;> rfl

theorem exec_announce {a : AnnounceMsg} (hi : i < 2) (hen : bitOf s.time.srcEn i = true) (hdomain : a.domain = s.time.domain)
    (hreach : s.ptpReach i = true) (ts : Nat) :
    exec (.announce ts i a) s = .next { s.upto ts with time := s.time.heard i a (max s.now ts) } := by
  simp only [exec, execAnnounce, State.upto_time, ptpReach_upto, hi.not_ge, hen, hdomain, hreach, Bool.not_true,
    Bool.false_eq_true, ne_eq, not_true_eq_false, or_self, if_false]
  rfl

theorem exec_announceTimeout {m : AnnounceMsg} {t0 ts : Nat} (hi : i < 2) (hmaster : (srcOf s.time i).master = some m)
    (hseen : (srcOf s.time i).lastSeen = some t0) (hlate : t0 + 3 * m.intervalNs ≤ max s.now ts) :
    exec (.announceTimeout ts i) s = .next (((s.upto ts).sourceLost i).modTime (fun t => t.modSrc i (fun r =>
      let ms := r.masters.filter (fun x => senderOf x != senderOf m)
      { r with masters := ms, master := bestBy betterMaster ms, lastSeen := none }))) := by
  simp only [exec, execAnnounceTimeout, State.upto_time, hmaster, hseen, State.upto_now, hi.not_ge, hlate.not_gt, or_self, if_false]

theorem exec_ptpDelayResponse (hi : i < 2) (hen : bitOf s.time.srcEn i = true) (ts d : Nat) :
    exec (.ptpDelayResponse ts i d) s =
      .next ((s.upto ts).modTime (fun t => t.modSrc i (fun r => { r with pathDelay := d }))) := by
  simp only [exec, execPtpDelayResponse, State.upto_time, hi.not_ge, hen, Bool.not_true, Bool.false_eq_true, or_self, if_false]

end Ptp

/-- Settles O6: each event goes on past its guards, which its hypotheses meet; an Announce touches the source of its port and, from
the selected master of the active source, the UTC offset. -/
theorem ptpEvents : Obligations.PtpEvents := by
  unfold Obligations.PtpEvents
  refine ⟨fun s ts i m hi hen hmaster hlo hhi hreach => exec_sync hi hen hmaster hlo hhi hreach ts, ?announce,
    fun s ts i t0 m hi hmaster hseen hlate => exec_announceTimeout hi hmaster hseen hlate,
    fun s ts i d hi hen => exec_ptpDelayResponse hi hen ts d⟩
  case announce =>
    intro s ts i a hi hen hdomain hreach ms
    refine ⟨_, exec_announce hi hen hdomain hreach ts, fun hlen => ?_, fun j hne => ?_, heard_utcOffset ..⟩
    · rw [srcOf_heard, srcOf_modSrc_same hlen]
      exact ⟨rfl, rfl⟩
    · rw [srcOf_heard, srcOf_modSrc_ne hne]

/-! ### The 1PPS and 10 MHz signals (R298, R300, R302, R459) -/

/-- R298: whether a source's last edge lies a second back, within 100 ns. -/
def TimeSrc.secondAgo (r : TimeSrc) (now : Nat) : Bool :=
  r.lastSeen.any (fun l => decide (now ≤ l + 1000000100) && decide (l + 1000000000 ≤ now + 100))

theorem secondAgo_iff {r : TimeSrc} {now : Nat} :
    r.secondAgo now = true ↔ ∃ l ∈ r.lastSeen, now ≤ l + 1000000100 ∧ l + 1000000000 ≤ now + 100 := by
  simp only [TimeSrc.secondAgo, Option.any_eq_true, Option.mem_def, Bool.and_eq_true, decide_eq_true_eq]

section Signals
variable {s : State} {ts : Nat}

/-- R302: how far the second that a 1PPS edge marks lies ahead of the time of record. -/
def State.ppsOffset (s : State) : Int := (edgeStamp s.time s.now : Int) - s.now

/-- R298, R300: the state in which a 1PPS edge has been seen, with the run of edges it makes. -/
def State.edgeSeen (s : State) (run : List Int) : State :=
  s.modTime (fun t => { t.modSrc 2 (fun r => { r with offset := s.ppsOffset, run := run, lastSeen := some s.now }) with
    ppsExpected := t.ppsExpected.map (· + 1) })

/-- R298, R459: the run of edges that count, after one at a phase. -/
def State.ppsRun (s : State) (ph : Nat) : List Int :=
  if (srcOf s.time 2).secondAgo s.now && decide (5 ≤ ph) && decide (ph ≤ 95) then s.ppsOffset :: (srcOf s.time 2).run.take 3 else []

theorem exec_trefPps (hen : bitOf s.time.srcEn 2 = true) (ts ph : Nat) :
    exec (.trefPps ts ph) s = .next
      (let run := (s.upto ts).ppsRun ph
      let o := (s.upto ts).edgeSeen run
      (((if (srcOf s.time 2).locked = false ∧ s.time.tenMhz = true ∧ 4 ≤ run.length then o.sourceLocks 2 else o).modTime
        (fun t => correct t 2)).noteTraced)) := by
  simp only [exec, execTrefPps, State.upto_time, hen, Bool.not_true, Bool.false_eq_true, if_false, Bool.and_eq_true, Bool.not_eq_true', decide_eq_true_eq, and_assoc, State.ppsRun, TimeSrc.secondAgo]
  cases hseen : (srcOf s.time 2).lastSeen <;> rfl

theorem exec_ppsTimeout (hlate : ∀ l ∈ (srcOf s.time 2).lastSeen, l + 1500000000 ≤ max s.now ts) :
    exec (.ppsTimeout ts) s = .next ((s.upto ts).sourceLost 2) := by
  simp only [exec, execPpsTimeout, State.upto_time]
  cases hseen : (srcOf s.time 2).lastSeen with
  | none => rfl
  | some l => simp only [State.upto_now, (hlate l hseen).not_gt, if_false]

theorem exec_tenMhzLock (s : State) (ts : Nat) :
    exec (.tenMhzLock ts) s = .next (
      let o := (s.upto ts).modTime (fun t => { t with tenMhz := true })
      if (srcOf s.time 2).locked = false ∧ bitOf s.time.srcEn 2 = true ∧ 4 ≤ (srcOf s.time 2).run.length
      then ((o.sourceLocks 2).modTime (fun t => correct t 2)).noteTraced else o) := by
  refine congrArg Host.Outcome.next (if_congr ?_ rfl rfl)
  simp only [Bool.and_eq_true, Bool.not_eq_true', decide_eq_true_eq, and_assoc]
  rfl

theorem exec_sourceReturnTimer (hother : s.time.active ≠ s.time.pref) (hsource : s.time.pref < 3)
    (husable : usable s.time s.time.pref = true) (hsteady : (srcOf s.time s.time.pref).lockStamp + 16000000000 ≤ max s.now ts) :
    exec (.sourceReturnTimer ts) s = .next (((s.upto ts).modTime (fun t => t.switchTo s.time.pref)).noteTraced) :=
  congrArg Host.Outcome.next (if_pos ⟨hother, hsource, husable, hsteady⟩)

/-! ### The time floor (R303; its lead before a pending step is log entry 84, DEDUCED) -/

theorem exec_floorWrite_due (hnone : ∀ e ∈ s.time.pendStep, e.2 = true) (hdue : s.time.lastFloor + Config.floorEveryNs ≤ max s.now ts) :
    exec (.floorWrite ts) s = .next ((s.upto ts).modTime (fun t =>
      { t with floor := max s.now ts + 128000000000, lastFloor := max s.now ts })) := by
  simp only [exec, execFloorWrite, State.upto_time, State.upto_now]
  cases hstep : s.time.pendStep with
  | none => simp only [hdue, if_true, Config.floorLeadNs]
  | some e =>
    obtain ⟨d, written⟩ := e
    obtain rfl : written = true := hnone _ hstep
    simp only [hdue, if_true, Config.floorLeadNs]

theorem exec_floorWrite_step {d : Nat} (hstep : s.time.pendStep = some (d, false)) (ts : Nat) :
    exec (.floorWrite ts) s = .next ((s.upto ts).modTime (fun t =>
      { t with floor := (s.upto ts).comingBoundary + d + 128000000000, lastFloor := max s.now ts, pendStep := some (d, true) })) := by
  simp only [exec, execFloorWrite, State.upto_time, hstep]
  rfl

end Signals

/-- Settles O7: each event goes on past its guards, which its hypotheses meet; an edge counts where its phase lies in the window and
the last edge a second back. -/
theorem timeSourceEvents : Obligations.TimeSourceEvents := by
  unfold Obligations.TimeSourceEvents
  refine ⟨?pps, fun s ts hlate => exec_ppsTimeout hlate, fun s ts => rfl, fun s ts => exec_tenMhzLock s ts,
    fun s ts hother hsource husable hsteady => exec_sourceReturnTimer hother hsource husable hsteady,
    fun s ts hnone hdue => exec_floorWrite_due hnone hdue, fun s ts d hstep => exec_floorWrite_step hstep ts⟩
  case pps =>
    intro s ts ph hen o r off near run hcounts hnot o'
    have hrun : run = o.ppsRun ph := by
      unfold State.ppsRun
      by_cases hedge : (5 ≤ ph ∧ ph ≤ 95) ∧ near
      · obtain ⟨⟨hlo, hhi⟩, hnear⟩ := hedge
        have hago : (srcOf o.time 2).secondAgo o.now = true := secondAgo_iff.2 hnear
        simp only [hago, hlo, hhi, decide_true, Bool.and_self, if_true]
        exact hcounts ⟨hlo, hhi⟩ hnear
      · rw [hnot hedge, if_neg]
        simp only [Bool.and_eq_true, decide_eq_true_eq, secondAgo_iff]
        exact fun ⟨⟨hnear, hlo⟩, hhi⟩ => hedge ⟨⟨hlo, hhi⟩, hnear⟩
    subst hrun
    exact exec_trefPps hen ts ph

end Sys2Proof.Machine
end

section
/-! PROOFS. Calibration: its requests, the start of a pass, the calibration of a yelm, and the read of a trim table (R307, R373, R375,
R377, R378, R380–R383, R385). -/
namespace Sys2Proof.Machine

/-! ### CAL_RUN and CAL_TABLE_READ (R288, R382, R383) -/

section Effects
variable {s : State} {c : Cmd} {x : Vi}

/-- R288: the yelms that a CAL_RUN names. -/
def calYelms (v : Nat) (x : Vi) (n : Nat) : List Nat := if n = 0xFFFF then x.yelmsOf v else (physYelm v x.part n).toList

/-- R382: the state in which a CAL_RUN has asked for its yelms and waits for them. -/
def State.askCal (s : State) (v e : Nat) (ys : List Nat) : State :=
  ((ys.foldl (fun s y => s.modYelm y (fun ye => { ye with cal := if ye.cal = 0 then 1 else ye.cal })) s).modEntry v e
    (fun n => { n with state := .running })).modCal (fun b =>
      { b with requests := b.requests.filter (fun r => !(r.1 == v && r.2.1 == some e)) ++ [(v, some e, ys, 0)] })

theorem effCalRun_asks (hx : s.vi? c.vi = some x) (hys : calYelms c.vi x (leAt c.pay 0 2) ≠ []) :
    effCalRun s c = (s.askCal c.vi c.entry (calYelms c.vi x (leAt c.pay 0 2)), none) := by
  unfold calYelms at *
  simp only [effCalRun, hx, hys, and_false, if_false]
  rfl

theorem effCalTableRead_reads {y : Nat} (hx : s.vi? c.vi = some x) (hy : physYelm c.vi x.part (leAt c.pay 0 2) = some y)
    (hbank : leAt c.pay 2 1 ≤ 19) (hset : leAt c.pay 3 1 ≤ 4 ∨ leAt c.pay 3 1 = 0xFF) :
    effCalTableRead s c = (
      let bank := leAt c.pay 2 1
      let set := leAt c.pay 3 1
      let table := if set = 0xFF then (s.yelm y).trims else (s.yelm y).stored.getD set []
      (s, some (stOk, le 2 (leAt c.pay 0 2) ++ le 1 bank ++ le 1 set ++ le 4 (s.yelm y).setId ++
        le 4 (if set = 0xFF then (s.yelm y).trimTemp else nominalTemps.getD set 0).toNat ++ (List.range 1040).flatMap (fun i =>
          le 4 (if bank ≥ 16 ∧ i ≥ 1024 then 0 else trimWord (tgetD table (bank * 1040 + i) (0, 0))))))) := by
  have hok : ¬ (leAt c.pay 2 1 > 19 ∨ (leAt c.pay 3 1 > 4 ∧ leAt c.pay 3 1 ≠ 0xFF)) := by omega
  simp only [effCalTableRead, hx, Option.bind_some, hy, hok, if_false]

end Effects

section Events
variable {s : State} {ts v y : Nat} {value : Reg}

/-! ### CAL_REQ (R382, R385) -/

theorem exec_calReq_asks (hclk : s.gated 8 = false) (hy : value.toNat % 4096 < Config.yelmCount) :
    exec (.calReq ts 0 value) s = .next ((s.upto ts).requestCal (value.toNat % 4096)) := by
  simp only [exec, execCalReq, gated_upto, hclk, State.calReqWrite, hy.not_ge, ne_eq, not_true_eq_false, or_self, if_false,
    Bool.false_eq_true]

/-- R385, R420: what VI 0 does not write, what names no yelm, and what finds no clock asks for nothing. -/
theorem exec_calReq_ignored (h : s.gated 8 = true ∨ v ≠ 0 ∨ Config.yelmCount ≤ value.toNat % 4096) :
    exec (.calReq ts v value) s = .next (s.upto ts) := by
  simp only [exec, execCalReq, gated_upto, State.calReqWrite]
  by_cases hclk : s.gated 8 = true
  · simp only [hclk, if_true]
  · simp only [hclk, h.resolve_left hclk, if_true, if_false, Bool.false_eq_true]

/-! ### The rotation and the calibration of a yelm (R307, R373, R375, R380, R381) -/

theorem exec_rotationPass (hrot : s.cal.rotEn = true) (hidle : s.cal.passActive = false) (hboundary : (s.upto ts).now % s.period = 0)
    (hawake : s.pwr.state ≤ 1) (hwant : s.pwr.want = none)
    (hdue : s.cal.passStart + s.cal.rotPeriod * 1000000000 ≤ (s.upto ts).now) :
    exec (.rotationPass ts) s = .next (s.upto ts).startPass :=
  congrArg Host.Outcome.next (if_pos ⟨hrot, by rw [State.upto_cal, hidle]; rfl, hboundary, hawake, by rw [State.upto_pwr, hwant]; rfl, hdue⟩)

theorem pulsesOff_upto (s : State) (ts : Nat) : (s.upto ts).pulsesOff = s.pulsesOff := rfl

theorem nextCal_upto (s : State) (ts course : Nat) : (s.upto ts).nextCal course = s.nextCal course := rfl

theorem exec_yelmCalibrationStart (hawake : s.pwr.state ≤ 1) (hwant : s.pwr.want = none) (hpulses : s.pulsesOff = false)
    (hnext : s.nextCal (y / 16) = some y) :
    exec (.yelmCalibrationStart ts y) s =
      .next (((s.upto ts).modYelm y (fun ye => { ye with cal := 2, calStart := (s.upto ts).now })).modCal (fun b =>
        { b with queue := b.queue.filter (· != y), requests := b.requests.filter (fun r => !(r.2.1.isNone && r.2.2.1.contains y)) })) := by
  simp only [exec, execYelmCalibrationStart, State.upto_pwr, pulsesOff_upto, nextCal_upto, hawake.not_gt, hwant, hpulses, hnext,
    Option.isSome_none, Bool.false_eq_true, ne_eq, not_true_eq_false, or_self, if_false]

/-- R373, R375: the state in which what was found on a yelm waits for its store; a die without a reading counts as 40 °C (log entry
17, DESIGN CHOICE). -/
def State.keepFound (s : State) (y : Nat) (found : List TapFound) : State :=
  (s.modYelm y (fun ye => { ye with cal := 3, found := found, calTemp := (s.diode (dieOfYelm y)).getD 0x42200000#32 })).modCal
    (fun b => { b with tapLimit := satAdd b.tapLimit (found.filter tapLimited).length })

/-- R373, R382: the state in which a calibration has ended that could not be used (log entry 52, DEDUCED). -/
def State.endUnchanged (s : State) (y start : Nat) : State :=
  (s.serveRequests y start false).modYelm y (fun ye => { ye with cal := (s.serveRequests y start false).calRest y, found := [] })

theorem exec_yelmCalibrationEnd (hcal : (s.yelm y).cal = 2) (hpulses : s.pulsesOff = false) (found : List TapFound) :
    exec (.yelmCalibrationEnd ts y found) s = .next
      ((if s.cal.refBad = true then (s.upto ts).endUnchanged y (s.yelm y).calStart else (s.upto ts).keepFound y found).endPass
        ).pumpAllTiles := by
  simp only [exec, execYelmCalibrationEnd, yelm_upto, pulsesOff_upto, hcal, hpulses, ne_eq, not_true_eq_false, Bool.false_eq_true,
    or_self, if_false]
  rfl

/-- R377, R378, R382: the state in which the store of a yelm has been written and the requests it serves are answered (log entry 52,
DEDUCED). -/
def State.storeWritten (s : State) (y : Nat) (sets : List Trims) : State :=
  ((s.modCal (fun b => { b with setId := bump b.setId, yelmCals := bump b.yelmCals })).serveRequests y (s.yelm y).calStart
    (sets != (s.yelm y).stored))

theorem exec_calStoreWriteDone (hcal : (s.yelm y).cal = 3) :
    exec (.calStoreWriteDone ts y) s = .next (
      let sets := (s.yelm y).found.foldl (commitTap (fRat (s.yelm y).calTemp)) (s.yelm y).stored
      let o := (s.upto ts).storeWritten y sets
      (o.modYelm y (fun ye => { ye with
        stored := sets, setId := o.cal.setId, lastCal := o.now, trimDue := true, found := [], cal := o.calRest y })).endPass) := by
  simp only [exec, execCalStoreWriteDone, yelm_upto, hcal, ne_eq, not_true_eq_false, if_false]
  rfl

end Events

/-- Settles O25: each request and event goes on past its guards, which its hypotheses meet; the end of a calibration keeps what was
found, or, the reference out of range, nothing. -/
theorem calibrationCommands : Obligations.CalibrationCommands := by
  unfold Obligations.CalibrationCommands
  refine ⟨?calRun, ?calReq, fun s ts hrot hidle hboundary hawake hwant hdue => exec_rotationPass hrot hidle hboundary hawake hwant hdue,
    fun s ts y hawake hwant hpulses hnext => exec_yelmCalibrationStart hawake hwant hpulses hnext, ?calEnd,
    fun s ts y hcal => exec_calStoreWriteDone hcal, ?tableRead⟩
  case calRun =>
    intro s p v x h o n ys hx hys
    exact congrArg Host.Outcome.next (takeAs_later h rfl (effCalRun_asks (c := s.command p v) hx hys))
  case calReq =>
    intro s ts v value
    refine ⟨?_, exec_calReq_ignored⟩
    rintro hclk rfl hy
    exact exec_calReq_asks hclk hy
  case calEnd =>
    intro s ts y found hcal hpulses o
    have hend := exec_yelmCalibrationEnd (ts := ts) hcal hpulses found
    exact ⟨fun hgood => by rw [hend, hgood, if_neg Bool.false_ne_true]; rfl, fun hbad => by rw [hend, if_pos hbad]; rfl⟩
  case tableRead =>
    intro s p v y x h o bank set ye table hx hy hbank hset
    exact congrArg Host.Outcome.next (takeAs_completes h (effCalTableRead_reads (c := s.command p v) hx hy hbank hset))

end Sys2Proof.Machine
end

section
/-! PROOFS. The supply, the reset pin and the test port (R303, R342, R427, R434, R450–R453, R466; what the main domains lose is log
entry 82, DEDUCED). -/
namespace Sys2Proof.Machine

section Supply
variable (s : State) (ts : Nat)

/-- R450: the state in which PWR_OK has been seen at a level. -/
def State.withPwrOk (s : State) (high : Bool) : State := { s with pins := { s.pins with pwrOk := high } }

theorem exec_pwrOkFall : exec (.pwrOkFall ts) s = .next
    (if s.pwr.state = 3 ∨ s.pins.mainUp = false then (s.upto ts).withPwrOk false else ((s.upto ts).withPwrOk false).loseMain) := by
  simp only [exec, execPwrOkFall, State.upto_pwr, State.upto_pins, Bool.not_eq_true']
  rfl

theorem exec_powerLoss (hon : s.pins.vddAon = true) : exec (.powerLoss ts) s = .next (s.upto ts).unplug :=
  congrArg Host.Outcome.next (if_pos hon)

theorem exec_powerUp (hoff : s.pins.vddAon = false) (puf : Bool) :
    exec (.powerUp ts puf) s = .next ({ s.upto ts with
      now := max (s.upto ts).now s.time.floor, pins := { s.pins with vddAon := true, pwrReq := true } }.modSec (fun b =>
        { b with pufFail := !puf })) :=
  congrArg Host.Outcome.next (if_neg (Bool.eq_false_iff.1 hoff))

/-! ### The reset pin (R342, R427, R453) -/

/-- R453: the state in which SYS_RESET_L is low. -/
def State.pinLow (s : State) : State := { s with pins := { s.pins with sysResetL := false } }

/-- R453, R466: the state in which SYS_RESET_L is high: the pin ends an instruction that drives lands (log entry 85, DESIGN CHOICE). -/
def State.pinHigh (s : State) : State :=
  { s with pins := { s.pins with sysResetL := true, tap := if drivesLands s.pins.tap = true then .bypass else s.pins.tap } }

theorem exec_sysResetL : exec (.sysResetL ts) s = .next
    (if s.pwr.state = 3 ∨ s.pins.pwrOk = false ∨ s.pins.mainUp = false ∨ s.pins.vddAon = false then (s.upto ts).pinLow
      else (if s.pwr.state = 2 then (s.upto ts).pinLow.backInRun else (s.upto ts).pinLow).startReset 5 0 1 []) := by
  simp only [exec, execSysResetL, State.upto_pwr, State.upto_pins, Bool.not_eq_true']
  rfl

/-- R427, R450: the state in which power-up begins with the ROM loader, as a reset of cause 6 (log entry 79, DEDUCED). -/
def State.beginPowerUp (s : State) : State :=
  (State.backInRun { s with pins := { s.pins with mainUp := true } }).modErr (fun b =>
    { b with resets := [⟨5, 0, s.now, 6, [], s.vis.map Prod.fst, []⟩] })

theorem exec_sysResetLRelease : exec (.sysResetLRelease ts) s = .next
    (if s.pins.mainUp = true ∨ s.pins.pwrOk = false ∨ s.pins.vddAon = false ∨ s.pwr.state = 3 then (s.upto ts).pinHigh
      else (s.upto ts).pinHigh.beginPowerUp) := by
  simp only [exec, execSysResetLRelease, State.upto_pwr, State.upto_pins, Bool.not_eq_true']
  rfl

/-! ### The test port (R466) -/

theorem exec_testPortInstruction (hon : s.pins.vddAon = true) (i : TapInstr) :
    exec (.testPortInstruction ts i) s = .next { s.upto ts with
      pins := { s.pins with tap := if drivesLands i = true ∧ s.pins.sysResetL = true then .bypass else i } } :=
  congrArg Host.Outcome.next (if_neg (by rw [State.upto_pins, hon]; decide))

end Supply

/-- Settles O31: each event by the pins and the power state that it finds. -/
theorem supplyEvents : Obligations.SupplyEvents := by
  unfold Obligations.SupplyEvents
  refine ⟨?pwrOk, fun s ts hon => exec_powerLoss s ts hon, fun s ts puf hoff => exec_powerUp s ts hoff puf, ?low, ?high,
    fun s ts i hon => exec_testPortInstruction s ts hon i⟩
  case pwrOk =>
    intro s ts o
    exact ⟨rfl, fun hdeep hmain => (exec_pwrOkFall s ts).trans (congrArg _ (if_neg (by simp [hdeep, hmain]))),
      fun hheld => (exec_pwrOkFall s ts).trans (congrArg _ (if_pos hheld))⟩
  case low =>
    intro s ts o
    exact ⟨fun hdeep hgood hmain hon => (exec_sysResetL s ts).trans (congrArg _ (if_neg (by simp [hdeep, hgood, hmain, hon]))),
      fun hheld => (exec_sysResetL s ts).trans (congrArg _ (if_pos hheld))⟩
  case high =>
    intro s ts o
    exact ⟨fun hmain hgood hon hdeep => (exec_sysResetLRelease s ts).trans (congrArg _ (if_neg (by simp [hdeep, hgood, hmain, hon]))),
      fun hmain => (exec_sysResetLRelease s ts).trans (congrArg _ (if_pos (.inl hmain)))⟩

end Sys2Proof.Machine
end

section
/-! PROOFS. The actions of a beat boundary (R306–R308, R403; the boundary of a device that sleeps is log entry 86, DEDUCED). -/
namespace Sys2Proof.Machine

/-- R302, R305, R307: the state at the boundary that comes, with the time step and the period that are due. -/
def State.atBoundary (s : State) : State :=
  (({ s with now := s.comingBoundary } : State).modTime (fun t => { t with boundary := s.comingBoundary })).timeStep.periodChange

section Beat
variable {s : State}

theorem exec_beatBoundary_off (hoff : s.pins.vddAon = false) : exec .beatBoundary s = .next s :=
  congrArg Host.Outcome.next (if_neg (Bool.eq_false_iff.1 hoff))

theorem exec_beatBoundary_on (hon : s.pins.vddAon = true) : exec .beatBoundary s = .next s.beat :=
  congrArg Host.Outcome.next (if_pos hon)

/-- R403: in Doze, in Deep and while the main domains are held. -/
theorem beat_asleep (h : 1 < s.atBoundary.pwr.state ∨ s.atBoundary.pins.mainUp = false) :
    s.beat = s.atBoundary.preferenceChange.windowBoundary.countBeat :=
  if_pos (h.imp_right fun hmain => by rw [← State.atBoundary, hmain]; rfl)

/-- R307: while the main domains run, the firmware acts where the device serves. -/
theorem beat_awake (hstate : s.atBoundary.pwr.state ≤ 1) (hmain : s.atBoundary.pins.mainUp = true) :
    s.beat = (if s.atBoundary.mainBoundary.serving then s.atBoundary.mainBoundary.firmwareBoundary
      else s.atBoundary.mainBoundary).countBeat.drainPorts.pumpAllTiles.wake :=
  if_neg (by rw [← State.atBoundary, hmain]; simpa using hstate)

end Beat

/-- Settles O38: without VDD_AON there is no boundary; else the power state and the main domains, as the boundary finds them, decide
between the two orders, which `mainBoundary` and `firmwareBoundary` write down. -/
theorem beatBoundary : Obligations.BeatBoundary := by
  unfold Obligations.BeatBoundary
  refine ⟨fun s hoff => exec_beatBoundary_off hoff, ?on⟩
  case on =>
    intro s hon b o
    rw [exec_beatBoundary_on hon]
    exact ⟨fun hasleep => congrArg _ (beat_asleep hasleep), fun hstate hmain => congrArg _ (beat_awake hstate hmain)⟩

end Sys2Proof.Machine
end

section
/-! PROOFS. The rings of error records (R330, R331, R333, R334). -/
namespace Sys2Proof.Machine

section Ring
variable {s : State} {size : Nat} {g : Ring} {r : Rec}

/-! ### An occurrence enters a ring (R333, R334) -/

/-- R333: an occurrence that coalesces counts on the records that it repeats. -/
def recount (s : State) (r o : Rec) : Rec :=
  if coalesces s r o then { o with count := bump16 o.count, last := r.first } else o

theorem ringPut_coalesced (h : g.recs.any (coalesces s r) = true) : ringPut s size g r =
    { g with recs := g.recs.map (recount s r), coalesced := bump g.coalesced, recSeen := true } :=
  if_pos h

theorem ringPut_written (h : g.recs.any (coalesces s r) = false) (hroom : g.recs.length < size) : ringPut s size g r =
    { g with recs := g.recs ++ [r], written := bump g.written, recSeen := true } :=
  (if_neg (Bool.eq_false_iff.1 h)).trans (if_pos hroom)

theorem ringPut_full (h : g.recs.any (coalesces s r) = false) (hfull : size ≤ g.recs.length) : ringPut s size g r =
    { g with lost := bump g.lost, lostLast := r.first, lostFirst := if g.lost = 0 then r.first else g.lostFirst, lossSeen := true } :=
  (if_neg (Bool.eq_false_iff.1 h)).trans (if_neg hfull.not_gt)

/-- R333: coalescing touches COUNT and LAST_STAMP alone. -/
theorem recount_frame (s : State) (r o : Rec) : { recount s r o with count := o.count, last := o.last } = o := by
  unfold recount
  split <;> rfl

/-- R334: no record of a ring is overwritten or moved. -/
theorem ringPut_keeps_record {i : Nat} {o : Rec} (ho : g.recs[i]? = some o) :
    (ringPut s size g r).recs[i]? = some o ∨ (ringPut s size g r).recs[i]? = some (recount s r o) := by
  cases hrep : g.recs.any (coalesces s r) with
  | true => exact .inr (by simp only [ringPut_coalesced hrep, List.getElem?_map, ho, Option.map_some])
  | false =>
    rcases Nat.lt_or_ge g.recs.length size with hroom | hfull
    · have hi : i < g.recs.length := (List.getElem?_eq_some_iff.1 ho).1
      exact .inl (by rw [ringPut_written hrep hroom, List.getElem?_append_left hi, ho])
    · exact .inl (by rw [ringPut_full hrep hfull, ho])

end Ring

/-! ### The rings that a record goes to (R330, R331) -/

/-- R330, R331: the state in which a record has entered the device ring, marked where its yelm number is a physical one. -/
def State.reportDevice (s : State) (r : Rec) : State :=
  s.modErr (fun b =>
    { b with ring := ringPut s 4096 b.ring (if r.yelm = 0xFFFF then r else { r with flags := r.flags ||| 4 }) })

theorem report_device {s : State} {r : Rec} (hdevice : r.vi = 0) : s.report r = s.reportDevice r := if_pos hdevice

theorem report_tenant {s : State} {r : Rec} (htenant : r.vi ≠ 0) : s.report r =
    (s.reportDevice r).modVi r.vi (fun x => { x with ring := ringPut s 256 x.ring (tenantView x.part r) }) := if_neg htenant

theorem report_deviceRing (s : State) (r : Rec) :
    (s.report r).err.ring = ringPut s 4096 s.err.ring (if r.yelm = 0xFFFF then r else { r with flags := r.flags ||| 4 }) := by
  by_cases hvi : r.vi = 0
  · rw [report_device hvi]
    rfl
  · rw [report_tenant hvi]
    rfl

/-- R330: a record of VI 0 concerns no tenant, and one of a tenant no other. -/
theorem vi?_report_other {s : State} {r : Rec} {w : Nat} (hother : w ≠ r.vi ∨ w = 0) : (s.report r).vi? w = s.vi? w := by
  by_cases hvi : r.vi = 0
  · rw [report_device hvi]
    rfl
  · have hw : w ≠ r.vi := by omega
    rw [report_tenant hvi, vi?_modVi, if_neg hw]
    rfl

theorem vi?_report_own {s : State} {r : Rec} {x : Vi} (htenant : r.vi ≠ 0) (hx : s.vi? r.vi = some x) :
    (s.report r).vi? r.vi = some { x with ring := ringPut s 256 x.ring (tenantView x.part r) } := by
  have hx' : (s.reportDevice r).vi? r.vi = some x := hx
  rw [report_tenant htenant, vi?_modVi, if_pos rfl, hx', Option.map_some]

/-- Settles O51: what an occurrence does to a ring by whether it coalesces and whether the ring is full (`ringPut_full`,
`ringPut_keeps_record`); a record enters the device ring and that of its tenant, each by itself. -/
theorem errorRing : Obligations.ErrorRing := by
  unfold Obligations.ErrorRing
  refine ⟨?full, ?kept, fun s r => ⟨report_deviceRing s r, fun w hother => vi?_report_other hother,
    fun x htenant hx => vi?_report_own htenant hx⟩⟩
  case full =>
    intro s size g r hrep hfull g'
    have hput : g' = _ := ringPut_full hrep hfull
    rw [hput]
    exact ⟨rfl, rfl, rfl, rfl, rfl, rfl⟩
  case kept =>
    intro s size g r i o ho
    rcases ringPut_keeps_record (s := s) (size := size) (r := r) ho with hkept | hcounted
    · exact ⟨o, hkept, rfl⟩
    · exact ⟨recount s r o, hcounted, recount_frame s r o⟩

end Sys2Proof.Machine
end

section
/-! PROOFS. Exporting error records, and test-pattern packs (R335–R337, R339, R340; the layout of a CPER is log entry 19, PRESUMED). -/
namespace Sys2Proof.Machine

section Effects
variable {s : State} {c : Cmd} {x : Vi} {r : Region}

/-- R246: the region that a request names is one of its VI. -/
theorem bind_regions {n : Nat} (hx : s.vi? c.vi = some x) (hregion : tget x.regions n = some r) :
    (s.vi? c.vi).bind (fun x => tget x.regions n) = some r := by
  rw [hx, Option.bind_some, hregion]

/-! ### CPER_EXPORT (R336) -/

/-- R336: the CPER records of a VI that fit whole into a length; CLASS 1 to 3 are the codes 0x02xx to 0x04xx. -/
def State.cperOf (s : State) (v len : Nat) : List (List Byte) :=
  cperFit len (((s.ringOf v).recs.filter (fun e => decide (2 ≤ e.code / 256) && decide (e.code / 256 ≤ 4))).map (cperBytes s.time))

/-- R336: BYTES and COUNT of the reply. -/
def cperReply (bytes n : Nat) : List Byte := le 8 bytes ++ le 4 n ++ zeros 4

section Cper
variable {fit : List (List Byte)} (hx : s.vi? c.vi = some x) (hregion : tget x.regions (leAt c.pay 0 4) = some r) (huse : r.use = 4)
  (hlen : leAt c.pay 8 8 + leAt c.pay 16 8 ≤ r.length) (hfit : s.cperOf c.vi (leAt c.pay 16 8) = fit)
include hx hregion huse hlen hfit

theorem effCperExport_nothing (hnone : fit.flatten = []) : effCperExport s c = (s, some (stOk, cperReply 0 0)) := by
  unfold State.cperOf at hfit
  have hok : ¬ (r.use ≠ 4 ∨ r.length < leAt c.pay 8 8 + leAt c.pay 16 8) := by omega
  simp only [effCperExport, bind_regions hx hregion, if_neg hok, hfit, hnone, if_true]
  rfl

/-- R336: what fits is answered when its write has been acknowledged. -/
theorem effCperExport_writes (hsome : fit.flatten ≠ []) (hconn : s.connOk c.vi r.rc = true) :
    effCperExport s c =
      ((s.modEntry c.vi c.entry (fun e => { e with state := .running, payload := cperReply fit.flatten.length fit.length })).rdma
        c.vi r.rc (.command c.entry) true (r.addr + leAt c.pay 8 8) fit.flatten.length c.queue fit.flatten, none) := by
  unfold State.cperOf at hfit
  have hok : ¬ (r.use ≠ 4 ∨ r.length < leAt c.pay 8 8 + leAt c.pay 16 8) := by omega
  simp only [effCperExport, bind_regions hx hregion, if_neg hok, hfit, if_neg hsome, hconn, Bool.not_true, Bool.false_eq_true, if_false]
  rfl

end Cper

/-! ### TEST_PACK_LOAD and TEST_PACK_RUN (R337, R339) -/

theorem effTestPackLoad_reads (hx : s.vi? c.vi = some x) (hregion : tget x.regions (leAt c.pay 0 4) = some r) (huse : r.use = 0)
    (hlen : leAt c.pay 8 8 + leAt c.pay 16 8 ≤ r.length) (hsize : leAt c.pay 16 8 ≤ Config.packBytes)
    (hroom : s.err.packs.length < Config.packMax) (hconn : s.connOk c.vi r.rc = true) :
    effTestPackLoad s c = ((s.modEntry c.vi c.entry (fun e => { e with state := .running })).rdma c.vi r.rc (.command c.entry) false
      (r.addr + leAt c.pay 8 8) (leAt c.pay 16 8) c.queue [], none) := by
  have hok : ¬ (r.use ≠ 0 ∨ r.length < leAt c.pay 8 8 + leAt c.pay 16 8) := by omega
  have hfits : ¬ (Config.packBytes < leAt c.pay 16 8 ∨ Config.packMax ≤ s.err.packs.length) := by omega
  simp only [effTestPackLoad, bind_regions hx hregion, if_neg hok, if_neg hfits, hconn, Bool.not_true, Bool.false_eq_true, if_false]

/-- R339: the tests of a pack on n yelms, yelm by yelm. -/
def Pack.testsOn (k : Pack) (first n : Nat) : List (Nat × Nat) :=
  (List.range n).flatMap (fun i => (List.range k.tests).map (fun t => (first + i, t)))

/-- R339: the state in which a run has taken its place among those under way. -/
def State.beginRun (s : State) (e id : Nat) (left : List (Nat × Nat)) : State :=
  s.modErr (fun b => { b with runs := b.runs.filter (fun r => r.entry != e) ++ [⟨e, id, left, [], []⟩] })

theorem effTestPackRun_begins {k : Pack} (hpack : (tvals s.err.packs).find? (fun k => k.id == leAt c.pay 0 4) = some k)
    (hfirst : leAt c.pay 4 2 < Config.yelmCount) :
    effTestPackRun s c = (
      let left := k.testsOn (leAt c.pay 4 2) (min (leAt c.pay 6 2) (Config.yelmCount - leAt c.pay 4 2))
      (((s.modEntry c.vi c.entry (fun e => { e with state := .running })).beginRun c.entry k.id left).endRuns, none)) := by
  simp only [effTestPackRun, hpack, hfirst.not_ge, if_false]
  rfl

end Effects

/-! ### TEST_END (R339, R340) -/

/-- R340: the state in which a test of a run has ended. -/
def State.testDone (s : State) (r : PackRun) (y a : Nat) (w : TestResult) : State :=
  s.modErr (fun b => { b with runs := b.runs.map (fun q => if q.entry = r.entry then
    { r with left := r.left.erase (y, w.test), tested := addNew r.tested (y, a)
             failed := if w.pass then r.failed else addNew r.failed (y, a) } else q) })

theorem exec_testEnd {s : State} {pack y a : Nat} {w : TestResult} {r : PackRun}
    (hrun : s.err.runs.find? (fun r => r.pack == pack && r.left.contains (y, w.test)) = some r) (hserve : s.serving = true)
    (harray : a < 1024) (ts : Nat) :
    exec (.testEnd ts pack y a w) s = .next (
      let o := (s.upto ts).testDone r y a w
      (if w.pass = true then o else o.testFails pack y a w).endRuns) := by
  have hserve' : (s.upto ts).serving = true := hserve
  simp only [exec, execTestEnd, State.upto_err, hrun, hserve', harray.not_ge, Bool.not_true, Bool.false_eq_true, or_self, if_false]
  rfl

/-- Settles O26: each request goes on past its guards, which its hypotheses meet, to its own effect; a test that ends leaves its run,
and what a failed one does is `State.testFails`. -/
theorem errorCommands : Obligations.ErrorCommands := by
  unfold Obligations.ErrorCommands
  refine ⟨fun s p v h => congrArg Host.Outcome.next (takeAs_completes h rfl), ?cperExport, ?testPackLoad, ?testPackRun, ?testEnd⟩
  case cperExport =>
    intro s p v x r h o mine fit rep hx hregion huse hlen
    exact ⟨fun hnone => congrArg Host.Outcome.next (takeAs_completes h
        (effCperExport_nothing (c := s.command p v) hx hregion huse hlen rfl hnone)),
      fun hsome hconn => congrArg Host.Outcome.next (takeAs_later h rfl
        (effCperExport_writes (c := s.command p v) hx hregion huse hlen rfl hsome hconn))⟩
  case testPackLoad =>
    intro s p v x r h o hx hregion huse hlen hsize hroom hconn
    exact congrArg Host.Outcome.next (takeAs_later h rfl
      (effTestPackLoad_reads (c := s.command p v) hx hregion huse hlen hsize hroom hconn))
  case testPackRun =>
    intro s p v k h o first left hpack hfirst
    exact congrArg Host.Outcome.next (takeAs_later h rfl (effTestPackRun_begins (c := s.command p v) hpack hfirst))
  case testEnd =>
    intro s ts pack y a w r hrun hserve harray o
    rw [exec_testEnd hrun hserve harray]
    refine congrArg Host.Outcome.next ?_
    unfold State.testFails
    split
    case isTrue hpass => rfl
    case isFalse hfail => split <;> rfl

end Sys2Proof.Machine
end

section
/-! PROOFS. Memory errors, residue failures and the heartbeat of the ridge firmware (R326, R327, R331, R341, R430). -/
namespace Sys2Proof.Machine

section Events
variable {s : State} (ts : Nat)

/-! ### ECC_ERROR (R327) -/

/-- R327: what an error that is not corrected does, by the row of the structure that it hits. -/
def State.eccHandled (s : State) (e : EccError) : State :=
  match e.site with
  | .stepData k => s.rerunOn k 0x0302 e.die
  | .page v k => (s.losePage v k e.die).wake
  | .imageSection v k => (s.rereadSection v e.address).rerunOn k 0x0302 e.die
  | .oneCopy => s
  | .bothCopies v q n => (s.loseItem v q n).afterStep v
  | .adapterSet v a => s.modVi v (fun x => { x with sets := tmod x.sets a (fun t => { t with damaged := true }) })
  | .monitorState y a => s.modArr y a (seedArr (s.yelmTemp y))
  | .trims y => s.reloadTrims y

theorem exec_eccError (hawake : s.pwr.state ≤ 1) (hmain : s.pins.mainUp = true) (e : EccError) :
    exec (.eccError ts e) s = .next (
      let o := (s.upto ts).report ((s.upto ts).eccRecord e)
      if e.corrected = true then o else o.eccHandled e) := by
  simp only [exec, execEccError, State.upto_pwr, State.upto_pins, hawake.not_gt, hmain, Bool.not_true, Bool.false_eq_true, or_self,
    if_false]
  rfl

/-! ### RESIDUE_FAIL (R326) -/

/-- R326, R331: the record of a residue failure in a step; units 0 to 2 lie in a yelm, unit 3 is a score engine. -/
def State.residueRecord (s : State) (unit place group : Nat) (t : Step) : Rec :=
  let e := t.entry.bind (s.entry? t.vi)
  { recOf 0x0202 1 t.vi s.now with
    queue := (e.map Entry.queue).getD 0xFFFF, psn := (e.map Entry.psn).getD 0, seq := t.seq
    yelm := if unit = 3 then 0xFFFF else place, die := if unit = 3 then 48 + group else dieOfYelm place, detail := le 1 unit ++ le 2 place }

theorem exec_residueFail {step : Nat} {t : Step} (hstep : s.step? step = some t) (hflight : t.inFlight = true) (unit place : Nat) :
    exec (.residueFail ts unit place step) s = .next (
      let group := if unit = 3 then place / 4 else place / 256
      ((((s.upto ts).report ((s.upto ts).residueRecord unit place group t)).rerunStep step 0x0202 group false).wake)) := by
  simp only [exec, execResidueFail, step?_upto, hstep, hflight, Bool.not_true, Bool.false_eq_true, if_false]
  rfl

/-! ### HEARTBEAT and HEARTBEAT_LOST (R341, R430) -/

theorem exec_heartbeat (hserve : s.serving = true) :
    exec (.heartbeat ts) s = .next ((s.upto ts).modErr (fun b => { b with hb := (b.hb + 1) % 2 ^ 32, sinceRidge := none })) := by
  have hwatched : (s.upto ts).watched = true := hserve
  simp only [exec, execHeartbeat, hwatched, Bool.not_true, Bool.false_eq_true, if_false]

/-- R341, R430: the state in which the loss has been recorded and counted against a firmware on trial. -/
def State.noteSilence (s : State) : State :=
  (s.report { recOf 0x0501 2 0xFFFF s.now with die := 60, detail := le 1 s.err.missed }).modSec SecBlk.trialFails

/-- R341: the ridge firmware is reset, or the device where none has come since the last such reset (log entry 78, DEDUCED). -/
theorem exec_heartbeatLost (hserve : s.serving = true) (hmissed : 8 ≤ s.err.missed) (hservice : s.err.outOfService = false) :
    exec (.heartbeatLost ts) s = .next (
      let o := (s.upto ts).noteSilence
      if s.err.sinceRidge.isSome = true then o.startReset 5 0 2 []
      else (o.modErr (fun b => { b with hbResets := bump b.hbResets })).startReset 4 0 2 []) := by
  have hwatched : (s.upto ts).watched = true := hserve
  simp only [exec, execHeartbeatLost, State.upto_err, hwatched, hmissed.not_gt, hservice, Bool.not_true, Bool.false_eq_true, or_self,
    if_false]
  rfl

end Events

/-- Settles O28: each event goes on past its guards, which its hypotheses meet; an error that is not corrected goes by its structure,
a lost heartbeat by whether one has come since the last reset of the ridge. -/
theorem faultEvents : Obligations.FaultEvents := by
  unfold Obligations.FaultEvents
  refine ⟨fun s ts e hawake hmain => exec_eccError ts hawake hmain e,
    fun s ts unit place step t hstep hflight => exec_residueFail ts hstep hflight unit place,
    fun s ts hserve => exec_heartbeat ts hserve, ?lost⟩
  case lost =>
    intro s ts hserve hmissed hservice o
    have hlost := exec_heartbeatLost ts hserve hmissed hservice
    exact ⟨fun hnone => by rw [hlost, hnone]; rfl, fun hsome => by rw [hlost, hsome]; rfl⟩

end Sys2Proof.Machine
end

section
/-! PROOFS. The sideband: what a transaction answers that is not carried out, and what each command does that is (R345, R398, R429,
R454, R461–R465; the order of these checks, the slot on trial and the known codes are log entry 83, DEDUCED). -/
namespace Sys2Proof.Machine

/-! ### Transactions that are not carried out (R461–R463) -/

/-- R462: every sideband command is `State.sideband` with the length and the exemption of its row. -/
theorem exec_sidebandRow {c : (SbRequest → Instr) × (List Byte → Bool) × Bool} (hc : c ∈ sidebandRows) :
    ∃ act, ∀ (s : State) (r : SbRequest), exec (c.1 r) s = .next (s.sideband r c.2.1 c.2.2 act) := by
  simp only [sidebandRows, List.mem_cons, List.not_mem_nil, or_false] at hc
  rcases hc with rfl | rfl | rfl | rfl | rfl | rfl | rfl | rfl | rfl | rfl <;> exact ⟨_, fun _ _ => rfl⟩

section Turned
variable {s : State} {r : SbRequest} {len : List Byte → Bool} {exempt : Bool} {act : State → List Byte → State × Nat × List Byte}

theorem sideband_off (hoff : s.pins.vddAon = false) : s.sideband r len exempt act = s.upto r.ts := by
  simp only [State.sideband, State.upto_pins, hoff, Bool.not_false, if_true]

theorem sideband_badPec (hon : s.pins.vddAon = true) (hpec : r.pecOk = false) :
    s.sideband r len exempt act = (s.upto r.ts).sbReply sbBadPec [] := by
  simp only [State.sideband, State.upto_pins, hon, hpec, Bool.not_true, Bool.not_false, Bool.false_eq_true, if_false, if_true]

theorem sideband_badLength (hon : s.pins.vddAon = true) (hpec : r.pecOk = true) (hlen : len r.data = false) :
    s.sideband r len exempt act = (s.upto r.ts).sbReply sbBadLength [] := by
  simp only [State.sideband, State.upto_pins, hon, hpec, hlen, Bool.not_true, Bool.not_false, Bool.false_eq_true, if_false, if_true]

theorem sideband_busy (hon : s.pins.vddAon = true) (hpec : r.pecOk = true) (hlen : len r.data = true) (hexempt : exempt = false)
    (hwaits : (s.upto r.ts).sbWaits = true) : s.sideband r len exempt act = (s.upto r.ts).sbReply sbBusy [] := by
  simp only [State.sideband, State.upto_pins, hon, hpec, hlen, hexempt, hwaits, Bool.not_true, Bool.not_false, Bool.and_self,
    Bool.false_eq_true, if_false, if_true]

end Turned

/-- Settles O58: all ten rows are one transaction (`exec_sidebandRow`), which answers by its first failed check. -/
theorem sidebandAnswers : Obligations.SidebandAnswers := by
  unfold Obligations.SidebandAnswers
  refine ⟨?row, fun s status pay => rfl⟩
  case row =>
    intro c hc s r u
    obtain ⟨act, hexec⟩ := exec_sidebandRow hc
    rw [hexec]
    exact ⟨fun hoff => congrArg _ (sideband_off hoff), fun hon => ⟨fun hpec => congrArg _ (sideband_badPec hon hpec),
      fun hpec hlen => congrArg _ (sideband_badLength hon hpec hlen),
      fun hpec hlen hexempt hwaits => congrArg _ (sideband_busy hon hpec hlen hexempt hwaits)⟩⟩

/-! ### Transactions that are carried out (R345, R398, R429, R454, R462, R464, R465) -/

section Runs
variable {s : State} {r : SbRequest}

theorem exec_wake (h : s.sidebandRuns r noBytes true = true) (hsleep : 1 < s.pwr.state ∨ s.pwr.want.isSome = true)
    (htrip : s.mon.trip = false) : exec (.wake r) s = .next (((s.upto r.ts).wakeBy 2).sbReply sbDone []) := by
  have hasleep : ¬ (s.pwr.state ≤ 1 ∧ s.pwr.want.isNone = true) := by
    rintro ⟨hrun, hnone⟩
    rcases hsleep with hlow | hsome
    · exact hlow.not_ge hrun
    · simp [Option.isNone_iff_eq_none.1 hnone] at hsome
  simp only [exec, execWake, sideband_runs _ h, State.upto_pwr, State.upto_mon, if_neg hasleep, htrip, Bool.false_eq_true, if_false]

theorem exec_serviceRestore (h : s.sidebandRuns r noBytes true = true) (hout : s.err.outOfService = true) :
    exec (.serviceRestore r) s =
      .next ((((s.upto r.ts).modErr (fun b => { b with starts := [] })).startReset 5 0 5 []).sbReply sbDone []) := by
  simp only [exec, execServiceRestore, sideband_runs _ h, State.upto_err, hout, Bool.not_true, Bool.false_eq_true, if_false]

theorem exec_regReadSb (h : s.sidebandRuns r (fun d => d.length == 5) true = true)
    (hrange : sbInRange (leAt r.data 0 4) (clampN (leAt r.data 4 1) 1 16) = true)
    (hready : 0x10000 ≤ leAt r.data 0 4 → (s.sbWaits || s.sec.romLoader || s.pwr.state == 3 || !s.pins.mainUp) = false) :
    exec (.regReadSb r) s = .next (
      let o := (s.upto r.ts).readRange 0 (leAt r.data 0 4) (clampN (leAt r.data 4 1) 1 16)
      o.2.sbReply sbDone o.1) := by
  have hgo : ¬ (decide (0x10000 ≤ leAt r.data 0 4) && (s.sbWaits || s.sec.romLoader || s.pwr.state == 3 || !s.pins.mainUp)) = true := by
    rw [Bool.and_eq_true, decide_eq_true_eq]
    exact fun hbusy => by simp [hready hbusy.1] at hbusy
  have hwaits : (s.upto r.ts).sbWaits = s.sbWaits := rfl
  simp only [exec, execRegReadSb, sideband_runs _ h, hrange, hwaits, State.upto_sec, State.upto_pwr, State.upto_pins, if_neg hgo,
    Bool.not_true, Bool.false_eq_true, if_false]

theorem exec_vi0AddrWrite (h : s.sidebandRuns r (fun d => d.length == 48) false = true)
    (hunicast : notUnicast (addrAt r.data 0).ipv6 = false)
    (hclash : s.tenants.any (fun e => addrClash e.2.addr (addrAt r.data 0)) = false) :
    exec (.vi0AddrWrite r) s =
      .next (State.sbReply { s.upto r.ts with pins := { s.pins with vi0Pend := some (addrAt r.data 0) } } sbDone []) := by
  have hclash' : (s.upto r.ts).tenants.any (fun e => addrClash e.2.addr (addrAt r.data 0)) = false := hclash
  simp only [exec, execVi0AddrWrite, sideband_runs _ h, hunicast, hclash', Bool.or_self, Bool.false_eq_true, if_false]
  rfl

/-! ### Recovery (R429, R465) -/

theorem recoverable_upto (s : State) (ts : Nat) : (s.upto ts).recoverable = s.recoverable := rfl

theorem exec_fwRecoverBegin (h : s.sidebandRuns r (fun d => d.length == 4) false = true) (hrec : s.recoverable = true)
    (hsize : leAt r.data 0 4 ≤ Config.firmwareBytes) :
    exec (.fwRecoverBegin r) s = .next (((s.upto r.ts).modSec (fun b => { b with
      slots := b.slots.set (1 - b.preferred) { b.slot (1 - b.preferred) with valid := false }
      recovery := some (leAt r.data 0 4, []) })).sbReply sbDone []) := by
  simp only [exec, execFwRecoverBegin, sideband_runs _ h, recoverable_upto, hrec, hsize.not_gt, Bool.not_true, Bool.false_eq_true,
    or_self, if_false]

/-- R465: the bytes taken in, when data have come at an offset; a gap before them is filled with zeros (log entry 83, DEDUCED). -/
def recoverAt (bs : List Byte) (o : Nat) (body : List Byte) : List Byte :=
  let padded := if bs.length < o then bs ++ zeros (o - bs.length) else bs
  padded.take o ++ body ++ padded.drop (o + body.length)

section Begun
variable {n : Nat} {bs : List Byte} (hrec : s.recoverable = true) (hbegun : s.sec.recovery = some (n, bs))
include hrec hbegun

theorem exec_fwRecoverData (h : s.sidebandRuns r (fun d => decide (5 ≤ d.length) && decide (d.length ≤ 244)) false = true)
    (hfits : leAt r.data 0 4 + (r.data.drop 4).length ≤ n) :
    exec (.fwRecoverData r) s = .next (((s.upto r.ts).modSec (fun b =>
      { b with recovery := some (n, recoverAt bs (leAt r.data 0 4) (r.data.drop 4)) })).sbReply sbDone []) := by
  simp only [exec, execFwRecoverData, sideband_runs _ h, State.upto_sec, hbegun, recoverable_upto, hrec, hfits.not_gt, Bool.not_true,
    Bool.false_eq_true, or_self, if_false]
  rfl

/-- R429, R465: the state in which a recovered package is preferred, on trial, and boots (log entry 83, DEDUCED). -/
def State.bootRecovered (s : State) (package : List Byte) : State :=
  s.modSec (fun b => SecBlk.boot { b with
    slots := b.slots.set (1 - b.preferred) (slotOf package), preferred := 1 - b.preferred, trialCount := 0, trial := true
    recovery := none })

section Finish
variable (h : s.sidebandRuns r noBytes false = true)
include h

theorem exec_fwRecoverEnd_verified (hok : fwOk s.sec (bytesAt bs 0 n) = true) :
    exec (.fwRecoverEnd r) s = .next (((s.upto r.ts).bootRecovered (bytesAt bs 0 n)).sbReply sbDone []) := by
  simp only [exec, execFwRecoverEnd, sideband_runs _ h, State.upto_sec, hbegun, recoverable_upto, hrec, hok, Bool.not_true,
    Bool.false_eq_true, if_false]
  rfl

theorem exec_fwRecoverEnd_rejected (hbad : fwOk s.sec (bytesAt bs 0 n) = false) :
    exec (.fwRecoverEnd r) s = .next (((s.upto r.ts).modSec (fun b => { b with recovery := none })).sbReply sbRefused []) := by
  simp only [exec, execFwRecoverEnd, sideband_runs _ h, State.upto_sec, hbegun, recoverable_upto, hrec, hbad, Bool.not_true,
    Bool.not_false, Bool.false_eq_true, if_false, if_true]

end Finish

end Begun

theorem exec_unknownSidebandCode {code : Nat} (h : s.sidebandRuns r (fun _ => true) true = true) (hcode : sbCodes.contains code = false) :
    exec (.unknownSidebandCode r code) s = .next ((s.upto r.ts).sbReply sbNotApplicable []) := by
  simp only [exec, execUnknownSidebandCode, hcode, sideband_runs _ h, Bool.false_eq_true, if_false]

end Runs

/-- Settles O32: a transaction that is carried out does what its command does (`sideband_runs`); each command goes on past its own
guards, which its hypotheses meet. -/
theorem sidebandCommands : Obligations.SidebandCommands := by
  unfold Obligations.SidebandCommands
  refine ⟨?exempt, fun s r h => congrArg Host.Outcome.next (sideband_runs _ h),
    fun s r h hrange hready => exec_regReadSb h hrange hready,
    fun s r h hunicast hclash => exec_vi0AddrWrite h hunicast hclash,
    fun s r h hrec hsize => exec_fwRecoverBegin h hrec hsize,
    fun s r n bs h hrec hbegun hfits => exec_fwRecoverData hrec hbegun h hfits,
    ?recoverEnd,
    fun s r code h hcode => exec_unknownSidebandCode h hcode⟩
  case exempt =>
    intro s r h o
    exact ⟨congrArg Host.Outcome.next (sideband_runs _ h), congrArg Host.Outcome.next (sideband_runs _ h),
      fun hsleep htrip => exec_wake h hsleep htrip, fun hout => exec_serviceRestore h hout⟩
  case recoverEnd =>
    intro s r n bs h hrec hbegun
    split
    case isTrue hok => exact exec_fwRecoverEnd_verified hrec hbegun h hok
    case isFalse hbad => exact exec_fwRecoverEnd_rejected hrec hbegun h (Bool.eq_false_iff.2 hbad)

end Sys2Proof.Machine
end

section
/-! PROOFS. The stream of a pair, its lease and its timeouts, takeover and leaving (R352, R354–R356, R361–R364, R366, R368). -/
namespace Sys2Proof.Machine

section Events
variable {s : State} {v : Nat} {x : Vi} (ts : Nat)

/-! ### The mirror takes the stream (R354, R356) -/

section Stream
variable {r : MirrorRecord} (hx : s.vi? v = some x) (hformer : x.pair.former = none) (hmirror : x.pair.role = 2)
  (hpaired : x.pair.state = 2)
include hx hformer hmirror hpaired

theorem exec_mirrorRecord_next (hcrc : r.crcOk = true) (hseq : r.seqno = x.pair.expect) (hlen : r.length ≤ 16777216) :
    exec (.mirrorRecord ts v r) s = .next (
      let o := (s.upto ts).modPair v (fun p => { p with expect := r.seqno + 1, group := x.pair.group ++ [r] })
      if r.groupEnd = true then o.mirrorGroup v (x.pair.group ++ [r]) r.seqno r.stamp else o) := by
  simp only [exec, execMirrorRecord, vi?_upto, hx, hformer, hmirror, hpaired, hcrc, hseq, hlen.not_gt, ne_eq, not_true_eq_false,
    Nat.reduceEqDiff, Nat.reduceBEq, Bool.or_true, Bool.not_true, Bool.false_eq_true, false_and, or_self, if_false, Option.map_some,
    Option.getD_some]

/-- R354, R356: a mirror whose stream is broken waits for a new snapshot. -/
theorem exec_mirrorRecord_broken (hbad : r.crcOk = false ∨ r.seqno ≠ x.pair.expect ∨ 16777216 < r.length) :
    exec (.mirrorRecord ts v r) s = .next ((s.upto ts).modPair v (fun p => { p with state := 1, broken := true, group := [] })) := by
  rw [← Bool.not_eq_true'] at hbad
  simp only [exec, execMirrorRecord, vi?_upto, hx, hformer, hmirror, hpaired, if_pos hbad, ne_eq, not_true_eq_false,
    Nat.reduceEqDiff, Nat.reduceBEq, Bool.or_true, Bool.not_true, Bool.false_eq_true, false_and, or_self, if_false, if_true,
    Option.map_some, Option.getD_some]

end Stream

/-! ### Acknowledgement, lease and fence (R355, R361, R362) -/

/-- R361, R362: the pair of a home when its records up to a number have been acknowledged: they go, the lease is renewed, and a fence
ends while the lease lies ahead (log entry 67, DEDUCED). -/
def Pair.acked (p : Pair) (seqno ackStamp lease now : Nat) : Pair :=
  { p with unacked := p.unacked.filter (fun r => decide (seqno < r.seqno)), ackStamp := ackStamp, leaseEnd := lease
           state := if p.state = 3 ∧ now < lease then 2 else p.state }

/-- R360: the records that an acknowledgement covers. -/
def Pair.covered (p : Pair) (seqno : Nat) : List PairRec := p.unacked.filter (fun r => decide (r.seqno ≤ seqno))

/-- R361: the stamp from which the lease runs: that of the last record covered. -/
def Pair.ackedAt (p : Pair) (seqno stamp : Nat) : Nat := max p.ackStamp ((((p.covered seqno).getLast?).map PairRec.stamp).getD stamp)

theorem exec_ack {seqno : Nat} (hx : s.vi? v = some x) (hformer : x.pair.former = none) (hhome : x.pair.role = 1)
    (hstate : x.pair.state = 2 ∨ x.pair.state = 3) (hsending : x.pair.sending = true) (hsent : seqno < x.pair.nextSeqno) (stamp : Nat) :
    exec (.ack ts v seqno stamp) s = .next (
      let at_ := x.pair.ackedAt seqno stamp
      ((s.upto ts).modPair v (fun p => p.acked seqno at_ (at_ + x.pair.leaseMs * 1000000) (s.upto ts).now)).releaseAccepted v
        (x.pair.covered seqno)) := by
  have hlive : ¬ (x.pair.role ≠ 1 ∨ x.pair.state = 5) := by omega
  have hpaired : x.pair.state ≠ 4 := by omega
  have hjoined : x.pair.state ≠ 1 := by omega
  simp only [exec, execAck, vi?_upto, hx, hformer, if_neg hlive, hpaired, hjoined, hsending, hsent.not_ge, Option.isSome_none,
    Bool.not_true, Bool.false_eq_true, false_and, or_self, if_false]
  rfl

theorem exec_keepalive (hx : s.vi? v = some x) (hdue : x.pair.lastSent + x.pair.leaseMs * 125000 ≤ (s.upto ts).now) :
    exec (.keepalive ts v) s = .next ((s.upto ts).emit v none true .keepalive) := by
  simp only [exec, execKeepalive, vi?_upto, hx, if_pos hdue]

theorem exec_leaseExpiry (hx : s.vi? v = some x) (hhome : x.pair.role = 1) (hpaired : x.pair.state = 2)
    (hdue : x.pair.leaseEnd ≤ (s.upto ts).now) : exec (.leaseExpiry ts v) s = .next ((s.upto ts).fence v true) := by
  simp only [exec, execLeaseExpiry, vi?_upto, hx, hhome, hpaired, hdue, and_self, if_true]

/-! ### Joining, takeover and leaving (R352, R364, R366, R368) -/

theorem exec_deposeTimeout (hx : s.vi? v = some x) (hmirror : x.pair.role = 2) (htaking : x.pair.state = 6)
    (hdue : x.pair.takeStart + 2 * x.pair.leaseMs * 1000000 ≤ (s.upto ts).now) :
    exec (.deposeTimeout ts v) s = .next ((s.upto ts).takeover v) := by
  simp only [exec, execDeposeTimeout, vi?_upto, hx, hmirror, htaking, hdue, and_self, if_true]

theorem exec_joinTimeout (hx : s.vi? v = some x) (hmirror : x.pair.role = 2) (hjoining : x.pair.state = 1)
    (hentry : x.pair.joinEntry.isSome = true) (hnone : x.pair.expect = 0) (hdue : x.pair.joinStart + 10000000000 ≤ (s.upto ts).now) :
    exec (.joinTimeout ts v) s = .next (((s.upto ts).joinFails v).modPair v Pair.ended) := by
  have hwaits : x.pair.joinEntry.isNone = false := by rw [← Option.not_isSome, hentry]; rfl
  simp only [exec, execJoinTimeout, vi?_upto, hx, hmirror, hjoining, hwaits, hnone, hdue.not_gt, ne_eq, not_true_eq_false,
    Bool.false_eq_true, lt_self_iff_false, or_self, if_false]

/-- R364, R366: a home that is deposed ends its steps and answers after its last record (log entry 69, DEDUCED). -/
theorem exec_depose (hx : s.vi? v = some x) (hhome : x.pair.role = 1) (hstate : x.pair.state ≠ 5) :
    exec (.depose ts v) s = .next
      (((((s.upto ts).abandonSteps (fun _ t => t.vi == v && !t.ending)).1).pairSend v x.pair.rc .deposed).enterDeposed v) := by
  simp only [exec, execDepose, vi?_upto, hx, hhome, hstate, ne_eq, not_true_eq_false, or_self, if_false]

theorem exec_deposed_mirror (hx : s.vi? v = some x) (hmirror : x.pair.role = 2) (htaking : x.pair.state = 6) :
    exec (.deposed ts v) s = .next ((s.upto ts).takeover v) := by
  simp only [exec, execDeposed, vi?_upto, hx, hmirror, htaking, if_true]

/-- R366: a home that learns that it has been deposed. -/
theorem exec_deposed_home (hx : s.vi? v = some x) (hhome : x.pair.role = 1) (hstate : x.pair.state ≠ 5) (hmirrored : x.pair.state ≠ 4) :
    exec (.deposed ts v) s = .next (((s.upto ts).modPair v (fun p => { p with deposedSeen := true })).enterDeposed v) := by
  simp only [exec, execDeposed, vi?_upto, hx, hhome, hstate, hmirrored, ne_eq, not_true_eq_false, OfNat.one_ne_ofNat, decide_false,
    Bool.or_false, Bool.false_eq_true, if_false]

theorem exec_leave (hx : s.vi? v = some x) (hrole : x.pair.role ≠ 0) (hstate : x.pair.state < 5) :
    exec (.leave ts v) s = .next ((s.upto ts).unpair v x) := by
  simp only [exec, execLeave, vi?_upto, hx, hrole, hstate.not_ge, or_self, if_false]

end Events

/-- Settles O37: a record goes by whether it follows those before it; each other event goes on past its guards, which its hypotheses
meet. -/
theorem pairEvents : Obligations.PairEvents := by
  unfold Obligations.PairEvents
  refine ⟨?record, ?ack, ?others⟩
  case record =>
    intro s ts v r x hx hformer hmirror hpaired o
    exact ⟨exec_mirrorRecord_next ts hx hformer hmirror hpaired, exec_mirrorRecord_broken ts hx hformer hmirror hpaired⟩
  case ack =>
    intro s ts v seqno stamp x hx hformer hhome hstate hsending hsent p done at_ lease
    exact exec_ack ts hx hformer hhome hstate hsending hsent stamp
  case others =>
    intro s ts v x hx o
    exact ⟨exec_keepalive ts hx, exec_leaseExpiry ts hx, exec_deposeTimeout ts hx, exec_joinTimeout ts hx, exec_depose ts hx,
      exec_deposed_mirror ts hx, exec_deposed_home ts hx, exec_leave ts hx⟩

end Sys2Proof.Machine
end

section
/-! PROOFS. The brake and the clock references (R410, R411, R418, R419). -/
namespace Sys2Proof.Machine

section Brake
variable (s : State) (ts : Nat)

/-! ### The brake (R410, R411) -/

/-- R410: the state in which the brake pin has been seen at a level; it is low active. -/
def State.withBrakePin (s : State) (high : Bool) : State := { s with pins := { s.pins with pbrakeL := high } }

/-- R410: the state in which the brake has come into force. -/
def State.brake (s : State) : State :=
  s.modPwr (fun b => { b with brakeOn := true, brakeSeen := true, brakeEvents := bump b.brakeEvents, brakeStart := s.now, brakeLit := 0 })

/-- R411: the state in which the brake has been let go. -/
def State.unbrake (s : State) : State :=
  s.modPwr (fun b => { b with brakeOn := false, brakeLit := 1, brakeUs := satAdd b.brakeUs ((s.now - b.brakeStart) / 1000) })

theorem exec_pbrakeAssert : exec (.pbrakeAssert ts) s = .next
    (if 1 < s.pwr.state ∨ s.pwr.brakeOn = true then (s.upto ts).withBrakePin false else ((s.upto ts).withBrakePin false).brake) := rfl

theorem exec_pbrakeRelease : exec (.pbrakeRelease ts) s = .next
    (if s.pwr.brakeOn = false then (s.upto ts).withBrakePin true else ((s.upto ts).withBrakePin true).unbrake.pumpAllTiles) := by
  simp only [exec, execPbrakeRelease, State.upto_pwr, Bool.not_eq_true']
  rfl

theorem exec_brakeRampTick : exec (.brakeRampTick ts) s = .next
    (if s.pwr.brakeOn = true then s.upto ts else (s.upto ts).modPwr (fun b => { b with brakeLit := min 16 (b.brakeLit + 1) })) := rfl

end Brake

/-! ### Clock references (R418, R419) -/

section Clock
variable {s : State} {ref : Nat} (ts : Nat)

/-- R418, R419: the clocks without a reference: its PLLs coast from the stamp on. -/
def ClkBlk.lose (b : ClkBlk) (ref now : Nat) : ClkBlk :=
  { b with
    refOk := b.refOk.set ref false, relock := b.relock.set ref false, coast := 1, lossEvents := bump b.lossEvents
    pllState := (pllsOf ref).foldl (fun ps i => ps.set i 3) b.pllState
    pllMhz := (pllsOf ref).foldl (fun ps i => ps.set i (coastMhz i)) b.pllMhz
    coastStart := some (b.coastStart.getD now) }

theorem exec_refLoss (hknown : ref ≤ 2) (hok : lget s.clk.refOk ref false = true) :
    exec (.refLoss ts ref) s = .next (
      let o := { s.upto ts with clk := s.clk.lose ref (s.upto ts).now }
      if ref = 0 then o else (List.range 4).foldl (fun s i => s.dropLink (4 * (ref - 1) + i)) o) := by
  simp only [exec, execRefLoss, State.upto_clk, hknown.not_gt, hok, Bool.not_true, Bool.false_eq_true, or_self, if_false]
  unfold ClkBlk.lose
  cases s.clk.coastStart <;> rfl

theorem exec_refReturn (hknown : ref ≤ 2) (hlost : lget s.clk.refOk ref false = false) :
    exec (.refReturn ts ref) s = .next
      { s.upto ts with clk := { s.clk with refOk := s.clk.refOk.set ref true, relock := s.clk.relock.set ref true } } := by
  simp only [exec, execRefReturn, State.upto_clk, hknown.not_gt, hlost, Bool.false_eq_true, or_self, if_false]

end Clock

/-- Settles O30: the pin by whether the brake is in force, a reference by whether it is lost. -/
theorem brakeAndClockEvents : Obligations.BrakeAndClockEvents := by
  unfold Obligations.BrakeAndClockEvents
  refine ⟨fun s ts => exec_pbrakeAssert s ts, ?release, fun s ts => exec_brakeRampTick s ts,
    fun s ts ref hknown hok => exec_refLoss ts hknown hok, fun s ts ref hknown hlost => exec_refReturn ts hknown hlost⟩
  case release =>
    intro s ts o
    exact ⟨fun hon => (exec_pbrakeRelease s ts).trans (congrArg _ (if_neg (by simp [hon]))),
      fun hoff => (exec_pbrakeRelease s ts).trans (congrArg _ (if_pos hoff))⟩

end Sys2Proof.Machine
end

section
/-! PROOFS. The sentinel, its conversions, and the sources that wake the device (R374, R388, R390–R392, R395, R396, R398–R401; channels
without power are log entry 54, CALREF_MEAS is log entry 61, WAKE_AT is log entry 56). -/
namespace Sys2Proof.Machine

/-! ### SEQ_CFG_WRITE (R392, R400) -/

section Config
variable {s : State} {v e value : Nat}

theorem seqCfgSet_user (hv : v = 0) (hfirst : 24 ≤ e) (hlast : e ≤ 31) : s.seqCfgSet v e value =
    s.modMon (fun b => { b with cfgPend := tset b.cfgPend e (cfgClamp value), res := b.res.set e (lget b.res e 0 % 2 ^ 31) }) :=
  if_neg (by omega)

/-- R393, R400: what a tenant writes, and what is written to no user entry, changes nothing. -/
theorem seqCfgSet_ignored (h : v ≠ 0 ∨ e < 24 ∨ 31 < e) : s.seqCfgSet v e value = s := if_pos h

end Config

/-! ### MONITOR_CONVERSION (R388, R390, R391, R395, R396) -/

/-- R391: the SUB that a conversion of an entry is of. -/
def convSub (w sub : Nat) : Nat := if cfgCh w = 16 ∨ cfgCh w = 17 then (if cfgScan w then sub else cfgSub w) else 0

/-- R390, R392: the state in which a conversion has named its reference and left the result registers so. -/
def State.converted (s : State) (w : Nat) (settled : Bool) (res : List Nat) : State :=
  s.modMon (fun b => { b with seqBusy := true, refNow := s.refOf (cfgRef w), refSettled := settled, res := res })

/-- R373, R374, R396: what an entry decides: CALREF_MEAS (log entry 61, DESIGN CHOICE), a die, the reference, a reference DAC. -/
def State.entryDecides (s : State) (e sb w code : Nat) (bad : Bool) : State :=
  let uv := fun (o : State) => ratRoundAway (o.codeVolts w code * 1000000)
  let o := if e = 0 then s.modCal (fun b => { b with refMeas := (uv s).toNat }) else s
  let o := if e = 12 then o.dieDecides sb else o
  let o := if e = 1 then o.refDecides bad else o
  if e = 13 then o.rdacDecides sb (uv o) else o

/-- R395: the filtered value that a quantity has, where it is valid. -/
def State.validFilt (s : State) (i : Nat) : Option F32 :=
  match tget s.mon.filt i with
  | some (v, _, true) => some v
  | _ => none

theorem validFilt_eq (s : State) (i : Nat) : s.validFilt i = (tget s.mon.filt i).bind (fun f => if f.2.2 then some f.1 else none) := by
  unfold State.validFilt
  rcases tget s.mon.filt i with _ | ⟨v, t, valid⟩
  · rfl
  · cases valid <;> rfl

/-- R395, R396: a sample enters the filter of its quantity, the entry decides, and then the rail that the quantity is of. -/
def State.takeSample (s : State) (e sb w code : Nat) (bad : Bool) (q : Option (Nat × Nat × Rat)) : State :=
  let o := State.entryDecides (match q with
    | some (i, tau, x) => s.filterSample i tau x
    | none => s) e sb w code bad
  match q with
  | some (i, _, _) => o.railDecides i (q.bind (fun q => s.validFilt q.1))
  | none => o

theorem takeSample_eq (s : State) (e sb w code : Nat) (bad : Bool) (q : Option (Nat × Nat × Rat)) :
    s.takeSample e sb w code bad q =
      let o := ((q.map (fun q => s.filterSample q.1 q.2.1 q.2.2)).getD s).entryDecides e sb w code bad
      (q.map (fun i => o.railDecides i.1
        (q.bind (fun q => (tget s.mon.filt q.1).bind (fun f => if f.2.2 then some f.1 else none))))).getD o := by
  simp only [← validFilt_eq]
  cases q <;> rfl

/-- R388–R396: a conversion that is made, of an entry or, as part of entry 2, of a digital rail. -/
theorem exec_monitorConversion {s : State} {e sub : Nat} {ratios : List Int} {rail : Bool} (hon : s.pins.vddAon = true)
    (hratios : ratios ≠ []) (hrail : (decide (e = 2) && decide (18 ≤ sub) && decide (sub ≤ 47)) = rail)
    (hpower : (if rail then s.chanOn sub else s.seqRuns e) = true) (ts : Nat) (settled : Bool) :
    exec (.monitorConversion ts e sub ratios settled) s = .next (
      let w := s.seqCfg e
      let r := convMean (cfgGain w) ratios
      let sb := convSub w sub
      let o := (s.upto ts).converted w settled (if rail then s.mon.res else s.mon.res.set e (resWord r.1 sb r.2 settled))
      let o' := o.takeSample e sb w r.1 (r.2 || !settled) (quantity e (if rail then sub else sb) (o.codeVolts w r.1))
      if (!rail && o'.lastOfRound e sb) = true then o'.endRound else o') := by
  subst hrail
  refine congrArg Host.Outcome.next (if_neg ?_)
  rintro (hoff | hnone | hdark)
  · rw [State.upto_pins, hon] at hoff
    cases hoff
  · exact hratios hnone
  · split at hdark
    case isTrue hsub =>
      have hlit : (s.upto ts).chanOn sub = true := (if_pos hsub).symm.trans hpower
      rw [hlit] at hdark
      cases hdark
    case isFalse hentry =>
      have hlit : (s.upto ts).seqRuns e = true := (if_neg hentry).symm.trans hpower
      rw [hlit] at hdark
      cases hdark

/-- R395, R396: the digital rails are quantities of their own, of which entry 2 decides nothing but their windows. -/
theorem takeSample_digitalRail {sub : Nat} (hfirst : 18 ≤ sub) (hlast : sub ≤ 47) (s : State) (sb w code : Nat) (bad : Bool) (x : Rat) :
    s.takeSample 2 sb w code bad (quantity 2 sub x) = (s.filterSample (sub + 57) 4000000 (4 * x)).railDecides (sub + 57)
      ((tget s.mon.filt (sub + 57)).bind (fun f => if f.2.2 then some f.1 else none)) := by
  have hq : quantity 2 sub x = some (sub + 57, 4000000, 4 * x) := if_pos ⟨rfl, hfirst, hlast⟩
  rw [hq, takeSample_eq]
  rfl

/-! ### Waking (R398, R399, R401) -/

section Wake
variable {s : State} (ts : Nat)

theorem exec_wakeAt (harmed : s.mon.wakeArmed = true) (hdue : s.mon.wakeAt ≤ (s.upto ts).now) :
    exec (.wakeAt ts) s = .next (((s.upto ts).modMon (fun b => { b with wakeArmed := false })).wakeBy 4) := by
  simp only [exec, execWakeAt, State.upto_mon, harmed, hdue.not_gt, Bool.not_true, Bool.false_eq_true, or_self, if_false]

/-- R401: the stamp that a write of the high half arms. -/
def State.wakeStamp (s : State) (hi : Nat) : Nat := hi % 2 ^ 32 * 2 ^ 32 + s.mon.wakeLo

theorem armWake_ahead {hi : Nat} (h : s.wakeStamp hi = 0 ∨ s.now < s.wakeStamp hi) : s.armWake 0 hi =
    s.modMon (fun b => { b with wakeAt := s.wakeStamp hi, wakeArmed := decide (s.wakeStamp hi ≠ 0) }) := by
  have hahead : ¬ (s.wakeStamp hi ≠ 0 ∧ s.wakeStamp hi ≤ s.now) := by omega
  exact (if_neg (not_not.2 rfl)).trans (if_neg hahead)

theorem armWake_past_asleep {hi : Nat} (hset : s.wakeStamp hi ≠ 0) (hpast : s.wakeStamp hi ≤ s.now) (hasleep : 1 < s.pwr.state) :
    s.armWake 0 hi = (s.modMon (fun b => { b with wakeAt := 0, wakeLo := 0, wakeArmed := false })).wakeBy 4 := by
  unfold State.wakeStamp at hset hpast
  simp only [State.armWake, hset, hpast, hasleep, ne_eq, not_true_eq_false, not_false_eq_true, and_self, decide_true, if_false, if_true]

theorem armWake_past_awake {hi : Nat} (hset : s.wakeStamp hi ≠ 0) (hpast : s.wakeStamp hi ≤ s.now) (hawake : s.pwr.state ≤ 1) :
    s.armWake 0 hi = s.modMon (fun b => { b with wakeAt := s.wakeStamp hi, wakeLo := b.wakeLo, wakeArmed := false }) := by
  unfold State.wakeStamp at *
  simp only [State.armWake, hset, hpast, hawake.not_gt, ne_eq, not_true_eq_false, not_false_eq_true, and_self, decide_false,
    Bool.false_eq_true, if_false, if_true]

/-- R399: a packet that passes the first checks in Doze is held where the buffer has room, and wakes the device. -/
theorem exec_wakePacket {t : State} {f : Frame} {p : Packet} (hdoze : s.pwr.state = 2) (hport : f.lport = s.wakePort)
    (hrx : (s.upto f.ts).rxPort f.lport f.rx = (true, t)) (hsloson : f.sloson = some p) (hok : t.wakeOk p = true) :
    exec (.wakePacket f) s = .next (if heldBytes t.mon.held + p.bytes.length ≤ Config.holdBytes
      then (t.modMon (fun b => { b with held := b.held ++ [f] })).wakeBy 3
      else (t.modMon (fun b => { b with wakeDropped := bump b.wakeDropped })).wakeBy 3) := by
  have hlistens : ¬ ((s.upto f.ts).pwr.state ≠ 2 ∨ f.lport ≠ (s.upto f.ts).wakePort) := by
    rintro (hstate | hother)
    · exact hstate hdoze
    · exact hother hport
  simp only [exec, execWakePacket, if_neg hlistens, hrx, hsloson, hok, Bool.not_true, Bool.false_eq_true, if_false]

end Wake

/-- Settles O33: a conversion that is made takes its sample (`exec_monitorConversion`, `takeSample_eq`); each other event goes on past
its guards, which its hypotheses meet. -/
theorem sentinelEvents : Obligations.SentinelEvents := by
  unfold Obligations.SentinelEvents
  refine ⟨?cfgWrite, ?entry, ?digitalRail, fun s ts => ⟨rfl, rfl, exec_wakeAt ts⟩, ?wakeAtHi,
    fun s t f p hdoze hport hrx hsloson hok => exec_wakePacket hdoze hport hrx hsloson hok⟩
  case cfgWrite =>
    intro s ts v e value
    exact ⟨fun hv hfirst hlast => congrArg Host.Outcome.next (seqCfgSet_user hv hfirst hlast),
      fun h => congrArg Host.Outcome.next (seqCfgSet_ignored h)⟩
  case entry =>
    intro s ts e sub ratios settled hon hratios o w r sb q uv was filtered o1 o2 o3 o4 o5 o6 o7 hentry hruns
    have hrail : (decide (e = 2) && decide (18 ≤ sub) && decide (sub ≤ 47)) = false := by
      rw [Bool.and_assoc, ← Bool.decide_and, ← Bool.decide_and]
      exact decide_eq_false hentry
    have hsample : o1.takeSample e sb w r.1 (r.2 || !settled) (q o1 sb) = o7 := takeSample_eq ..
    rw [← hsample]
    exact exec_monitorConversion hon hratios hrail hruns ts settled
  case digitalRail =>
    intro s ts sub ratios settled hon hratios hfirst hlast hpower o w o1 x
    have hrail : (decide (2 = 2) && decide (18 ≤ sub) && decide (sub ≤ 47)) = true := by simp [hfirst, hlast]
    exact (exec_monitorConversion hon hratios hrail hpower ts settled).trans
      (congrArg Host.Outcome.next (takeSample_digitalRail hfirst hlast o1 (convSub w sub) ..))
  case wakeAtHi =>
    intro s ts value o t
    exact ⟨fun h => congrArg Host.Outcome.next (armWake_ahead (s := o) h),
      fun hset hpast hasleep => congrArg Host.Outcome.next (armWake_past_asleep (s := o) hset hpast hasleep),
      fun hset hpast hawake => congrArg Host.Outcome.next (armWake_past_awake (s := o) hset hpast hawake)⟩

end Sys2Proof.Machine
end
